-- ==== Sys2Proof/Word.lean ====
section
/-! DEFINITION. The words and bytes of the Uliud, and their plainest arithmetic. -/

namespace Sys2Proof

/-- A 64-bit scalar register, address or control register (R33). -/
abbrev Word := BitVec 64

/-- One byte of memory. -/
abbrev Byte := BitVec 8

/-- The contents of a vector register: 1,024 bytes (R34). -/
abbrev VWord := BitVec 8192

/-- The contents of a mask register: 1,024 bits (R35). -/
abbrev KWord := BitVec 1024

/-- A 64-byte line of memory. -/
abbrev LineWord := BitVec 512

end Sys2Proof
end

