-- ==== Sys2Proof/Syntax.lean ====
section
/-! DEFINITION. The instructions of the Uliud, one constructor for each row of spec/opcode_table.json: the
32-bit words, the long forms, and the machine events. An event's arguments name the context, cluster, queue or
message it happens to and carry what the outside world supplies. -/

namespace Sys2Proof

/-- A scalar register field s0 to s63 (R91). -/
abbrev SReg := Fin 64
/-- A predicate p0 to p7. -/
abbrev PReg := Fin 8
/-- The guard of a long form, p0 to p3 (R26). -/
abbrev GReg := Fin 4
/-- A vector register v0 to v31, or the number of a tile. -/
abbrev VReg := Fin 32
/-- A mask register k0 to k7. -/
abbrev KReg := Fin 8
/-- A stream register q0 to q3. -/
abbrev QReg := Fin 4

/-- A vector source of a long form: values 0 to 31 name v registers, 32 to 35 stream registers (R91). -/
inductive VSrc where
  | v (r : VReg)
  | q (r : QReg)
deriving DecidableEq, Repr

/-- Element types (R62, R64, R65, R95); the code 15 is bs32, or bs64 by the bit W of the long form. -/
inductive Ty where
  | i8 | n8 | i16 | n16 | i32 | n32 | i64 | n64
  | f16 | bf16 | f32 | f64 | e4m3 | e5m2 | e2m1 | bs32 | bs64
deriving DecidableEq, Repr

/-- Matrix operand formats (R96). -/
inductive Fmt where
  | i8 | f16 | bf16 | f32 | f64 | e4m3 | e5m2 | e2m1 | m8 | m4 | q8 | q4 | bs32
deriving DecidableEq, Repr

/-- Condition codes (R97). -/
inductive Cc where
  | eq | ne | lt | ge | le | gt | ltn | gen | len | gtn
deriving DecidableEq, Repr

/-- Scopes (R94, R309). -/
inductive Scope where
  | ctx | core | cluster | die | pkg | sys
deriving DecidableEq, Repr

/-- Orderings of the long forms (R94). -/
inductive MemOrd where
  | rlx | acq | rel | acqrel | sc
deriving DecidableEq, Repr

/-- The ord field of the SM format (R93): relaxed, or acquire or release at a scope. -/
inductive SmOrd where
  | rlx | cluster | pkg | sys
deriving DecidableEq, Repr

/-- Rounding modes (R69). -/
inductive Rm where
  | rne | rtz | rup | rdn | rna
deriving DecidableEq, Repr

/-- A rounding code: a static mode, or the mode RND holds (R70). -/
inductive Rc where
  | fixed (m : Rm)
  | dyn
deriving DecidableEq, Repr

/-- Reduction and scan operators (R99). -/
inductive RedOp where
  | add | min | max | minn | maxn | and | or | xor
deriving DecidableEq, Repr

/-- View operators (R99, R270). -/
inductive ViewOp where
  | addI32 | addI64 | addF32 | addBs32 | addBs64 | minI32 | minI64 | maxI32 | maxI64
  | minnN32 | minnN64 | maxnN32 | maxnN64 | and | or | xor
deriving DecidableEq, Repr

/-- Atomic operations (R101, R137). -/
inductive AmoOp where
  | add | and | or | xor | min | max | minn | maxn | swp | cas | fadd | trig
deriving DecidableEq, Repr

/-- Sizes of the scalar long forms (R115). -/
inductive MemSize where
  | b | bn | h | hn | w | wn | d
deriving DecidableEq, Repr

/-- Addressing modes of vld and vst (R98). -/
inductive Am where
  | unit | inc | rep
deriving DecidableEq, Repr

/-- The operation a long form of sub 0x10 carries (R105, R115). -/
inductive VOp where
  | vadd | vsub | vmul | vmulh | vmin | vmax | vand | vor | vxor | vandn | vshl | vshr | vsha | vabs | vneg
  | vfma | vfms | vfnma | vrcp | vrsq
  | vcmp (cc : Cc)
  | vsel | viota | vcompress | vexpand | vperm
  | vcvt (st : Ty) | vscl | vqnt | vexpmax | vbin
  | vred (op : RedOp) | vscan (op : RedOp)
  | kand | kor | kxor | kandn | kmov
deriving DecidableEq, Repr

/-- A host port (R12). -/
inductive Port where
  | a | b
deriving DecidableEq, Repr

/-- A slot of the barrier doorbell table, and the port whose access names it (R306, R308). -/
structure Doorbell where
  port : Port
  slot : Nat
deriving DecidableEq, Repr
/-- The device that an Ultra Ethernet transfer comes from, and the address that it names here (R406). -/
structure RemoteAddr where
  device : Nat
  va : Nat
deriving DecidableEq, Repr
/-- A link whose partner returns credit (R408): a host port, or the UALink path to a device. -/
inductive Link where
  | port (p : Port)
  | ualink (device : Nat)
deriving DecidableEq, Repr

/-- What a measurement of a core found (R423, R427): eight FMAX in MHz, eight LEAK in mW, TSLOPE in kHz per
degree, and whether the self-test at point 7 passed. -/
structure Curve where
  fmax : List Nat
  leak : List Nat
  tslope : Int
  passed : Bool
deriving DecidableEq, Repr

/-- Where an error in storage lies (R431, R442, R443). -/
inductive ErrSite where
  | core (core line : Nat)            -- a core's arrays, no task's state: a physical line in L1, or a scratchpad line
  | channel (index : Nat) (line : Nat) -- HBM channel 32s + c, and the physical line
  | line (line : Nat)                 -- a line in a slice or the memory-side cache
  | context (core ctx : Nat)          -- a context's registers
  | bank (core bank : Nat)            -- a vector bank
  | mailbox (core index : Nat)        -- a mailbox entry
  | spill (core index : Nat)          -- a spill-ring entry
  | saved (id channel : Nat)          -- a saved record, and the HBM channel that the save arena keeps it in (R392)
  | arena (chain seg line channel : Nat) -- a private line of a segment of a chain, and the HBM channel that backs it (R273)
deriving DecidableEq, Repr

/-- A register of the shared control space or of a debug module that has no row of its own: a host write reaches it
(REGISTER_WRITE), and the host reads it (R17). -/
inductive HostReg where
  | quantum
  | mwin
  | xasid
  | trial (core : Nat)
  | doorTable (slot word : Nat)
  | fwall (cluster : Nat)
  | dbg (cluster off : Nat)
  | staging (table image : List Byte) -- the boot staging area (R438)
  | bootStat                          -- R438
  | loadReq (word : Nat)              -- R441
  | loadStat
  | pm (word : Nat)                   -- eight words each (R437, R441)
  | am (asid word : Nat)
  | health (word : Nat)               -- a word of the health table (R431)
deriving DecidableEq, Repr

/-- A request of a UALink peer (R405): at most 64 bytes. -/
inductive PeerReq where
  | read (len : Nat)
  | write (data : List Byte)
  | atomic (op : AmoOp) (half : Bool) (x expect : Word)
deriving DecidableEq, Repr

/-- The instructions and events. -/
inductive Instr where
  /-- ADD (R117): Writes the 64-bit wrapped sum of two scalar registers. -/
  | add (d a b : SReg) (g : PReg)
  /-- SUB (R117): Writes the 64-bit wrapped difference of two scalar registers. -/
  | sub (d a b : SReg) (g : PReg)
  /-- MUL (R117): Writes the low 64 bits of the product of two scalar registers. -/
  | mul (d a b : SReg) (g : PReg)
  /-- MULH (R117): Writes the high 64 bits of the signed 128-bit product. -/
  | mulh (d a b : SReg) (g : PReg)
  /-- MULHN (R117): Writes the high 64 bits of the unsigned 128-bit product. -/
  | mulhn (d a b : SReg) (g : PReg)
  /-- DIV (R118): Signed division truncated toward zero on the core's single divider, with fixed results for zero and overflow. -/
  | div (d a b : SReg) (g : PReg)
  /-- DIVN (R118): Unsigned division on the core's divider. -/
  | divn (d a b : SReg) (g : PReg)
  /-- REM (R118): Signed remainder, taking the sign of the dividend. -/
  | rem (d a b : SReg) (g : PReg)
  /-- REMN (R118): Unsigned remainder. -/
  | remn (d a b : SReg) (g : PReg)
  /-- AND (R117): Bitwise AND of two scalar registers. -/
  | and (d a b : SReg) (g : PReg)
  /-- OR (R117): Bitwise OR of two scalar registers. -/
  | or (d a b : SReg) (g : PReg)
  /-- XOR (R117): Bitwise XOR of two scalar registers. -/
  | xor (d a b : SReg) (g : PReg)
  /-- SHL (R117): Shifts left by s[b][5:0]. -/
  | shl (d a b : SReg) (g : PReg)
  /-- SHR (R117): Shifts right with zero fill by s[b][5:0]. -/
  | shr (d a b : SReg) (g : PReg)
  /-- SHA (R117): Shifts right with sign fill by s[b][5:0]. -/
  | sha (d a b : SReg) (g : PReg)
  /-- ROT (R117): Rotates right by s[b][5:0]. -/
  | rot (d a b : SReg) (g : PReg)
  /-- MIN (R117): Writes the signed minimum of two registers. -/
  | min (d a b : SReg) (g : PReg)
  /-- MAX (R117): Writes the signed maximum of two registers. -/
  | max (d a b : SReg) (g : PReg)
  /-- MINN (R117): Writes the unsigned minimum of two registers. -/
  | minn (d a b : SReg) (g : PReg)
  /-- MAXN (R117): Writes the unsigned maximum of two registers. -/
  | maxn (d a b : SReg) (g : PReg)
  /-- LEA (R124): Writes s[a] plus s[b] scaled by 1, 2, 4 or 8. -/
  | lea (d a b : SReg) (sh : Fin 4) (g : PReg)
  /-- CLZ (R120): Counts leading zero bits of s[a]. -/
  | clz (d a : SReg) (g : PReg)
  /-- CTZ (R120): Counts trailing zero bits of s[a]. -/
  | ctz (d a : SReg) (g : PReg)
  /-- POPC (R120): Counts set bits of s[a]. -/
  | popc (d a : SReg) (g : PReg)
  /-- BREV (R120): Reverses the bit order of s[a]. -/
  | brev (d a : SReg) (g : PReg)
  /-- BEXT (R121): Extracts a bit field described by s[b]. -/
  | bext (d a b : SReg) (g : PReg)
  /-- BINS (R121): Inserts a bit field of s[a] into s[d] as described by s[b]. -/
  | bins (d a b : SReg) (g : PReg)
  /-- ADDI (R119): Adds a sign-extended 11-bit immediate. -/
  | addi (d a : SReg) (imm : BitVec 11) (g : PReg)
  /-- ANDI (R119): ANDs with a sign-extended 11-bit immediate. -/
  | andi (d a : SReg) (imm : BitVec 11) (g : PReg)
  /-- ORI (R119): ORs with a sign-extended 11-bit immediate. -/
  | ori (d a : SReg) (imm : BitVec 11) (g : PReg)
  /-- XORI (R119): XORs with a sign-extended 11-bit immediate. -/
  | xori (d a : SReg) (imm : BitVec 11) (g : PReg)
  /-- SHLI (R119): Shifts left by an immediate amount 0 to 63. -/
  | shli (d a : SReg) (amount : Fin 64) (g : PReg)
  /-- SHRI (R119): Shifts right with zero fill by an immediate amount. -/
  | shri (d a : SReg) (amount : Fin 64) (g : PReg)
  /-- SHAI (R119): Shifts right with sign fill by an immediate amount. -/
  | shai (d a : SReg) (amount : Fin 64) (g : PReg)
  /-- ROTI (R119): Rotates right by an immediate amount. -/
  | roti (d a : SReg) (amount : Fin 64) (g : PReg)
  /-- LIH (R122): Writes a sign-extended 17-bit immediate shifted left by 11. -/
  | lih (d : SReg) (imm : BitVec 17) (g : PReg)
  /-- ADDPC (R123): Writes the instruction address plus a 17-bit word offset. -/
  | addpc (d : SReg) (imm : BitVec 17) (g : PReg)
  /-- CMP (R125): Sets a predicate from a comparison of two scalar registers. -/
  | cmp (cc : Cc) (pd : PReg) (a b : SReg) (g : PReg)
  /-- CMPI (R126): Sets a predicate from a comparison with an 11-bit immediate. -/
  | cmpi (cc : Cc) (pd : PReg) (a : SReg) (imm : BitVec 11) (g : PReg)
  /-- PLOG (R127): Sets a predicate by a truth table of two predicates. -/
  | plog (pd pa pb : PReg) (tt : BitVec 4) (g : PReg)
  /-- SEL (R128): Selects one of two scalar registers by a predicate. -/
  | sel (d a b : SReg) (pc : PReg)
  /-- LD_D (R130): Loads 8 bytes, relaxed or acquire by ord, with scaled offset and lookahead. -/
  | ldD (d a : SReg) (off : BitVec 8) (la : Fin 16) (ord : SmOrd)
  /-- LD_W (R130): Loads 4 bytes sign-extended, relaxed or acquire. -/
  | ldW (d a : SReg) (off : BitVec 8) (la : Fin 16) (ord : SmOrd)
  /-- LD_WN (R130): Loads 4 bytes zero-extended, relaxed or acquire. -/
  | ldWn (d a : SReg) (off : BitVec 8) (la : Fin 16) (ord : SmOrd)
  /-- ST_D (R130): Stores 8 bytes, relaxed or release by ord. -/
  | stD (d a : SReg) (off : BitVec 8) (la : Fin 16) (ord : SmOrd)
  /-- ST_W (R130): Stores 4 bytes, relaxed or release by ord. -/
  | stW (d a : SReg) (off : BitVec 8) (la : Fin 16) (ord : SmOrd)
  /-- LDX_B (R130): Loads a sign-extended byte at s[a] + s[b]. -/
  | ldxB (d a b : SReg) (g : PReg)
  /-- LDX_BN (R130): Loads a zero-extended byte at s[a] + s[b]. -/
  | ldxBn (d a b : SReg) (g : PReg)
  /-- LDX_H (R130): Loads a sign-extended halfword at s[a] + s[b]. -/
  | ldxH (d a b : SReg) (g : PReg)
  /-- LDX_HN (R130): Loads a zero-extended halfword at s[a] + s[b]. -/
  | ldxHn (d a b : SReg) (g : PReg)
  /-- LDX_W (R130): Loads a sign-extended word at s[a] + s[b]. -/
  | ldxW (d a b : SReg) (g : PReg)
  /-- LDX_WN (R130): Loads a zero-extended word at s[a] + s[b]. -/
  | ldxWn (d a b : SReg) (g : PReg)
  /-- LDX_D (R130): Loads 8 bytes at s[a] + s[b]. -/
  | ldxD (d a b : SReg) (g : PReg)
  /-- AMO_ADD_D (R137): Indivisible 64-bit add at the home slice, returning the old value. -/
  | amoAddD (d a b : SReg) (g : PReg)
  /-- AMO_AND_D (R137): Indivisible 64-bit AND. -/
  | amoAndD (d a b : SReg) (g : PReg)
  /-- AMO_OR_D (R137): Indivisible 64-bit OR. -/
  | amoOrD (d a b : SReg) (g : PReg)
  /-- AMO_XOR_D (R137): Indivisible 64-bit XOR. -/
  | amoXorD (d a b : SReg) (g : PReg)
  /-- AMO_MIN_D (R137): Indivisible 64-bit signed minimum. -/
  | amoMinD (d a b : SReg) (g : PReg)
  /-- AMO_MAX_D (R137): Indivisible 64-bit signed maximum. -/
  | amoMaxD (d a b : SReg) (g : PReg)
  /-- AMO_MINN_D (R137): Indivisible 64-bit unsigned minimum. -/
  | amoMinnD (d a b : SReg) (g : PReg)
  /-- AMO_MAXN_D (R137): Indivisible 64-bit unsigned maximum. -/
  | amoMaxnD (d a b : SReg) (g : PReg)
  /-- AMO_SWP_D (R137): Indivisible 64-bit swap. -/
  | amoSwpD (d a b : SReg) (g : PReg)
  /-- AMO_CAS_D (R137): Indivisible 64-bit compare-and-swap. -/
  | amoCasD (d a b : SReg) (g : PReg)
  /-- AMO_FADD_F64 (R139): Indivisible f64 add rounded once with RNE at the slice. -/
  | amoFaddF64 (d a b : SReg) (g : PReg)
  /-- AMO_TRIG_D (R143): Decrements a trigger line at its home slice, firing its handler on a crossing to zero or below. -/
  | amoTrigD (d a b : SReg) (g : PReg)
  /-- AMO_ADD_W (R137): Indivisible 32-bit add. -/
  | amoAddW (d a b : SReg) (g : PReg)
  /-- AMO_AND_W (R137): Indivisible 32-bit AND. -/
  | amoAndW (d a b : SReg) (g : PReg)
  /-- AMO_OR_W (R137): Indivisible 32-bit OR. -/
  | amoOrW (d a b : SReg) (g : PReg)
  /-- AMO_XOR_W (R137): Indivisible 32-bit XOR. -/
  | amoXorW (d a b : SReg) (g : PReg)
  /-- AMO_MIN_W (R137): Indivisible 32-bit signed minimum. -/
  | amoMinW (d a b : SReg) (g : PReg)
  /-- AMO_MAX_W (R137): Indivisible 32-bit signed maximum. -/
  | amoMaxW (d a b : SReg) (g : PReg)
  /-- AMO_MINN_W (R137): Indivisible 32-bit unsigned minimum. -/
  | amoMinnW (d a b : SReg) (g : PReg)
  /-- AMO_MAXN_W (R137): Indivisible 32-bit unsigned maximum. -/
  | amoMaxnW (d a b : SReg) (g : PReg)
  /-- AMO_SWP_W (R137): Indivisible 32-bit swap. -/
  | amoSwpW (d a b : SReg) (g : PReg)
  /-- AMO_CAS_W (R137): Indivisible 32-bit compare-and-swap on the low word. -/
  | amoCasW (d a b : SReg) (g : PReg)
  /-- AMO_FADD_F32 (R139): Indivisible f32 add rounded once with RNE at the slice. -/
  | amoFaddF32 (d a b : SReg) (g : PReg)
  /-- BR (R145): Branches on a predicate, optionally inverted. -/
  | br (g : PReg) (inv : Bool) (off : BitVec 22)
  /-- J (R145): Jumps to a PC-relative target. -/
  | j (off : BitVec 22)
  /-- JAL (R145): Jumps and writes the return address to s63. -/
  | jal (off : BitVec 22)
  /-- JR (R146): Jumps to the address in s[a]. -/
  | jr (a : SReg) (g : PReg)
  /-- JALR (R146): Jumps to s[a] and writes the link to s[d]. -/
  | jalr (d a : SReg) (g : PReg)
  /-- VADD (R159): Element-wise add, wrapping, rounded or binned by type. -/
  | vadd (ty : Ty) (d a b : VReg) (k : KReg)
  /-- VSUB (R159): Element-wise subtract. -/
  | vsub (ty : Ty) (d a b : VReg) (k : KReg)
  /-- VMUL (R159): Element-wise multiply. -/
  | vmul (ty : Ty) (d a b : VReg) (k : KReg)
  /-- VMULH (R159): Element-wise high half of the integer product. -/
  | vmulh (ty : Ty) (d a b : VReg) (k : KReg)
  /-- VMIN (R159): Element-wise minimum. -/
  | vmin (ty : Ty) (d a b : VReg) (k : KReg)
  /-- VMAX (R159): Element-wise maximum. -/
  | vmax (ty : Ty) (d a b : VReg) (k : KReg)
  /-- VAND (R159): Element-wise AND. -/
  | vand (ty : Ty) (d a b : VReg) (k : KReg)
  /-- VOR (R159): Element-wise OR. -/
  | vor (ty : Ty) (d a b : VReg) (k : KReg)
  /-- VXOR (R159): Element-wise XOR. -/
  | vxor (ty : Ty) (d a b : VReg) (k : KReg)
  /-- VANDN (R159): Element-wise AND NOT. -/
  | vandn (ty : Ty) (d a b : VReg) (k : KReg)
  /-- VSHL (R159): Element-wise shift left. -/
  | vshl (ty : Ty) (d a b : VReg) (k : KReg)
  /-- VSHR (R159): Element-wise logical shift right. -/
  | vshr (ty : Ty) (d a b : VReg) (k : KReg)
  /-- VSHA (R159): Element-wise arithmetic shift right. -/
  | vsha (ty : Ty) (d a b : VReg) (k : KReg)
  /-- VABS (R159): Element-wise absolute value. -/
  | vabs (ty : Ty) (d a : VReg) (k : KReg)
  /-- VNEG (R159): Element-wise negation. -/
  | vneg (ty : Ty) (d a : VReg) (k : KReg)
  /-- VFMA (R160): Fused multiply-add with one rounding, vd as addend. -/
  | vfma (ty : Ty) (d a b : VReg) (k : KReg)
  /-- VFMS (R160): Fused multiply-subtract with one rounding. -/
  | vfms (ty : Ty) (d a b : VReg) (k : KReg)
  /-- VFNMA (R160): Fused negated multiply-add with one rounding. -/
  | vfnma (ty : Ty) (d a b : VReg) (k : KReg)
  /-- VRCP (R161): Correctly rounded reciprocal per element. -/
  | vrcp (ty : Ty) (d a : VReg) (k : KReg)
  /-- VRSQ (R161): Correctly rounded reciprocal square root per element. -/
  | vrsq (ty : Ty) (d a : VReg) (k : KReg)
  /-- VCMP (R162): Writes mask bits from an element-wise comparison. -/
  | vcmp (cc : Cc) (ty : Ty) (kd : KReg) (a b : VReg) (k : KReg)
  /-- VSEL (R166): Selects elements of va or vb by a mask. -/
  | vsel (ty : Ty) (d a b : VReg) (k : KReg)
  /-- VIOTA (R166): Writes each active element's index. -/
  | viota (ty : Ty) (d : VReg) (k : KReg)
  /-- VCOMPRESS (R167): Packs the selected elements of va to the front of vd. -/
  | vcompress (ty : Ty) (d a : VReg) (k : KReg)
  /-- VEXPAND (R167): Spreads leading elements of va to the selected positions of vd. -/
  | vexpand (ty : Ty) (d a : VReg) (k : KReg)
  /-- VPERM (R168): Permutes va by indices in vb, writing 0 for indices out of range. -/
  | vperm (ty : Ty) (d a b : VReg) (k : KReg)
  /-- VCVT (R170): Converts each active element between types. -/
  | vcvt (dt st : Ty) (d a : VReg) (k : KReg)
  /-- VSCL (R173): Scales each element by a power of two with one rounding. -/
  | vscl (ty : Ty) (d a b : VReg) (k : KReg)
  /-- VQNT (R174): Quantizes f32 data into an m8 or m4 operand with block shifts. -/
  | vqnt (ty : Ty) (d a b : VReg) (k : KReg)
  /-- VEXPMAX (R175): Writes the largest binary exponent of the active finite nonzero elements. -/
  | vexpmax (ty : Ty) (d a : VReg) (k : KReg)
  /-- VBIN (R176): Bins f32 elements into bs32 with e_ref from vb. -/
  | vbin (ty : Ty) (d a b : VReg) (k : KReg)
  /-- VRED (R177): Reduces the active elements in a fixed pairwise tree into element 0. -/
  | vred (op : RedOp) (ty : Ty) (d a : VReg) (k : KReg)
  /-- VSCAN (R178): Writes the inclusive ascending scan of the active elements. -/
  | vscan (op : RedOp) (ty : Ty) (d a : VReg) (k : KReg)
  /-- KAND (R163): ANDs two mask registers. -/
  | kand (d a b : KReg)
  /-- KOR (R163): ORs two mask registers. -/
  | kor (d a b : KReg)
  /-- KXOR (R163): XORs two mask registers. -/
  | kxor (d a b : KReg)
  /-- KANDN (R163): ANDs a mask with the complement of another. -/
  | kandn (d a b : KReg)
  /-- KMOV (R163): Copies a mask register. -/
  | kmov (d a : KReg)
  /-- VLD (R179): Unit-stride vector load with per-element checks and restartable groups. -/
  | vld (ty : Ty) (d : VReg) (a : SReg) (k : KReg) (la : Fin 16)
  /-- VLD_INC (R179): Unit-stride vector load that advances s[a] on completion. -/
  | vldInc (ty : Ty) (d : VReg) (a : SReg) (k : KReg) (la : Fin 16)
  /-- VLD_REP (R179): Loads one element and replicates it to every active element. -/
  | vldRep (ty : Ty) (d : VReg) (a : SReg) (k : KReg) (la : Fin 16)
  /-- VST (R179): Unit-stride vector store. -/
  | vst (ty : Ty) (d : VReg) (a : SReg) (k : KReg) (la : Fin 16)
  /-- VST_INC (R179): Unit-stride vector store that advances s[a] on completion. -/
  | vstInc (ty : Ty) (d : VReg) (a : SReg) (k : KReg) (la : Fin 16)
  /-- VBCAST (R166): Broadcasts the low bits of a scalar register to every active element. -/
  | vbcast (ty : Ty) (d : VReg) (a : SReg) (k : KReg)
  /-- VSETL (R165): Sets VL to min(s[a], VLMAX) and writes it to s[d]. -/
  | vsetl (ty : Ty) (d a : SReg)
  /-- VPOPK (R164): Counts the set mask bits governing elements below n. -/
  | vpopk (ty : Ty) (d : SReg) (k : KReg)
  /-- VFIRSTK (R164): Writes the lowest element index whose mask bit is set. -/
  | vfirstk (ty : Ty) (d : SReg) (k : KReg)
  /-- MMA (R196): Accumulates A times B into a tile in blocks of four. -/
  | mma (fmt : Fmt) (td va vb : VReg) (la : Fin 16)
  /-- MMAS (R197): Microscaled m8 or m4 product with tile scales and block shifts. -/
  | mmas (fmt : Fmt) (td va vb : VReg) (la : Fin 16)
  /-- MMAQ (R198): Group-quantized q8 or q4 product with group scales and zero points. -/
  | mmaq (fmt : Fmt) (td va vb : VReg) (la : Fin 16)
  /-- TLD (R205): Loads a tile from contiguous rows in memory. -/
  | tld (fmt : Fmt) (td : VReg) (a : SReg) (la : Fin 16)
  /-- TST (R205): Stores a tile to contiguous rows in memory. -/
  | tst (fmt : Fmt) (td : VReg) (a : SReg) (la : Fin 16)
  /-- TZERO (R201): Clears a 32-bit tile. -/
  | tzero (td : VReg)
  /-- TTRN (R201): Transposes a 32-bit tile. -/
  | ttrn (td ta : VReg)
  /-- MODE_M (R195): Acquires the grid with a window of n tiles once the grid is free. -/
  | modeM (n1 : Fin 32)
  /-- MODE_V (R195): Waits for the context's products and releases the grid. -/
  | modeV
  /-- TCVT (R202): Converts one tile into another format. -/
  | tcvt (fmt : Fmt) (td ta : VReg)
  /-- SPAWN (R216): Sends a child task to a core of the cluster with half the weight and blank view entries. -/
  | spawn (a b : SReg) (bank : Bool)
  /-- SPAWNC (R216): Sends a child task to a named core. -/
  | spawnc (a b : SReg) (bank : Bool)
  /-- CALLAT (R219): Sends a task to the core that owns a data address, with one unit of weight. -/
  | callat (a b : SReg) (bank : Bool)
  /-- SENDM (R216): Sends an active message to a task id's core or a host queue. -/
  | sendm (a b : SReg)
  /-- REPLY (R216): Sends an active message to the destination held in s5. -/
  | reply (a b : SReg)
  /-- HALT (R221): Ends the task: drains, merges views, returns weight, frees context and bank. -/
  | halt
  /-- HALT_RETAIN (R221): Ends the task and sets the core's retain name for its scratchpad partition. -/
  | haltRetain (a : SReg)
  /-- JOIN (R222): Parks until children halt and declared chains combine, then merges them into the real tiles. -/
  | join
  /-- KILL (R223): Stops a named task and parks until its core acknowledges. -/
  | kill (a : SReg)
  /-- HOIST_OPEN (R226): Opens a hoist record and gives the opener a purse of 2^31. -/
  | hoistOpen (a : SReg)
  /-- WAITQ (R227): Returns the purse and parks until the hoist is quiet, then writes the status word. -/
  | waitq (a : SReg)
  /-- PBORROW (R228): Borrows 2^16 units of weight from the task's hoist record. -/
  | pborrow
  /-- VIEW_DECL (R229): Declares a view entry over a range with a merge operator. -/
  | viewDecl (vid : Fin 8) (a b : SReg) (op : ViewOp)
  /-- VIEW_DROP (R230): Parks until holders end, then discards the entry without merging. -/
  | viewDrop (vid : Fin 8)
  /-- BAR_INIT (R232): Sets a barrier's EXPECT and clears ARRIVED. -/
  | barInit (a b : SReg)
  /-- BAR_ARV (R232): Arrives at a barrier, taking a token and completing a generation when enough arrive. -/
  | barArv (a : SReg)
  /-- BAR_WAIT (R232): Parks until the barrier's generation moves past the token's. -/
  | barWait (a : SReg)
  /-- SIG_ADD (R233): Adds to a signal with saturation, as a release at sys scope. -/
  | sigAdd (a b : SReg)
  /-- SIG_WAIT (R234): Parks until a signal satisfies a comparison. -/
  | sigWait (cc : Cc) (a b : SReg)
  /-- ACOPY (R237): Queues a copy request in the core's FIFO, stalling while full. -/
  | acopy (a : SReg)
  /-- ACOPY_NB (R237): Queues a copy request if the FIFO has room, reporting busy otherwise. -/
  | acopyNb (b a : SReg)
  /-- ABIND (R238): Binds a stream register to a DONE=2 request by tag. -/
  | abind (q : QReg) (a : SReg)
  /-- APF (R239): Queues a bulk prefetch of a range into L2 with a completion kind. -/
  | apf (a b : SReg) (c : Fin 3)
  /-- FENCE_ACQ (R240): Acquire fence at a scope. -/
  | fenceAcq (sc : Scope)
  /-- FENCE_REL (R240): Release fence at a scope. -/
  | fenceRel (sc : Scope)
  /-- FENCE_SC (R240): Sequentially consistent fence at a scope. -/
  | fenceSc (sc : Scope)
  /-- HANDOVER (R241): Passes a region's writer to a new path prefix or copy engine. -/
  | handover (a b : SReg)
  /-- XINV (R242): Invalidates translations of a range in all slices and parks until all acknowledge. -/
  | xinv (a b : SReg)
  /-- MFC (R147): Reads a control register into a scalar register. -/
  | mfc (a : SReg) (creg : BitVec 8)
  /-- MTC (R147): Writes a control register subject to its access codes and checks. -/
  | mtc (a : SReg) (creg : BitVec 8)
  /-- TRAP (R149): Raises a BREAK upcall with UPC_ADDR n. -/
  | trap (n : BitVec 8)
  /-- ERET (R151): Returns from an upcall or copy-completion handler. -/
  | eret
  /-- YIELD (R152): Gives up ordinary issue slots for up to 64 cycles. -/
  | yield
  /-- BRK (R150): Halts the core for the debugger when breaking is enabled, otherwise traps. -/
  | brk (n : BitVec 8)
  /-- NOP (R153): Does nothing but advance the PC and end open windows. -/
  | nop
  /-- MOVI (R122): Long form writing a sign-extended 32-bit immediate. -/
  | movi (d : SReg) (imm : BitVec 32) (g : GReg)
  /-- ADDI_LONG (R119): Long form addi with a 32-bit immediate. -/
  | addiLong (d a : SReg) (imm : BitVec 32) (g : GReg)
  /-- ANDI_LONG (R119): Long form andi with a 32-bit immediate. -/
  | andiLong (d a : SReg) (imm : BitVec 32) (g : GReg)
  /-- ORI_LONG (R119): Long form ori with a 32-bit immediate. -/
  | oriLong (d a : SReg) (imm : BitVec 32) (g : GReg)
  /-- XORI_LONG (R119): Long form xori with a 32-bit immediate. -/
  | xoriLong (d a : SReg) (imm : BitVec 32) (g : GReg)
  /-- CMPI_LONG (R126): Long form compare with a 32-bit immediate and all ten conditions. -/
  | cmpiLong (cc : Cc) (pd : PReg) (a : SReg) (imm : BitVec 32) (g : GReg)
  /-- LD_LONG (R130): Long form scalar load of any size with 19-bit offset, ordering and scope. -/
  | ldLong (size : MemSize) (d a : SReg) (off : BitVec 19) (la : Fin 16) (sc : Scope) (ord : MemOrd) (g : GReg)
  /-- ST_LONG (R130): Long form scalar store of any size with 19-bit offset, ordering and scope. -/
  | stLong (size : MemSize) (d a : SReg) (off : BitVec 19) (la : Fin 16) (sc : Scope) (ord : MemOrd) (g : GReg)
  /-- AMO_LONG (R136): Long form atomic with any ordering and scope. -/
  | amoLong (op : AmoOp) (half : Bool) (d a b : SReg) (sc : Scope) (ord : MemOrd) (g : GReg)
  /-- AMO_NTF (R140): Notifying atomic that starts a notification task once performed. -/
  | amoNtf (op : AmoOp) (half : Bool) (d a b : SReg) (sc : Scope) (ord : MemOrd) (g : GReg)
  /-- LDP (R134): Reads eight bytes from a bound parameter window, zero and a status bit when out of bound. -/
  | ldp (d : SReg) (w : Fin 4) (a : SReg) (imm : BitVec 32) (g : GReg)
  /-- VECTOR_OP_LONG (R116): Long form of a vector operation with static rounding, stream operands or bs64. -/
  | vectorOpLong (op : VOp) (ty : Ty) (d : VReg) (a b : VSrc) (k : KReg) (rc : Rc)
  /-- VCVT_RFB (R172): Residue-feedback narrowing conversion updating a residue register. -/
  | vcvtRfb (dt st : Ty) (d : VReg) (a : VSrc) (vr : VReg) (k : KReg) (rc : Rc)
  /-- VCVT_BS (R171): Converts binned sums to f32 or f64 with one RNE rounding. -/
  | vcvtBs (dt : Ty) (d : VReg) (a b : VSrc) (k : KReg)
  /-- VMEM_LONG (R179): Long form vld or vst with a byte offset. -/
  | vmemLong (st : Bool) (am : Am) (ty : Ty) (d : VSrc) (a : SReg) (off : BitVec 14) (k : KReg) (la : Fin 16)
  /-- VLDS (R179): Strided vector load. -/
  | vlds (ty : Ty) (d : VReg) (a b : SReg) (off : BitVec 14) (k : KReg) (la : Fin 16)
  /-- VSTS (R179): Strided vector store. -/
  | vsts (ty : Ty) (d : VSrc) (a b : SReg) (off : BitVec 14) (k : KReg) (la : Fin 16)
  /-- VLDX (R179): Indexed vector gather load. -/
  | vldx (ty : Ty) (d : VReg) (a : SReg) (vi : VReg) (off : BitVec 14) (k : KReg) (la : Fin 16)
  /-- VSTX (R179): Indexed vector scatter store. -/
  | vstx (ty : Ty) (d : VSrc) (a : SReg) (vi : VReg) (off : BitVec 14) (k : KReg) (la : Fin 16)
  /-- VSLIDE_UP (R169): Slides elements up by a scalar amount. -/
  | vslideUp (ty : Ty) (d : VReg) (a : VSrc) (b : SReg) (k : KReg)
  /-- VSLIDE_DN (R169): Slides elements down by a scalar amount, filling with zero. -/
  | vslideDn (ty : Ty) (d : VReg) (a : VSrc) (b : SReg) (k : KReg)
  /-- VINS (R169): Inserts a scalar into one element. -/
  | vins (ty : Ty) (d : VReg) (a b : SReg)
  /-- VEXT (R169): Extracts one element into a scalar register. -/
  | vext (ty : Ty) (d : SReg) (a : VSrc) (b : SReg)
  /-- MMAG (R199): Matrix product whose A rows are gathered by a list register. -/
  | mmag (fmt : Fmt) (td va vb vl : VReg) (la : Fin 16)
  /-- TSCAT (R204): Stores tile rows to addresses given by an index vector. -/
  | tscat (fmt : Fmt) (td : VReg) (a : SReg) (vi : VReg) (la : Fin 16)
  /-- TLD_STRIDED (R204): Loads a tile with a signed row stride. -/
  | tldStrided (fmt : Fmt) (td : VReg) (a b : SReg) (la : Fin 16)
  /-- TST_STRIDED (R204): Stores a tile with a signed row stride. -/
  | tstStrided (fmt : Fmt) (td : VReg) (a b : SReg) (la : Fin 16)
  /-- LONG_LATENCY_COMPLETION (R50): A long-latency instruction completes, writing results and flags and releasing the instruction after its window. -/
  | longLatencyCompletion (core ctx seq : Nat)
  /-- AGING_CYCLE (R47): Every 32nd cycle the arbiter issues the context ready longest, reserving the array if needed. -/
  | agingCycle (core : Nat)
  /-- YIELD_EXPIRY (R152): A yielded context regains ordinary arbitration after 64 cycles. -/
  | yieldExpiry (core ctx : Nat)
  /-- GRID_ACQUIRE (R58): A context waiting on mode.m takes the grid once it frees and window writes drain. -/
  | gridAcquire (core ctx : Nat)
  /-- UPCALL_ENTRY (R332): After the window drains, the context enters its upcall handler or is suspended with a fault record. -/
  | upcallEntry (core ctx : Nat)
  /-- COPY_COMPLETION_DELIVERY (R301): A pending copy completion is delivered at the first eligible instruction boundary. -/
  | copyCompletionDelivery (core ctx : Nat)
  /-- MESSAGE_ARRIVAL (R249): An arriving message is placed in the mailbox or at the tail of the spill ring. -/
  | messageArrival (msg : Nat)
  /-- FABRIC_STOP_ACCEPT (R250): A message held at the fabric stop is accepted once the mailbox or ring has room, ending the sender's stall. -/
  | fabricStopAccept (msg : Nat)
  /-- TASK_START (R245): The core starts the chosen startable message in the lowest free context and bank. -/
  | taskStart (core : Nat)
  /-- TASK_RESTORE (R393): A saved task is written back into a context and bank and reacquires its grid. -/
  | taskRestore (core saved : Nat)
  /-- QUANTUM_END (R390): A context's quantum expires and the task is preempted or continues. -/
  | quantumEnd (core ctx : Nat)
  /-- CONTEXT_SAVE (R392): After in-flight work completes, the task's state is written to the save arena. -/
  | contextSave (core ctx : Nat)
  /-- BORROW_STEP (R228): A borrow reaches the hoist record, which adds 2^16 or refuses when closed. -/
  | borrowStep (id : Nat)
  /-- BORROW_GRANT_ARRIVAL (R262): A borrow grant arrives and adds to the borrower's WEIGHT, ending its stall. -/
  | borrowGrantArrival (id : Nat)
  /-- WEIGHT_RETURN (R225): A returned amount reaches a hoist record and lowers OUTSTANDING or sets NEG. -/
  | weightReturn (id : Nat)
  /-- NOTIFICATION_TASK (R140): A performed notifying atomic starts a notification task on the issuing core. -/
  | notificationTask (id : Nat)
  /-- HOST_BARRIER_DOORBELL (R306): A host write to a bound doorbell slot performs one barrier arrival. -/
  | hostBarrierDoorbell (bell : Doorbell) (write : Bool)
  /-- PEER_BARRIER_ARRIVAL (R232): A UALink peer arrives at a named barrier. -/
  | peerBarrierArrival (peer pa : Nat)
  /-- MERGE_STEP (R278): The copy engine performs one combination or join write step of a view chain. -/
  | mergeStep (chain : Nat)
  /-- ENGINE_TAKE_REQUEST (R320): The copy engine takes a request, reads its parameter block and takes ownership of its destination lines. -/
  | engineTakeRequest (cluster : Nat)
  /-- ENGINE_LINE_TRANSFER (R236): The engine reads a source line and writes a destination line, prefetch line or stream data. -/
  | engineLineTransfer (cluster req : Nat)
  /-- COPY_COMPLETION (R300): A request's last byte is written, its unit returns and any completion is left pending. -/
  | copyCompletion (cluster req : Nat)
  /-- ENGINE_FAULT (R338): A refused engine line stops and parks the request, or abandons it if the issuer has ended. -/
  | engineFault (cluster req : Nat)
  /-- ENGINE_RETRY (R338): Every 10 µs a parked engine line without a monitor is tried again. -/
  | engineRetry (cluster req : Nat)
  /-- ENGINE_MONITOR_FIRE (R338): A write that makes the watched entry grant access resumes the parked engine request. -/
  | engineMonitorFire (slice mon : Nat)
  /-- TRANSLATION_WALK (R328): A slice walk completes, caching the leaf or refusing the access. -/
  | translationWalk (slice asid va : Nat)
  /-- MONITOR_FIRE (R336): A monitor fires and posts a completion notice task to the faulting core. -/
  | monitorFire (slice mon : Nat)
  /-- LINE_RECALL (R290): The directory recalls a line from another slice before a fill completes. -/
  | lineRecall (line : Nat)
  /-- INVALIDATION_ARRIVAL (R399): A slice drops matching translations and restarts walks of the ASID. -/
  | invalidationArrival (id slice : Nat)
  /-- INVALIDATION_ACK (R399): A slice acknowledges after accesses translated with dropped entries complete. -/
  | invalidationAck (id slice : Nat)
  /-- INVALIDATION_DONE (R399): The issuer receives all 640 acknowledgements and unparks. -/
  | invalidationDone (id : Nat)
  /-- WEIGHT_STORE_REFRESH (R294): A weight-store bank's refresh window opens or closes on the 32 µs schedule. -/
  | weightStoreRefresh
  /-- QUEUE_DOORBELL (R367): A doorbell write maps a queue with work to a free hardware slot. -/
  | queueDoorbell (q : Nat)
  /-- SLOT_IDLE_TIMEOUT (R367): A mapped queue with no work gives up its slot after 64 µs without a doorbell. -/
  | slotIdleTimeout (q : Nat)
  /-- COMMAND_FETCH (R368): The front end fetches the next entry of a mapped queue and dispatches or skips it. -/
  | commandFetch (q : Nat)
  /-- CMD_NOP (R368): NOP command does nothing. -/
  | cmdNop (q : Nat)
  /-- CMD_LAUNCH (R372): LAUNCH command reads and checks a launch record. -/
  | cmdLaunch (q : Nat)
  /-- CMD_WAIT (R370): WAIT command dispatches if its signal condition holds, otherwise parks the queue. -/
  | cmdWait (q : Nat)
  /-- WAIT_SATISFIED (R370): The signal unit finds a parked queue's condition met and remaps the queue. -/
  | waitSatisfied (q : Nat)
  /-- CMD_SIGNAL (R368): SIGNAL command performs sig.add on a signal. -/
  | cmdSignal (q : Nat)
  /-- CMD_MSG (R368): MSG command mints weight and starts a task placed as callat would place it. -/
  | cmdMsg (q : Nat)
  /-- CMD_WSLOAD (R293): WSLOAD command waits for weight-store users, then replaces or drops the image. -/
  | cmdWsload (q : Nat)
  /-- WSLOAD_COMPLETE (R293): The weight-store copy completes or fails, and the entry counts as dispatched. -/
  | wsloadComplete (q : Nat)
  /-- CMD_XINV (R368): XINV command performs a range invalidation. -/
  | cmdXinv (q : Nat)
  /-- CMD_RESUME (R368): RESUME command resumes a suspended context. -/
  | cmdResume (q : Nat)
  /-- CMD_KILL (R368): KILL command kills a task of this queue in any state. -/
  | cmdKill (q : Nat)
  /-- CMD_UNPIN (R376): UNPIN command clears the queue's pin set. -/
  | cmdUnpin (q : Nat)
  /-- CMD_DEC (R368): DEC command decrements a dependence counter. -/
  | cmdDec (q : Nat)
  /-- COMMAND_ACCESS_RETRY (R368): A parked WAIT, SIGNAL or DEC access is performed when its monitor fires or a retry succeeds. -/
  | commandAccessRetry (q : Nat)
  /-- DEP_RELEASE (R372): A dependence counter reaching zero releases a parked LAUNCH. -/
  | depRelease (q : Nat)
  /-- LAUNCH_ACCEPTANCE (R372): When partitions can be granted the launch snapshots speeds, copies windows, opens its hoist and starts tasks. -/
  | launchAcceptance (launch : Nat)
  /-- LAUNCH_START_REPORT (R386): A reported task start lets the front end send the next start message to that core. -/
  | launchStartReport (launch core : Nat)
  /-- LAUNCH_COMPLETION (R373): A launch's hoist closes: partitions freed, signal added, DEPDEC decremented, interrupt counted. -/
  | launchCompletion (launch : Nat)
  /-- QUEUE_MESSAGE_DELIVERY (R220): The firmware column writes a message to a queue's message ring and returns its unit. -/
  | queueMessageDelivery (msg : Nat)
  /-- MSIX_INTERRUPT (R377): Holdoff or idle holdoff expires and the queue's MSI-X message is sent. -/
  | msixInterrupt (q : Nat)
  /-- RETAINED_PARTITION_RECLAIM (R375): Firmware frees a kept partition for a launch that would otherwise wait longer than 1 ms. -/
  | retainedPartitionReclaim (core : Nat)
  /-- SEMAPHORE_READ (R378): A read of a hardware semaphore grants it if free or returns its holder. -/
  | semaphoreRead (port : Port) (n : Nat)
  /-- SEMAPHORE_WRITE (R378): A write of the holder's id releases a hardware semaphore. -/
  | semaphoreWrite (port : Port) (n : Nat) (value : Word)
  /-- MEMORY_WINDOW_ACCESS (R403): A host or peer access through port A's window is translated and performed or refused. -/
  | memoryWindowAccess (off len : Nat) (data : Option (BitVec 4096))
  /-- UE_TRANSFER (R406): A message to a transfer descriptor starts an Ultra Ethernet transfer. -/
  | ueTransfer (msg : Nat)
  /-- UE_TRANSFER_COMPLETE (R406): Every byte of a transfer is written or an access is refused, and its unit returns. -/
  | ueTransferComplete (id : Nat) (denied : Bool) (data : List Byte)
  /-- UALINK_TIMEOUT (R405): A UALink access not completed within 2 ms raises POISON. -/
  | ualinkTimeout (core ctx : Nat)
  /-- PTP_DISCIPLINE (R407): PTP time updates STIME by slewing or a single forward step. -/
  | ptpDiscipline (offset : Int)
  /-- SPEED_PUBLICATION (R380): At each 1 ms instant speeds, classes, curves and trial entries are published. -/
  | speedPublication
  /-- MEASUREMENT_START (R427): Firmware starts measuring an eligible core, taking it out of placement. -/
  | measurementStart (core : Nat)
  /-- MEASUREMENT_END (R427): A measurement ends, and waiting messages and placements on the core may proceed. -/
  | measurementEnd (core : Nat) (curve : Curve)
  /-- OPERATING_POINT_CONTROL (R430): Every 10 µs the controller sets each core's clock and voltage under the power cap and temperature. -/
  | operatingPointControl (k : Nat)
  /-- CORRECTED_ERROR (R442): An ECC correction writes back corrected data and counts in the health table. -/
  | correctedError (site : ErrSite)
  /-- UNCORRECTABLE_ERROR (R443): An uncorrectable error poisons its line or aborts the owning launch. -/
  | uncorrectableError (site : ErrSite)
  /-- MARGIN_MONITOR_FIRE (R432): A core's canary paths miss timing, lowering its thermal factor and requesting a retest. -/
  | marginMonitorFire (core : Nat)
  /-- PATROL_SCRUB (R442): The patrol scrub reads lines on its schedule. -/
  | patrolScrub (part : Nat)
  /-- LOG_OVERFLOW_RECORD (R341): After 2^26 − 1 cycles without a record the core writes an overflow record. -/
  | logOverflowRecord (core : Nat)
  /-- LOG_LINE_FLUSH (R342): At each 1 ms instant a partly filled log line is written with padding. -/
  | logLineFlush (core : Nat)
  /-- SAMPLE (R344): In each cycle with CYCLE[k−1:0] = 0 a sample is charged to one instruction. -/
  | sample (core : Nat)
  /-- DBG_HALT (R356): A write to DBG_HALT asserts DIP on the cluster. -/
  | dbgHalt (cluster : Nat)
  /-- DBG_RUN (R356): A write to DBG_RUN resumes the halted cores and engine and clears status. -/
  | dbgRun (cluster : Nat)
  /-- DBG_DATA (R358): A read or write of DBG_DATA accesses the state word that DBG_SEL selects. -/
  | dbgData (cluster : Nat) (write : Option Word)
  /-- DBG_STAT_CLEAR (R351): Writing 1 to DBG_STAT.ERR clears it. -/
  | dbgStatClear (cluster : Nat)
  /-- WATCHPOINT_WRITE (R354): A write to WP0–WP7 changes the package copy, reaching every slice within 2 µs. -/
  | watchpointWrite (cluster off : Nat) (value : Word)
  /-- BREAKPOINT_MATCH (R353): A watched core about to issue at ADDR stops, or asserts DIP when ALL is set. -/
  | breakpointMatch (core ctx : Nat)
  /-- WATCHPOINT_HIT (R354): A checked access hits a watchpoint, is recorded in WHIT and halts the accessor's cluster. -/
  | watchpointHit
  /-- DIP (R356): The cluster's cores stop together, in-flight work drains and the engine freezes. -/
  | dip (cluster : Nat)
  /-- DIP_RELAY (R357): A DIP is relayed to every module of the same group within 1 µs. -/
  | dipRelay (cluster : Nat)
  /-- CONTAINER_LOAD (R441): A write to LOAD_REQ loads, checks and measures a .pxc container and sets execute permission. -/
  | containerLoad (pa asid : Nat)
  /-- BOOT_RETRY (R438): A write to BOOT_RETRY restarts the boot sequence at step 2. -/
  | bootRetry
  /-- PACKAGE_RESET (R437): Package reset runs boot: table check, image digest, measurement, firewall lock and window opening. -/
  | packageReset
  /-- PORT_RESET (R378): A host port reset releases that port's semaphores. -/
  | portReset (port : Port)
  /-- LAUNCH_ABORT (R444): An aborted launch is killed, drained, its exports posted and it is replayed once or ended. -/
  | launchAbort (launch : Nat)
  /-- ABORT_NOTICE (R445): A received gang abort notice aborts matching running launches. -/
  | abortNotice (gang : Word) (sender : Nat)
  /-- REGISTER_WRITE (R17): A write to a shared-control or debug register without a row of its own, applying its access codes. -/
  | registerWrite (reg : HostReg) (value : Word)
  /-- ILLEGAL_WORD (R100): Issuing a word that names no instruction raises ILLEGAL even under a false guard. -/
  | illegalWord (w : BitVec 32)
  /-- UALINK_PEER_ACCESS (R405): An incoming UALink read, write or atomic from a peer of the domain is performed at this device's memory-side cache. -/
  | ualinkPeerAccess (peer pa : Nat) (req : PeerReq)
  /-- INCOMING_TRANSFER (R406): An Ultra Ethernet transfer from a remote device is performed in the address space that XASID names, or refused. -/
  | incomingTransfer (source : RemoteAddr) (len : Nat) (data : Option (List Byte))
  /-- LINK_CREDIT_RETURN (R408): Credit returned by a link partner lets a stalled IO store or UALink request proceed. -/
  | linkCreditReturn (link : Link)
  /-- HANDOVER_ARRIVAL (R283): A handover reaches the region table, which changes WRITER, KIND and L, and its unit then returns. -/
  | handoverArrival (id : Nat)
  /-- KILL_ACKNOWLEDGEMENT (R223): A kill reaches the target task's core, stops the task once its in-flight work drains, and the acknowledgement unparks the killer. -/
  | killAcknowledgement (id : Nat)
  /-- QUEUE_EN_CLEARED (R368): The host clears a queue's EN, abandoning a parked WAIT, SIGNAL or DEC command with a KIND 3 record. -/
  | queueEnCleared (q : Nat)
deriving DecidableEq, Repr

end Sys2Proof
end

