-- ==== Sys2Proof/WellFormed.lean ====
section
/-! DEFINITION. Which instructions the encoding admits: the types, formats, runs, orderings and roundings each
entry accepts. An instruction refused here is a word that raises ILLEGAL (R88, R92, R95, R96). -/

namespace Sys2Proof

/-- Why a form is not one of the instruction set. -/
inductive WfErr where
  | typeRefused        -- an element type the entry does not list (R95, R156)
  | formatRefused      -- a matrix format the entry does not accept (R96)
  | ccRefused          -- a condition code the form cannot carry (R97, R102, R113)
  | runLimit           -- a register run past s63 (R113)
  | runMisaligned      -- a register run at the wrong multiple (R189)
  | orderingRefused    -- an ordering or scope the access does not accept (R133)
  | sizeRefused        -- a size a store does not accept (R115)
  | notifyRefused      -- amo.cas or amo.trig notifying, or a 32-bit amo.trig (R136, R140)
  | modeRefused        -- an addressing mode the form does not accept (R98)
  | streamRefused      -- a stream register in a position that takes none (R158, R37)
  | fieldReserved      -- a nonzero reserved field (R92, R116)
  | maskRefused        -- a mask where the entry takes none (R155)
  | roundingRefused    -- a rounding code the operation does not accept (R116)
  | residueRefused     -- a residue register that is the source or destination (R172)
  | indexIsData        -- vldx with vi = vd (R179)
  | zeroWord           -- the add whose word is all zero, which is no instruction (R89)
  | eventBound         -- an event at a place the part does not have (R1, R2)
deriving DecidableEq, Repr

/-- The element-type code (R62, R64, R65). -/
def Ty.code : Ty → Nat
  | .i8 => 0 | .n8 => 1 | .i16 => 2 | .n16 => 3 | .i32 => 4 | .n32 => 5 | .i64 => 6 | .n64 => 7
  | .f16 => 8 | .bf16 => 9 | .f32 => 10 | .f64 => 11 | .e4m3 => 12 | .e5m2 => 13 | .e2m1 => 14
  | .bs32 => 15 | .bs64 => 15

/-- The condition code (R97). -/
def Cc.code : Cc → Nat
  | .eq => 0 | .ne => 1 | .lt => 2 | .ge => 3 | .le => 4 | .gt => 5 | .ltn => 6 | .gen => 7 | .len => 8 | .gtn => 9

/-- An integer type (R62). -/
def Ty.isInt (t : Ty) : Bool := t.code ≤ 7

/-- f16, bf16, f32 or f64 (R64). -/
def Ty.isFloat (t : Ty) : Bool := 8 ≤ t.code && t.code ≤ 11

/-- A signed integer type. -/
def Ty.isSigned (t : Ty) : Bool := t == .i8 || t == .i16 || t == .i32 || t == .i64

/-- The formats mma and mmag accept (R96). -/
def Fmt.plain : Fmt → Bool
  | .m8 | .m4 | .q8 | .q4 | .bs32 => false
  | _ => true

/-- The formats tld, tst, tscat and tcvt accept (R96, R202, R203). -/
def Fmt.tile : Fmt → Bool
  | .m8 | .m4 | .q8 | .q4 => false
  | _ => true

/-- The sizes a store accepts (R115). -/
def MemSize.storable : MemSize → Bool
  | .b | .h | .w | .d => true
  | _ => false

/-- Refuse with `e` unless `ok`. -/
def require (ok : Bool) (e : WfErr) : Option WfErr := if ok then none else some e

/-- The types a reduction or scan accepts (R177). -/
def RedOp.types (op : RedOp) (ty : Ty) : Bool :=
  match op with
  | .add => ty.code ≤ 11 || ty.code == 15
  | .min | .max => ty.isSigned || ty.isFloat
  | .minn | .maxn => ty.isInt && !ty.isSigned
  | .and | .or | .xor => ty.isInt

/-- The element types each vector operation accepts (R156, R170, R177). -/
def VOp.types (op : VOp) (ty : Ty) : Bool :=
  match op with
  | .vadd | .vsub => ty.code ≤ 11 || ty.code == 15
  | .vmul | .vmin | .vmax => ty.code ≤ 11
  | .vmulh | .vshl | .vshr | .vsha | .viota => ty.isInt
  | .vabs | .vneg => ty.isSigned || ty.isFloat
  | .vfma | .vfms | .vfnma | .vrcp | .vrsq | .vscl | .vexpmax => ty.isFloat
  | .vand | .vor | .vxor | .vandn | .vsel => true
  | .vcmp cc => ty.code ≤ 11 && (ty.isInt || cc.code ≤ 5)
  | .vperm | .vcompress | .vexpand => ty.code ≤ 13
  | .vcvt st => ty.code ≤ 14 && st.code ≤ 14
  | .vqnt => ty == .e4m3 || ty == .e2m1
  | .vbin => ty.code == 15
  | .vred op => op.types ty
  | .vscan op => op.types ty
  | .kand | .kor | .kxor | .kandn | .kmov => ty == .i8

/-- The operations that round, and so may carry a rounding code other than 0 (R116, R157, DEDUCED, log 12). -/
def VOp.rounds (op : VOp) (ty : Ty) : Bool :=
  match op with
  | .vadd | .vsub | .vmul | .vmin | .vmax | .vabs | .vneg | .vcmp _ | .vred _ | .vscan _ => ty.isFloat
  | .vfma | .vfms | .vfnma | .vrcp | .vrsq | .vscl | .vexpmax | .vqnt => true
  | .vcvt st => !(st.isInt && ty.isInt)
  | _ => false

/-- The mask group, whose fields name mask registers (R106). -/
def VOp.isMask : VOp → Bool
  | .kand | .kor | .kxor | .kandn | .kmov => true
  | _ => false

/-- Unary operations: their vb field is reserved (R106, R116). -/
def VOp.isUnary : VOp → Bool
  | .vabs | .vneg | .vrcp | .vrsq | .vexpmax | .vcompress | .vexpand | .vred _ | .vscan _ | .viota | .vcvt _ | .kmov => true
  | _ => false

/-- A field that names a mask register, or is reserved. -/
def VSrc.isMaskReg : VSrc → Bool
  | .v r => r.val < 8
  | .q _ => false

/-- The check of a 32-bit vector word. -/
def shortOp (op : VOp) (ty : Ty) : Option WfErr := require (op.types ty && ty != .bs64) .typeRefused

/-- The check of the vector long form (R116). -/
def longOp (op : VOp) (ty : Ty) (d : VReg) (a b : VSrc) (k : KReg) (rc : Rc) : Option WfErr :=
  (require (op.types ty) .typeRefused).orElse fun _ =>
  (require (op.rounds ty || rc == .fixed .rne) .roundingRefused).orElse fun _ =>
  (require (!op.isUnary || b == .v 0) .fieldReserved).orElse fun _ =>
  (require (!(op == .viota) || a == .v 0) .fieldReserved).orElse fun _ =>
  (require (!op.isMask || k == 0) .maskRefused).orElse fun _ =>
  (require (!(op.isMask || (match op with | .vcmp _ => true | _ => false)) || d.val < 8) .fieldReserved).orElse fun _ =>
  require (!op.isMask || (a.isMaskReg && b.isMaskReg)) .streamRefused

/-- The check of mmas (R96, R189). -/
def mmasCheck (fmt : Fmt) (va vb : VReg) : Option WfErr :=
  match fmt with
  | .m8 => require (va.val % 4 == 0 && vb.val % 4 == 0) .runMisaligned
  | .m4 => require (va.val % 8 == 0 && vb.val % 8 == 0) .runMisaligned
  | _ => some .formatRefused

/-- The check of mmaq (R96, R189). -/
def mmaqCheck (fmt : Fmt) (va : VReg) : Option WfErr :=
  match fmt with
  | .q8 => none
  | .q4 => require (va.val % 2 == 0) .runMisaligned
  | _ => some .formatRefused

/-- The orderings of a scalar long form (R133): relaxed with scope code 0, or the one ordering it accepts. -/
def accessOrd (accepted : MemOrd) (sc : Scope) (ord : MemOrd) : Option WfErr :=
  require ((ord == .rlx && sc == .ctx) || ord == accepted) .orderingRefused

/-- The check of the residue-feedback conversion (R172). -/
def rfbCheck (dt st : Ty) (d : VReg) (a : VSrc) (vr : VReg) : Option WfErr :=
  (require ((st == .f32 || st == .f16 || st == .bf16) &&
    (dt == .f16 || dt == .bf16 || dt == .e4m3 || dt == .e5m2 || dt == .e2m1)) .typeRefused).orElse fun _ =>
  require (vr != d && a != .v vr) .residueRefused

/-- The check of the unit-stride long form (R98, R179): a load names a v register and a store no replicate mode. -/
def vmemCheck (st : Bool) (am : Am) (ty : Ty) (d : VSrc) : Option WfErr :=
  (require (ty != .bs64) .typeRefused).orElse fun _ =>
  (require (!(st && am == .rep)) .modeRefused).orElse fun _ =>
  require (st || (match d with | .v _ => true | .q _ => false)) .streamRefused

/-- Why an instruction is not well formed, if it is not. -/
def Instr.check : Instr → Option WfErr
  | .add d a b g => require (!(d == 0 && a == 0 && b == 0 && g == 0)) .zeroWord
  | .sub .. => none
  | .mul .. => none
  | .mulh .. => none
  | .mulhn .. => none
  | .div .. => none
  | .divn .. => none
  | .rem .. => none
  | .remn .. => none
  | .and .. => none
  | .or .. => none
  | .xor .. => none
  | .shl .. => none
  | .shr .. => none
  | .sha .. => none
  | .rot .. => none
  | .min .. => none
  | .max .. => none
  | .minn .. => none
  | .maxn .. => none
  | .lea .. => none
  | .clz .. => none
  | .ctz .. => none
  | .popc .. => none
  | .brev .. => none
  | .bext .. => none
  | .bins .. => none
  | .addi .. => none
  | .andi .. => none
  | .ori .. => none
  | .xori .. => none
  | .shli .. => none
  | .shri .. => none
  | .shai .. => none
  | .roti .. => none
  | .lih .. => none
  | .addpc .. => none
  | .cmp .. => none
  | .cmpi cc _ _ _ _ => require (cc.code ≤ 7) .ccRefused
  | .plog .. => none
  | .sel .. => none
  | .ldD .. => none
  | .ldW .. => none
  | .ldWn .. => none
  | .stD .. => none
  | .stW .. => none
  | .ldxB .. => none
  | .ldxBn .. => none
  | .ldxH .. => none
  | .ldxHn .. => none
  | .ldxW .. => none
  | .ldxWn .. => none
  | .ldxD .. => none
  | .amoAddD .. => none
  | .amoAndD .. => none
  | .amoOrD .. => none
  | .amoXorD .. => none
  | .amoMinD .. => none
  | .amoMaxD .. => none
  | .amoMinnD .. => none
  | .amoMaxnD .. => none
  | .amoSwpD .. => none
  | .amoCasD .. => none
  | .amoFaddF64 .. => none
  | .amoTrigD .. => none
  | .amoAddW .. => none
  | .amoAndW .. => none
  | .amoOrW .. => none
  | .amoXorW .. => none
  | .amoMinW .. => none
  | .amoMaxW .. => none
  | .amoMinnW .. => none
  | .amoMaxnW .. => none
  | .amoSwpW .. => none
  | .amoCasW .. => none
  | .amoFaddF32 .. => none
  | .br .. => none
  | .j .. => none
  | .jal .. => none
  | .jr .. => none
  | .jalr .. => none
  | .vadd ty _ _ _ _ => shortOp .vadd ty
  | .vsub ty _ _ _ _ => shortOp .vsub ty
  | .vmul ty _ _ _ _ => shortOp .vmul ty
  | .vmulh ty _ _ _ _ => shortOp .vmulh ty
  | .vmin ty _ _ _ _ => shortOp .vmin ty
  | .vmax ty _ _ _ _ => shortOp .vmax ty
  | .vand ty _ _ _ _ => shortOp .vand ty
  | .vor ty _ _ _ _ => shortOp .vor ty
  | .vxor ty _ _ _ _ => shortOp .vxor ty
  | .vandn ty _ _ _ _ => shortOp .vandn ty
  | .vshl ty _ _ _ _ => shortOp .vshl ty
  | .vshr ty _ _ _ _ => shortOp .vshr ty
  | .vsha ty _ _ _ _ => shortOp .vsha ty
  | .vabs ty _ _ _ => shortOp .vabs ty
  | .vneg ty _ _ _ => shortOp .vneg ty
  | .vfma ty _ _ _ _ => shortOp .vfma ty
  | .vfms ty _ _ _ _ => shortOp .vfms ty
  | .vfnma ty _ _ _ _ => shortOp .vfnma ty
  | .vrcp ty _ _ _ => shortOp .vrcp ty
  | .vrsq ty _ _ _ => shortOp .vrsq ty
  | .vcmp cc ty _ _ _ _ => shortOp (.vcmp cc) ty
  | .vsel ty _ _ _ _ => shortOp .vsel ty
  | .viota ty _ _ => shortOp .viota ty
  | .vcompress ty _ _ _ => shortOp .vcompress ty
  | .vexpand ty _ _ _ => shortOp .vexpand ty
  | .vperm ty _ _ _ _ => shortOp .vperm ty
  | .vcvt dt st _ _ _ => shortOp (.vcvt st) dt
  | .vscl ty _ _ _ _ => shortOp .vscl ty
  | .vqnt ty _ _ _ _ => shortOp .vqnt ty
  | .vexpmax ty _ _ _ => shortOp .vexpmax ty
  | .vbin ty _ _ _ _ => shortOp .vbin ty
  | .vred op ty _ _ _ => shortOp (.vred op) ty
  | .vscan op ty _ _ _ => shortOp (.vscan op) ty
  | .kand .. => none
  | .kor .. => none
  | .kxor .. => none
  | .kandn .. => none
  | .kmov .. => none
  | .vld ty _ _ _ _ => require (ty != .bs64) .typeRefused
  | .vldInc ty _ _ _ _ => require (ty != .bs64) .typeRefused
  | .vldRep ty _ _ _ _ => require (ty != .bs64) .typeRefused
  | .vst ty _ _ _ _ => require (ty != .bs64) .typeRefused
  | .vstInc ty _ _ _ _ => require (ty != .bs64) .typeRefused
  | .vbcast ty _ _ _ => require (ty.code ≤ 13) .typeRefused
  | .vsetl ty _ _ => require (ty != .bs64) .typeRefused
  | .vpopk ty _ _ => require (ty != .bs64) .typeRefused
  | .vfirstk ty _ _ => require (ty != .bs64) .typeRefused
  | .mma fmt _ _ _ _ => require fmt.plain .formatRefused
  | .mmas fmt _ va vb _ => mmasCheck fmt va vb
  | .mmaq fmt _ va _ _ => mmaqCheck fmt va
  | .tld fmt _ _ _ => require fmt.tile .formatRefused
  | .tst fmt _ _ _ => require fmt.tile .formatRefused
  | .tzero .. => none
  | .ttrn .. => none
  | .modeM .. => none
  | .modeV => none
  | .tcvt fmt _ _ => require fmt.tile .formatRefused
  | .spawn _ b _ => require (b.val ≤ 60) .runLimit
  | .spawnc _ b _ => require (b.val ≤ 59) .runLimit
  | .callat _ b _ => require (b.val ≤ 60) .runLimit
  | .sendm _ b => require (b.val ≤ 59) .runLimit
  | .reply _ b => require (b.val ≤ 60) .runLimit
  | .halt => none
  | .haltRetain .. => none
  | .join => none
  | .kill .. => none
  | .hoistOpen .. => none
  | .waitq .. => none
  | .pborrow => none
  | .viewDecl .. => none
  | .viewDrop .. => none
  | .barInit .. => none
  | .barArv .. => none
  | .barWait .. => none
  | .sigAdd .. => none
  | .sigWait cc _ _ => require (cc.code ≤ 5) .ccRefused
  | .acopy a => require (a.val ≤ 60) .runLimit
  | .acopyNb _ a => require (a.val ≤ 60) .runLimit
  | .abind .. => none
  | .apf _ b c => require (c.val < 2 || b.val ≤ 62) .runLimit
  | .fenceAcq .. => none
  | .fenceRel .. => none
  | .fenceSc .. => none
  | .handover .. => none
  | .xinv .. => none
  | .mfc .. => none
  | .mtc .. => none
  | .trap .. => none
  | .eret => none
  | .yield => none
  | .brk .. => none
  | .nop => none
  | .movi .. => none
  | .addiLong .. => none
  | .andiLong .. => none
  | .oriLong .. => none
  | .xoriLong .. => none
  | .cmpiLong .. => none
  | .ldLong _ _ _ _ _ sc ord _ => accessOrd .acq sc ord
  | .stLong size _ _ _ _ sc ord _ => (require size.storable .sizeRefused).orElse fun _ => accessOrd .rel sc ord
  | .amoLong op half _ _ _ _ _ _ => require (!(op == .trig && half)) .notifyRefused
  | .amoNtf op _ _ _ _ _ _ _ => require (op != .trig && op != .cas) .notifyRefused
  | .ldp .. => none
  | .vectorOpLong op ty d a b k rc => longOp op ty d a b k rc
  | .vcvtRfb dt st d a vr _ _ => rfbCheck dt st d a vr
  | .vcvtBs dt _ _ _ _ => require (dt == .f32 || dt == .f64) .typeRefused
  | .vmemLong st am ty d _ _ _ _ => vmemCheck st am ty d
  | .vlds ty _ _ _ _ _ _ => require (ty != .e2m1 && ty != .bs64) .typeRefused
  | .vsts ty _ _ _ _ _ _ => require (ty != .e2m1 && ty != .bs64) .typeRefused
  | .vldx ty d _ vi _ _ _ => (require (ty.code ≤ 13) .typeRefused).orElse fun _ => require (vi != d) .indexIsData
  | .vstx ty _ _ _ _ _ _ => require (ty.code ≤ 13) .typeRefused
  | .vslideUp ty _ _ _ _ => require (ty.code ≤ 13) .typeRefused
  | .vslideDn ty _ _ _ _ => require (ty.code ≤ 13) .typeRefused
  | .vins ty _ _ _ => require (ty.code ≤ 13) .typeRefused
  | .vext ty _ _ _ => require (ty.code ≤ 13) .typeRefused
  | .mmag fmt _ va _ _ _ => (require fmt.plain .formatRefused).orElse fun _ => require (va.val ≤ 28) .runMisaligned
  | .tscat fmt _ _ _ _ => require fmt.tile .formatRefused
  | .tldStrided fmt _ _ _ _ => require fmt.tile .formatRefused
  | .tstStrided fmt _ _ _ _ => require fmt.tile .formatRefused
  | .longLatencyCompletion core ctx _ => require (decide (core < 5120) && decide (ctx < 16)) .eventBound
  | .agingCycle core => require (decide (core < 5120)) .eventBound
  | .yieldExpiry core ctx => require (decide (core < 5120) && decide (ctx < 16)) .eventBound
  | .gridAcquire core ctx => require (decide (core < 5120) && decide (ctx < 16)) .eventBound
  | .upcallEntry core ctx => require (decide (core < 5120) && decide (ctx < 16)) .eventBound
  | .copyCompletionDelivery core ctx => require (decide (core < 5120) && decide (ctx < 16)) .eventBound
  | .messageArrival .. => none
  | .fabricStopAccept .. => none
  | .taskStart core => require (decide (core < 5120)) .eventBound
  | .taskRestore core _ => require (decide (core < 5120)) .eventBound
  | .quantumEnd core ctx => require (decide (core < 5120) && decide (ctx < 16)) .eventBound
  | .contextSave core ctx => require (decide (core < 5120) && decide (ctx < 16)) .eventBound
  | .borrowStep .. => none
  | .borrowGrantArrival .. => none
  | .weightReturn .. => none
  | .notificationTask .. => none
  | .hostBarrierDoorbell bell _ => require (decide (bell.slot < 8192)) .eventBound
  | .peerBarrierArrival peer _ => require (decide (peer < 1024)) .eventBound
  | .mergeStep .. => none
  | .engineTakeRequest cluster => require (decide (cluster < 640)) .eventBound
  | .engineLineTransfer cluster _ => require (decide (cluster < 640)) .eventBound
  | .copyCompletion cluster _ => require (decide (cluster < 640)) .eventBound
  | .engineFault cluster _ => require (decide (cluster < 640)) .eventBound
  | .engineRetry cluster _ => require (decide (cluster < 640)) .eventBound
  | .engineMonitorFire slice _ => require (decide (slice < 640)) .eventBound
  | .translationWalk slice asid _ => require (decide (slice < 640) && decide (asid < 65536)) .eventBound
  | .monitorFire slice _ => require (decide (slice < 640)) .eventBound
  | .lineRecall .. => none
  | .invalidationArrival _ slice => require (decide (slice < 640)) .eventBound
  | .invalidationAck _ slice => require (decide (slice < 640)) .eventBound
  | .invalidationDone .. => none
  | .weightStoreRefresh => none
  | .queueDoorbell q => require (decide (q < 65534)) .eventBound
  | .slotIdleTimeout q => require (decide (q < 65534)) .eventBound
  | .commandFetch q => require (decide (q < 65534)) .eventBound
  | .cmdNop q => require (decide (q < 65534)) .eventBound
  | .cmdLaunch q => require (decide (q < 65534)) .eventBound
  | .cmdWait q => require (decide (q < 65534)) .eventBound
  | .waitSatisfied q => require (decide (q < 65534)) .eventBound
  | .cmdSignal q => require (decide (q < 65534)) .eventBound
  | .cmdMsg q => require (decide (q < 65534)) .eventBound
  | .cmdWsload q => require (decide (q < 65534)) .eventBound
  | .wsloadComplete q => require (decide (q < 65534)) .eventBound
  | .cmdXinv q => require (decide (q < 65534)) .eventBound
  | .cmdResume q => require (decide (q < 65534)) .eventBound
  | .cmdKill q => require (decide (q < 65534)) .eventBound
  | .cmdUnpin q => require (decide (q < 65534)) .eventBound
  | .cmdDec q => require (decide (q < 65534)) .eventBound
  | .commandAccessRetry q => require (decide (q < 65534)) .eventBound
  | .depRelease q => require (decide (q < 65534)) .eventBound
  | .launchAcceptance .. => none
  | .launchStartReport _ core => require (decide (core < 5120)) .eventBound
  | .launchCompletion .. => none
  | .queueMessageDelivery .. => none
  | .msixInterrupt q => require (decide (q < 65534)) .eventBound
  | .retainedPartitionReclaim core => require (decide (core < 5120)) .eventBound
  | .semaphoreRead _ n => require (decide (n < 64)) .eventBound
  | .semaphoreWrite _ n _ => require (decide (n < 64)) .eventBound
  | .memoryWindowAccess .. => none
  | .ueTransfer .. => none
  | .ueTransferComplete .. => none
  | .ualinkTimeout core ctx => require (decide (core < 5120) && decide (ctx < 16)) .eventBound
  | .ptpDiscipline .. => none
  | .speedPublication => none
  | .measurementStart core => require (decide (core < 5120)) .eventBound
  | .measurementEnd core _ => require (decide (core < 5120)) .eventBound
  | .operatingPointControl .. => none
  | .correctedError .. => none
  | .uncorrectableError .. => none
  | .marginMonitorFire core => require (decide (core < 5120)) .eventBound
  | .patrolScrub channel => require (decide (channel < 512)) .eventBound
  | .logOverflowRecord core => require (decide (core < 5120)) .eventBound
  | .logLineFlush core => require (decide (core < 5120)) .eventBound
  | .sample core => require (decide (core < 5120)) .eventBound
  | .dbgHalt cluster => require (decide (cluster < 640)) .eventBound
  | .dbgRun cluster => require (decide (cluster < 640)) .eventBound
  | .dbgData cluster _ => require (decide (cluster < 640)) .eventBound
  | .dbgStatClear cluster => require (decide (cluster < 640)) .eventBound
  | .watchpointWrite cluster _ _ => require (decide (cluster < 640)) .eventBound
  | .breakpointMatch core ctx => require (decide (core < 5120) && decide (ctx < 16)) .eventBound
  | .watchpointHit => none
  | .dip cluster => require (decide (cluster < 640)) .eventBound
  | .dipRelay cluster => require (decide (cluster < 640)) .eventBound
  | .containerLoad _ asid => require (decide (asid < 65536)) .eventBound
  | .bootRetry => none
  | .packageReset => none
  | .portReset .. => none
  | .launchAbort .. => none
  | .abortNotice _ sender => require (decide (sender < 524288)) .eventBound
  | .registerWrite .. => none
  | .illegalWord .. => none
  | .ualinkPeerAccess peer _ _ => require (decide (peer < 1024)) .eventBound
  | .incomingTransfer source .. => require (decide (source.device < 524288)) .eventBound
  | .linkCreditReturn .. => none
  | .handoverArrival .. => none
  | .killAcknowledgement .. => none
  | .queueEnCleared q => require (decide (q < 65534)) .eventBound

/-- An instruction the encoding admits. -/
def Instr.wf (i : Instr) : Bool := i.check.isNone

end Sys2Proof
end

