-- ==== Sys2Proof/Machine/Float.lean ====
section
/-! DEFINITION. Number formats and arithmetic (03): exact values, the one rounding step Round, conversions, bins and
the sums of the array. Bit patterns are natural numbers; every operation computes exactly and narrows once. -/

namespace Sys2Proof.Machine

/-- FFLAGS bits (R83): NX 0, UF 1, OF 2, DZ 3, NV 4, SAT 5. -/
abbrev Flags := BitVec 6

/-- The layout of a floating format (R64, R65): exponent and fraction bits, bias, infinities and NaNs as IEEE, or
e4m3's single NaN. -/
structure FloatFormat where
  ebits : Nat
  fbits : Nat
  bias : Nat
  ieee : Bool
  oneNan : Bool
deriving DecidableEq, Repr

/-- The format of a floating type. -/
def floatFormat : Ty → Option FloatFormat
  | .f16 => some ⟨5, 10, 15, true, false⟩
  | .bf16 => some ⟨8, 7, 127, true, false⟩
  | .f32 => some ⟨8, 23, 127, true, false⟩
  | .f64 => some ⟨11, 52, 1023, true, false⟩
  | .e5m2 => some ⟨5, 2, 15, true, false⟩
  | .e4m3 => some ⟨4, 3, 7, false, true⟩
  | .e2m1 => some ⟨2, 1, 1, false, false⟩
  | _ => none

/-- f32 and f64. -/
def fmtF32 : FloatFormat := ⟨8, 23, 127, true, false⟩
def fmtF64 : FloatFormat := ⟨11, 52, 1023, true, false⟩

/-- A floating value: a NaN (signalling or quiet), an infinity, or exactly m x 2^e with a sign (R64 to R66). -/
inductive FVal where
  | nan (signalling : Bool)
  | inf (neg : Bool)
  | fin (neg : Bool) (m : Nat) (e : Int)
deriving DecidableEq, Repr

/-- A result and the flags it raises. -/
structure Res2 (α : Type) where
  val : α
  flags : Flags
deriving DecidableEq, Repr

def flagNX : Flags := 1
def flagUF : Flags := 2
def flagOF : Flags := 4
def flagDZ : Flags := 8
def flagNV : Flags := 16
def flagSAT : Flags := 32

/-- The bits of a floating format. -/
def FloatFormat.width (f : FloatFormat) : Nat := 1 + f.ebits + f.fbits

/-- The largest finite encoding without its sign. -/
def FloatFormat.maxEnc (f : FloatFormat) : Nat :=
  if f.ieee then (2 ^ f.ebits - 1) * 2 ^ f.fbits - 1
  else if f.oneNan then 2 ^ (f.ebits + f.fbits) - 2
  else 2 ^ (f.ebits + f.fbits) - 1

/-- The encoding of +infinity. -/
def FloatFormat.infEnc (f : FloatFormat) : Nat := (2 ^ f.ebits - 1) * 2 ^ f.fbits

/-- The canonical NaN (R66): quiet, positive, no payload; all ones for e4m3. -/
def FloatFormat.nanEnc (f : FloatFormat) : Nat :=
  if f.ieee then f.infEnc + 2 ^ (f.fbits - 1) else 2 ^ (f.ebits + f.fbits) - 1

/-- The exponent of one unit of a subnormal's fraction. -/
def FloatFormat.eunit (f : FloatFormat) : Int := 1 - (f.bias : Int) - (f.fbits : Int)

/-- An encoding with a sign. -/
def FloatFormat.signed (f : FloatFormat) (neg : Bool) (enc : Nat) : Nat :=
  if neg then 2 ^ (f.ebits + f.fbits) + enc else enc

/-- The value of a bit pattern (R64 to R66). -/
def FloatFormat.decode (f : FloatFormat) (x : Nat) : FVal :=
  let neg := x / 2 ^ (f.ebits + f.fbits) % 2 == 1
  let ex := x / 2 ^ f.fbits % 2 ^ f.ebits
  let fr := x % 2 ^ f.fbits
  if f.ieee && ex == 2 ^ f.ebits - 1 then
    if fr == 0 then .inf neg else .nan (fr / 2 ^ (f.fbits - 1) == 0)
  else if f.oneNan && ex == 2 ^ f.ebits - 1 && fr == 2 ^ f.fbits - 1 then .nan false
  else if ex == 0 then .fin neg fr f.eunit
  else .fin neg (2 ^ f.fbits + fr) (f.eunit + (ex : Int) - 1)

/-- The number of bits of a natural number. -/
def bitLength (m : Nat) : Nat := if m = 0 then 0 else Nat.log2 m + 1

/-- Whether a rounding mode takes the upper neighbour (R69): `rem` of `2 * half` units lies above the truncated
value, `sticky` says that more lies above it. -/
def roundsUp (rm : Rm) (neg odd : Bool) (rem half : Nat) (sticky : Bool) : Bool :=
  match rm with
  | .rne => half < rem || (rem == half && half != 0 && (sticky || odd))
  | .rtz => false
  | .rup => !neg && (rem != 0 || sticky)
  | .rdn => neg && (rem != 0 || sticky)
  | .rna => half ≤ rem && half != 0

/-- What an overflow gives (R69). -/
def FloatFormat.overflow (f : FloatFormat) (rm : Rm) (neg : Bool) : Nat :=
  if !f.ieee then f.signed neg f.maxEnc
  else
    match rm with
    | .rne | .rna => f.signed neg f.infEnc
    | .rtz => f.signed neg f.maxEnc
    | .rup => if neg then f.signed neg f.maxEnc else f.infEnc
    | .rdn => if neg then f.signed neg f.infEnc else f.maxEnc

/-- Round (R69): the nearest encodings of m x 2^e, plus a positive part below one unit of m when `sticky` (then m has
more bits than the format). -/
def FloatFormat.round (f : FloatFormat) (rm : Rm) (neg : Bool) (m : Nat) (e : Int) (sticky : Bool := false) :
    Res2 Nat :=
  if m = 0 && !sticky then ⟨f.signed neg 0, 0⟩
  else
    let len : Int := bitLength m
    let q := max (e + len - (f.fbits + 1)) f.eunit
    let shift := q - e
    let sh := shift.toNat
    let mant := if shift ≤ 0 then m * 2 ^ (-shift).toNat else m / 2 ^ sh
    let rem := if shift ≤ 0 then 0 else m % 2 ^ sh
    let half := if shift ≤ 0 then 0 else 2 ^ (sh - 1)
    let inexact := rem != 0 || sticky
    let up := roundsUp rm neg (mant % 2 == 1) rem half sticky
    let mant' := if up then mant + 1 else mant
    let field := (q - f.eunit).toNat
    let enc := if mant' < 2 ^ f.fbits then mant' else field * 2 ^ f.fbits + mant'
    let tiny := decide (e + len ≤ 1 - (f.bias : Int))
    if f.maxEnc < enc then ⟨f.overflow rm neg, flagOF ||| flagNX⟩
    else ⟨f.signed neg enc, (if inexact then flagNX else 0) ||| (if tiny && inexact then flagUF else 0)⟩

/-- Round of a value that may be special: a NaN gives the canonical NaN, an infinity itself. -/
def FloatFormat.roundVal (f : FloatFormat) (rm : Rm) (v : FVal) : Res2 Nat :=
  match v with
  | .nan _ => ⟨f.nanEnc, 0⟩
  | .inf neg => ⟨f.signed neg f.infEnc, 0⟩
  | .fin neg m e => f.round rm neg m e

/-- NV when an operand is a signalling NaN (R66). -/
def FVal.sigFlag : FVal → Flags
  | .nan true => flagNV
  | _ => 0

def FVal.isNan : FVal → Bool
  | .nan _ => true
  | _ => false

/-- The value with its sign turned. -/
def FVal.neg : FVal → FVal
  | .nan s => .nan s
  | .inf n => .inf (!n)
  | .fin n m e => .fin (!n) m e

/-- A signed dyadic as an integer count of 2^e units. -/
def scaledInt (neg : Bool) (m : Nat) (e e0 : Int) : Int :=
  let x : Int := m * 2 ^ (e - e0).toNat
  if neg then -x else x

/-- The exact sum of two finite values: a zero of opposite operands takes the sign the mode gives (R69). -/
def addFin (rm : Rm) (n₁ : Bool) (m₁ : Nat) (e₁ : Int) (n₂ : Bool) (m₂ : Nat) (e₂ : Int) : FVal :=
  let e := min e₁ e₂
  let x := scaledInt n₁ m₁ e₁ e + scaledInt n₂ m₂ e₂ e
  if x = 0 then .fin (if n₁ == n₂ then n₁ else rm == .rdn) 0 e
  else .fin (decide (x < 0)) x.natAbs e

/-- The exact sum of two values (R69, R80). -/
def addVal (rm : Rm) (x y : FVal) : Res2 FVal :=
  match x, y with
  | .nan s, y => ⟨.nan false, (FVal.nan s).sigFlag ||| y.sigFlag⟩
  | x, .nan s => ⟨.nan false, (FVal.nan s).sigFlag ||| x.sigFlag⟩
  | .inf a, .inf b => if a == b then ⟨.inf a, 0⟩ else ⟨.nan false, flagNV⟩
  | .inf a, .fin .. => ⟨.inf a, 0⟩
  | .fin .., .inf b => ⟨.inf b, 0⟩
  | .fin a m e, .fin b m' e' => ⟨addFin rm a m e b m' e', 0⟩

/-- The exact product of two values: 0 times an infinity is NaN and sets NV. -/
def mulVal (x y : FVal) : Res2 FVal :=
  match x, y with
  | .nan s, y => ⟨.nan false, (FVal.nan s).sigFlag ||| y.sigFlag⟩
  | x, .nan s => ⟨.nan false, (FVal.nan s).sigFlag ||| x.sigFlag⟩
  | .inf a, .inf b => ⟨.inf (a != b), 0⟩
  | .inf a, .fin b m _ => if m = 0 then ⟨.nan false, flagNV⟩ else ⟨.inf (a != b), 0⟩
  | .fin a m _, .inf b => if m = 0 then ⟨.nan false, flagNV⟩ else ⟨.inf (a != b), 0⟩
  | .fin a m e, .fin b m' e' => ⟨.fin (a != b) (m * m') (e + e'), 0⟩

/-- Round the exact sum of two bit patterns. -/
def FloatFormat.add (f : FloatFormat) (rm : Rm) (x y : Nat) : Res2 Nat :=
  let r := addVal rm (f.decode x) (f.decode y)
  let o := f.roundVal rm r.val
  ⟨o.val, r.flags ||| o.flags⟩

/-- Round the exact difference. -/
def FloatFormat.sub (f : FloatFormat) (rm : Rm) (x y : Nat) : Res2 Nat :=
  let r := addVal rm (f.decode x) (f.decode y).neg
  let o := f.roundVal rm r.val
  ⟨o.val, r.flags ||| o.flags⟩

/-- Round the exact product. -/
def FloatFormat.mul (f : FloatFormat) (rm : Rm) (x y : Nat) : Res2 Nat :=
  let r := mulVal (f.decode x) (f.decode y)
  let o := f.roundVal rm r.val
  ⟨o.val, r.flags ||| o.flags⟩

/-- The fused operations (R160): the exact product, its sign turned when `np`, plus the addend, its sign turned when
`nz`, rounded once. -/
def FloatFormat.fma (f : FloatFormat) (rm : Rm) (np nz : Bool) (x y z : Nat) : Res2 Nat :=
  let p := mulVal (f.decode x) (f.decode y)
  let pv := if np then p.val.neg else p.val
  let zv := if nz then (f.decode z).neg else f.decode z
  let r := addVal rm pv zv
  let o := f.roundVal rm r.val
  ⟨o.val, p.flags ||| r.flags ||| o.flags⟩

/-- Minimum and maximum (R82): −0 below +0; a NaN gives way to the other operand. -/
def FloatFormat.minMax (f : FloatFormat) (isMax : Bool) (x y : Nat) : Res2 Nat :=
  let a := f.decode x
  let b := f.decode y
  let fl := a.sigFlag ||| b.sigFlag
  match a, b with
  | .nan _, .nan _ => ⟨f.nanEnc, fl⟩
  | .nan _, _ => ⟨y, fl⟩
  | _, .nan _ => ⟨x, fl⟩
  | _, _ =>
    let key := fun (v : Nat) =>
      let mag : Int := (v % 2 ^ (f.ebits + f.fbits) : Nat)
      if v / 2 ^ (f.ebits + f.fbits) % 2 == 1 then -mag - 1 else mag
    let xSmaller := decide (key x ≤ key y)
    ⟨if xSmaller != isMax then x else y, fl⟩

/-- A total comparison of two values that are not NaN: -1, 0 or 1. -/
def compareVal (x y : FVal) : Int :=
  match x, y with
  | .inf a, .inf b => if a == b then 0 else if a then -1 else 1
  | .inf a, _ => if a then -1 else 1
  | _, .inf b => if b then 1 else -1
  | .fin a m e, .fin b m' e' =>
    let e0 := min e e'
    let d := scaledInt a m e e0 - scaledInt b m' e' e0
    if d < 0 then -1 else if d = 0 then 0 else 1
  | _, _ => 0

/-- A floating compare (R97): every comparison with a NaN is false except ne. -/
def FloatFormat.cmp (f : FloatFormat) (cc : Cc) (x y : Nat) : Res2 Bool :=
  let a := f.decode x
  let b := f.decode y
  let fl := a.sigFlag ||| b.sigFlag
  if a.isNan || b.isNan then ⟨cc == .ne, fl⟩
  else
    let c := compareVal a b
    ⟨match cc with
      | .eq => c == 0
      | .ne => c != 0
      | .lt => c < 0
      | .ge => 0 ≤ c
      | .le => c ≤ 0
      | .gt => 0 < c
      | _ => false, fl⟩

/-- The integer square root, by bits from the top. -/
def isqrtBits (n : Nat) : (bits : Nat) → (root : Nat) → Nat
  | 0, r => r
  | b + 1, r =>
    let c := r + 2 ^ b
    isqrtBits n b (if c * c ≤ n then c else r)

/-- The integer square root. -/
def isqrt (n : Nat) : Nat := isqrtBits n (bitLength n / 2 + 1) 0

/-- The reciprocal (R161). -/
def FloatFormat.rcp (f : FloatFormat) (rm : Rm) (x : Nat) : Res2 Nat :=
  match f.decode x with
  | .nan s => ⟨f.nanEnc, (FVal.nan s).sigFlag⟩
  | .inf n => ⟨f.signed n 0, 0⟩
  | .fin n m e =>
    if m = 0 then ⟨f.signed n f.infEnc, flagDZ⟩
    else
      let k := bitLength m + f.fbits + 4
      f.round rm n (2 ^ k / m) (-(k : Int) - e) (2 ^ k % m != 0)

/-- The reciprocal square root (R161). -/
def FloatFormat.rsq (f : FloatFormat) (rm : Rm) (x : Nat) : Res2 Nat :=
  match f.decode x with
  | .nan s => ⟨f.nanEnc, (FVal.nan s).sigFlag⟩
  | .inf n => if n then ⟨f.nanEnc, flagNV⟩ else ⟨f.signed false 0, 0⟩
  | .fin n m e =>
    if m = 0 then ⟨f.signed n f.infEnc, flagDZ⟩
    else if n then ⟨f.nanEnc, flagNV⟩
    else
      let odd := e % 2 != 0
      let m' := if odd then 2 * m else m
      let e' := if odd then e - 1 else e
      let k := bitLength m' + f.fbits + 4
      let r := isqrt (2 ^ (2 * k) / m')
      f.round rm false r (-(k : Int) - e' / 2) (r * r * m' != 2 ^ (2 * k))

/-- Floating to floating (R71): exact when the value is representable; a NaN of a format without NaNs is +0 and NV;
an infinity without infinities is the largest finite and OF. -/
def convertFloat (src dst : FloatFormat) (rm : Rm) (x : Nat) : Res2 Nat :=
  match src.decode x with
  | .nan s =>
    let fl := (FVal.nan s).sigFlag
    if dst.ieee || dst.oneNan then ⟨dst.nanEnc, fl⟩ else ⟨0, flagNV⟩
  | .inf n => if dst.ieee then ⟨dst.signed n dst.infEnc, 0⟩ else ⟨dst.signed n dst.maxEnc, flagOF⟩
  | .fin n m e => dst.round rm n m e

/-- A finite value rounded to an integer by a mode, and whether a fraction was discarded. -/
def roundToInt (rm : Rm) (neg : Bool) (m : Nat) (e : Int) : Int × Bool :=
  if 0 ≤ e then ((if neg then -((m * 2 ^ e.toNat : Nat) : Int) else (m * 2 ^ e.toNat : Nat)), false)
  else
    let sh := (-e).toNat
    let q := m / 2 ^ sh
    let rem := m % 2 ^ sh
    let q' := if roundsUp rm neg (q % 2 == 1) rem (2 ^ (sh - 1)) false then q + 1 else q
    ((if neg then -(q' : Int) else q'), rem != 0)

/-- The range of an integer type of w bits. -/
def intMin (signed : Bool) (w : Nat) : Int := if signed then -(2 ^ (w - 1) : Nat) else 0
def intMax (signed : Bool) (w : Nat) : Int := if signed then (2 ^ (w - 1) - 1 : Nat) else (2 ^ w - 1 : Nat)

/-- The w-bit pattern of an integer. -/
def intBits (w : Nat) (x : Int) : Nat := (x % (2 ^ w : Nat)).toNat

/-- The integer a w-bit pattern stands for. -/
def bitsInt (signed : Bool) (w x : Nat) : Int :=
  if signed && x / 2 ^ (w - 1) % 2 == 1 then (x % 2 ^ w : Nat) - (2 ^ w : Nat) else (x % 2 ^ w : Nat)

/-- Floating to integer (R71): out of range, infinite or NaN sets NV alone. -/
def convertToInt (src : FloatFormat) (signed : Bool) (w : Nat) (rm : Rm) (x : Nat) : Res2 Nat :=
  match src.decode x with
  | .nan _ => ⟨0, flagNV⟩
  | .inf n => ⟨intBits w (if n then intMin signed w else intMax signed w), flagNV⟩
  | .fin n m e =>
    let r := roundToInt rm n m e
    if r.1 < intMin signed w then ⟨intBits w (intMin signed w), flagNV⟩
    else if intMax signed w < r.1 then ⟨intBits w (intMax signed w), flagNV⟩
    else ⟨intBits w r.1, if r.2 then flagNX else 0⟩

/-- Integer to floating (R71). -/
def convertFromInt (dst : FloatFormat) (signed : Bool) (w : Nat) (rm : Rm) (x : Nat) : Res2 Nat :=
  let i := bitsInt signed w x
  dst.round rm (decide (i < 0)) i.natAbs 0

/-- Round(x × 2^j) (R173). -/
def FloatFormat.scale (f : FloatFormat) (rm : Rm) (x : Nat) (j : Int) : Res2 Nat :=
  match f.decode x with
  | .nan s => ⟨f.nanEnc, (FVal.nan s).sigFlag⟩
  | .inf n => ⟨f.signed n f.infEnc, 0⟩
  | .fin n m e =>
    if m = 0 then ⟨f.signed n 0, 0⟩
    else
      -- a shift past the whole range of the format rounds as one step past it does
      let lo : Int := -4 * 2 ^ f.ebits - 4 * f.fbits - 8
      let hi : Int := 4 * 2 ^ f.ebits + 4 * f.fbits + 8
      f.round rm n m (e + max lo (min hi j))

/-! ### Bins (R76 to R79) -/

/-- Bits and fraction bits of a binned format. -/
def binBits (wide : Bool) : Nat := if wide then 192 else 128
def binFrac (wide : Bool) : Nat := if wide then 159 else 95

/-- The range of e_ref (R76). -/
def erefOk (wide : Bool) (e : Int) : Bool :=
  if wide then decide (-1074 ≤ e) && decide (e ≤ 1023) else decide (-149 ≤ e) && decide (e ≤ 127)

/-- Bin (R77): truncation toward zero, saturation to the range of W bits. -/
def binVal (wide : Bool) (eref : Int) (v : FVal) : Res2 Nat :=
  let w := binBits wide
  match v with
  | .nan _ => ⟨0, flagNV⟩
  | .inf n => ⟨intBits w (if n then intMin true w else intMax true w), flagSAT⟩
  | .fin n m e =>
    let sh := e + (binFrac wide : Int) - eref
    let mag := if 0 ≤ sh then m * 2 ^ sh.toNat else m / 2 ^ (-sh).toNat
    let lost := !decide (0 ≤ sh) && m % 2 ^ (-sh).toNat != 0
    let x : Int := if n then -(mag : Int) else mag
    if x < intMin true w then ⟨intBits w (intMin true w), flagSAT ||| (if lost then flagNX else 0)⟩
    else if intMax true w < x then ⟨intBits w (intMax true w), flagSAT ||| (if lost then flagNX else 0)⟩
    else ⟨intBits w x, if lost then flagNX else 0⟩

/-- Leaving a binned sum (R79): one RNE rounding. -/
def unbin (wide : Bool) (dst : FloatFormat) (eref : Int) (b : Nat) : Res2 Nat :=
  let x := bitsInt true (binBits wide) b
  dst.round .rne (decide (x < 0)) x.natAbs (eref - (binFrac wide : Int))

/-! ### Sums in the array (R80) -/

/-- The exact sum of values. A zero is −0 only when every one is (DEDUCED, log 13). -/
def sumExact : List FVal → Res2 FVal
  | [] => ⟨.fin false 0 0, 0⟩
  | [p] => ⟨p, p.sigFlag⟩
  | p :: q :: ps =>
    let r := sumExact (q :: ps)
    let s := addVal .rne p r.val
    ⟨s.val, r.flags ||| s.flags⟩

/-- An infinity of a sign. -/
def FVal.isInf (n : Bool) : FVal → Bool
  | .inf a => a == n
  | _ => false

/-- The exact sum of the products of a block: infinite products of opposite sign set NV, beside a NaN too. -/
def sumProducts (ps : List FVal) : Res2 FVal :=
  let r := sumExact ps
  ⟨r.val, if ps.any (FVal.isInf true) && ps.any (FVal.isInf false) then r.flags ||| flagNV else r.flags⟩

/-- The exact products of a block, then their sum. -/
def blockSum (pairs : List (FVal × FVal)) : Res2 FVal :=
  let ps := pairs.map fun p => mulVal p.1 p.2
  let s := sumProducts (ps.map fun p => p.val)
  ⟨s.val, ps.foldl (fun f p => f ||| p.flags) s.flags⟩

/-- Round the accumulator plus a block: an overflow of mmas and mmaq saturates (R74, R75, R196). -/
def accumulate (f : FloatFormat) (saturate : Bool) (acc : Nat) (p : FVal) : Res2 Nat :=
  let a := f.decode acc
  let r := addVal .rne a p
  match r.val with
  | .fin n m e =>
    let o := f.round .rne n m e
    let o := if saturate && o.val % 2 ^ (f.ebits + f.fbits) == f.infEnc then
      ⟨f.signed n f.maxEnc, flagOF ||| flagNX⟩ else o
    ⟨o.val, r.flags ||| o.flags⟩
  | v =>
    let o := f.roundVal .rne v
    ⟨o.val, r.flags ||| o.flags⟩

/-- A finite block contribution larger than the largest f32 becomes it, with OF (R74). -/
def clampF32 (v : FVal) : Res2 FVal :=
  let big := fmtF32.decode fmtF32.maxEnc
  match v with
  | .fin n m e =>
    if compareVal big (.fin false m e) < 0 then ⟨if n then big.neg else big, flagOF⟩ else ⟨v, 0⟩
  | v => ⟨v, 0⟩

end Sys2Proof.Machine
end

