-- ==== Sys2Proof/Config.lean ====
section
/-! DEFINITION. The free values: what the spec leaves open, as constants without a body. Nothing in Lean can
evaluate them or prove a value of them, so a claim about the machine holds whatever they are. -/

namespace Sys2Proof.Config

/-- The n-th free bit: an L1 hit or miss, the acceptance of a write to bytes of two overlapping regions (R281),
a choice between the entries of an inconsistent 64 KiB group (R326). The counter it is applied to stands in
State (DESIGN CHOICE, log 3). -/
opaque freeBit : Nat → Bool

/-- The n-th free word: a state word whose layout the spec does not give (R358), read by a debugger (DESIGN CHOICE, log 23). -/
opaque freeWord : Nat → BitVec 64

/-- Where a slice that has to make room for a line begins among the lines it may drop, by the free counter, the slice and the line: the spec
gives no replacement rule (R291, DESIGN CHOICE, log 84). -/
opaque victim : (counter slice line : Nat) → Nat

/-- What the hash of a private line's hoist, segment and line number gives, modulo 640 the slice that holds the line: the spec names the hash and
does not give it (R273, DESIGN CHOICE, log 101). -/
opaque arenaSlice : (hoist segment line : Nat) → Nat

/-- The k of R430 in steps of 1/64 above 32/64, reduced modulo 33: the spec gives no prediction of the module power (DESIGN CHOICE,
log 36). -/
opaque powerFactor : (counter : Nat) → Nat

/-- What the measurement of a core at bring-up finds (R427, R437), by the free counter, the core and the field: points
0 to 7 of FMAX, 8 to 15 of LEAK, 16 TSLOPE as 16 bits of two's complement, 17 whether the self-test passed (not 0),
and for core 5,120 the ns the bring-up takes (0) and how far STIME then is behind PTP time (1) (DESIGN CHOICE, log 24). -/
opaque bringUp : (counter core field : Nat) → Nat

/-- SHAKE256 with 64 bytes of output (R436, R437, R440, R441), a named standard the spec gives no algorithm for
(DESIGN CHOICE, log 11). -/
opaque shake256 : List Byte → BitVec 512

/-- SLH-DSA-SHAKE-256s verification of a signature over a message under a public key (R436, R440, DESIGN CHOICE, log 11). -/
opaque slhVerify : (key message signature : List Byte) → Bool

/-- Nirlia's 64-byte root public key, held in the base die's ROM (R436, DESIGN CHOICE, log 11). -/
opaque rootKey : List Byte

end Sys2Proof.Config
end

