-- ==== Sys2Proof/Decode.lean ====
section
/-! DEFINITION. Decoding and encoding of instruction words (04): the nine formats, the field codes, the opcode
map and the long forms. Every word decodes to one instruction or is rejected by name. -/

namespace Sys2Proof

/-- Why a word names no instruction. -/
inductive DecodeErr where
  | unassignedMajor            -- a MAJ the map marks ILLEGAL (R100)
  | unassignedFunction         -- a function code no row lists (R101, R105, R113 to R115)
  | reservedField              -- a nonzero reserved bit (R92)
  | illegalRegister            -- a long-form register field with no register behind it (R91, R116)
  | illegalCode                -- a type, format, scope, ordering, size or rounding code with no meaning (R70, R94 to R99)
  | truncated                  -- the bytes end inside the instruction (R86)
  | notWellFormed (e : WfErr)  -- an operand combination the entry refuses
deriving DecidableEq, Repr

/-- What the decoder answers. -/
abbrev Dec := Except DecodeErr Instr

/-! ### Fields of a word -/

/-- The bits a list of field widths takes. -/
def bitsOf : List Nat → Nat
  | [] => 0
  | w :: ws => w + bitsOf ws

/-- The fields of a word, most significant first. -/
def unpackBits : List Nat → Nat → List Nat
  | [], _ => []
  | w :: ws, x => x / 2 ^ bitsOf ws % 2 ^ w :: unpackBits ws x

/-- The word that holds the given fields. -/
def packBits : List Nat → List Nat → Nat
  | w :: ws, f :: fs => f % 2 ^ w * 2 ^ bitsOf ws + packBits ws fs
  | _, _ => 0

/-- The field layouts of R90, R110 and R115, most significant first. -/
def layS3 : List Nat := [6, 6, 6, 6, 5, 3]
def laySI : List Nat := [6, 6, 6, 11, 3]
def laySM : List Nat := [6, 6, 6, 8, 4, 2]
def layBR : List Nat := [6, 3, 1, 22]
def layV : List Nat := [6, 5, 5, 5, 3, 4, 4]
def layVM : List Nat := [6, 5, 6, 3, 4, 4, 4]
def layT : List Nat := [6, 5, 5, 5, 5, 4, 2]
def layTM : List Nat := [6, 5, 6, 4, 5, 4, 2]
def layX : List Nat := [6, 6, 6, 6, 8]
def layL : List Nat := [6, 6, 6, 6, 6, 2]
def layMem : List Nat := [4, 3, 3, 3, 19]
def layAmo : List Nat := [4, 3, 3, 1, 1, 20]
def layVec : List Nat := [6, 4, 4, 3, 3, 1, 1, 5, 4, 1]
def layVMem : List Nat := [3, 4, 3, 4, 4, 14]
def layLane : List Nat := [4, 4, 3, 21]
def layMat : List Nat := [4, 5, 4, 5, 14]

/-! ### Field codes -/

/-- The type of a 4-bit ty field; 15 is bs32, or bs64 under W (R95). -/
def Ty.ofCode (wide : Bool) (n : Nat) : Option Ty :=
  match n with
  | 0 => some .i8 | 1 => some .n8 | 2 => some .i16 | 3 => some .n16 | 4 => some .i32 | 5 => some .n32
  | 6 => some .i64 | 7 => some .n64 | 8 => some .f16 | 9 => some .bf16 | 10 => some .f32 | 11 => some .f64
  | 12 => some .e4m3 | 13 => some .e5m2 | 14 => some .e2m1
  | 15 => some (if wide then .bs64 else .bs32)
  | _ => none

/-- The matrix format code (R96). -/
def Fmt.code : Fmt → Nat
  | .i8 => 0 | .f16 => 8 | .bf16 => 9 | .f32 => 10 | .f64 => 11 | .e4m3 => 12 | .e5m2 => 13 | .e2m1 => 14
  | .m8 => 16 | .m4 => 17 | .q8 => 18 | .q4 => 19 | .bs32 => 20

/-- The format of a 5-bit fmt field (R96). -/
def Fmt.ofCode (n : Nat) : Option Fmt :=
  match n with
  | 0 => some .i8 | 8 => some .f16 | 9 => some .bf16 | 10 => some .f32 | 11 => some .f64 | 12 => some .e4m3
  | 13 => some .e5m2 | 14 => some .e2m1 | 16 => some .m8 | 17 => some .m4 | 18 => some .q8 | 19 => some .q4
  | 20 => some .bs32
  | _ => none

/-- The condition of a cc field (R97). -/
def Cc.ofCode (n : Nat) : Option Cc :=
  match n with
  | 0 => some .eq | 1 => some .ne | 2 => some .lt | 3 => some .ge | 4 => some .le | 5 => some .gt
  | 6 => some .ltn | 7 => some .gen | 8 => some .len | 9 => some .gtn
  | _ => none

/-- The scope code (R94). -/
def Scope.code : Scope → Nat
  | .ctx => 0 | .core => 1 | .cluster => 2 | .die => 3 | .pkg => 4 | .sys => 5

/-- The scope of a 3-bit code (R94). -/
def Scope.ofCode (n : Nat) : Option Scope :=
  match n with
  | 0 => some .ctx | 1 => some .core | 2 => some .cluster | 3 => some .die | 4 => some .pkg | 5 => some .sys
  | _ => none

/-- The ordering code (R94). -/
def MemOrd.code : MemOrd → Nat
  | .rlx => 0 | .acq => 1 | .rel => 2 | .acqrel => 3 | .sc => 4

/-- The ordering of a 3-bit code (R94). -/
def MemOrd.ofCode (n : Nat) : Option MemOrd :=
  match n with
  | 0 => some .rlx | 1 => some .acq | 2 => some .rel | 3 => some .acqrel | 4 => some .sc
  | _ => none

/-- The SM ord code (R93). -/
def SmOrd.code : SmOrd → Nat
  | .rlx => 0 | .cluster => 1 | .pkg => 2 | .sys => 3

/-- The ord field of an SM word (R93). -/
def SmOrd.ofCode (n : Nat) : SmOrd :=
  match n with
  | 0 => .rlx | 1 => .cluster | 2 => .pkg | _ => .sys

/-- The rounding code (R70). -/
def Rc.code : Rc → Nat
  | .fixed .rne => 0 | .fixed .rtz => 1 | .fixed .rup => 2 | .fixed .rdn => 3 | .fixed .rna => 4 | .dyn => 7

/-- The rounding of a 3-bit code (R70): 5 and 6 are refused. -/
def Rc.ofCode (n : Nat) : Option Rc :=
  match n with
  | 0 => some (.fixed .rne) | 1 => some (.fixed .rtz) | 2 => some (.fixed .rup) | 3 => some (.fixed .rdn)
  | 4 => some (.fixed .rna) | 7 => some .dyn
  | _ => none

/-- The reduction code (R99). -/
def RedOp.code : RedOp → Nat
  | .add => 0 | .min => 1 | .max => 2 | .minn => 3 | .maxn => 4 | .and => 5 | .or => 6 | .xor => 7

/-- The operator of a reduction code (R99). -/
def RedOp.ofCode (n : Nat) : Option RedOp :=
  match n with
  | 0 => some .add | 1 => some .min | 2 => some .max | 3 => some .minn | 4 => some .maxn | 5 => some .and
  | 6 => some .or | 7 => some .xor
  | _ => none

/-- The view operator code (R99). -/
def ViewOp.code : ViewOp → Nat
  | .addI32 => 0 | .addI64 => 1 | .addF32 => 2 | .addBs32 => 3 | .addBs64 => 4 | .minI32 => 5 | .minI64 => 6
  | .maxI32 => 7 | .maxI64 => 8 | .minnN32 => 9 | .minnN64 => 10 | .maxnN32 => 11 | .maxnN64 => 12
  | .and => 13 | .or => 14 | .xor => 15

/-- The view operator of a 5-bit code (R99). -/
def ViewOp.ofCode (n : Nat) : Option ViewOp :=
  match n with
  | 0 => some .addI32 | 1 => some .addI64 | 2 => some .addF32 | 3 => some .addBs32 | 4 => some .addBs64
  | 5 => some .minI32 | 6 => some .minI64 | 7 => some .maxI32 | 8 => some .maxI64 | 9 => some .minnN32
  | 10 => some .minnN64 | 11 => some .maxnN32 | 12 => some .maxnN64 | 13 => some .and | 14 => some .or | 15 => some .xor
  | _ => none

/-- The atomic function code (R101). -/
def AmoOp.code : AmoOp → Nat
  | .add => 0 | .and => 1 | .or => 2 | .xor => 3 | .min => 4 | .max => 5 | .minn => 6 | .maxn => 7 | .swp => 8
  | .cas => 9 | .fadd => 10 | .trig => 11

/-- The atomic of a 4-bit code (R101). -/
def AmoOp.ofCode (n : Nat) : Option AmoOp :=
  match n with
  | 0 => some .add | 1 => some .and | 2 => some .or | 3 => some .xor | 4 => some .min | 5 => some .max
  | 6 => some .minn | 7 => some .maxn | 8 => some .swp | 9 => some .cas | 10 => some .fadd | 11 => some .trig
  | _ => none

/-- The size code of the memory extension (R115). -/
def MemSize.code : MemSize → Nat
  | .b => 0 | .bn => 1 | .h => 2 | .hn => 3 | .w => 4 | .wn => 5 | .d => 6

/-- The size of a 3-bit code (R115). -/
def MemSize.ofCode (n : Nat) : Option MemSize :=
  match n with
  | 0 => some .b | 1 => some .bn | 2 => some .h | 3 => some .hn | 4 => some .w | 5 => some .wn | 6 => some .d
  | _ => none

/-- The am code (R98). -/
def Am.code : Am → Nat
  | .unit => 0 | .inc => 1 | .rep => 2

/-- The addressing mode of an am field (R98). -/
def Am.ofCode (n : Nat) : Option Am :=
  match n with
  | 0 => some .unit | 1 => some .inc | 2 => some .rep
  | _ => none

/-- The 6-bit code of a vector source (R91). -/
def VSrc.code : VSrc → Nat
  | .v r => r.val
  | .q r => 32 + r.val

/-- The vector source of a 6-bit field (R91): 36 to 63 name none. -/
def VSrc.ofCode (n : Nat) : Option VSrc :=
  if n < 32 then some (.v (Fin.ofNat 32 n)) else if n < 36 then some (.q (Fin.ofNat 4 (n - 32))) else none

/-- The short major opcode of a vector operation (R105). -/
def VOp.mj : VOp → Nat
  | .vadd | .vsub | .vmul | .vmulh | .vmin | .vmax | .vand | .vor | .vxor | .vandn | .vshl | .vshr | .vsha
  | .vabs | .vneg => 0x1C
  | .vfma | .vfms | .vfnma | .vrcp | .vrsq => 0x1D
  | .vcmp _ => 0x1E
  | .vsel | .viota | .vcompress | .vexpand | .vperm => 0x1F
  | .vcvt _ | .vscl | .vqnt | .vexpmax | .vbin => 0x20
  | .vred _ => 0x21
  | .vscan _ => 0x22
  | .kand | .kor | .kxor | .kandn | .kmov => 0x23

/-- The function code of a vector operation (R105). -/
def VOp.fn : VOp → Nat
  | .vadd => 0 | .vsub => 1 | .vmul => 2 | .vmulh => 3 | .vmin => 4 | .vmax => 5 | .vand => 6 | .vor => 7
  | .vxor => 8 | .vandn => 9 | .vshl => 10 | .vshr => 11 | .vsha => 12 | .vabs => 13 | .vneg => 14
  | .vfma => 0 | .vfms => 1 | .vfnma => 2 | .vrcp => 3 | .vrsq => 4
  | .vcmp cc => cc.code
  | .vsel => 0 | .viota => 1 | .vcompress => 2 | .vexpand => 3 | .vperm => 4
  | .vcvt _ => 0 | .vscl => 1 | .vqnt => 2 | .vexpmax => 3 | .vbin => 4
  | .vred op => op.code
  | .vscan op => op.code
  | .kand => 0 | .kor => 1 | .kxor => 2 | .kandn => 3 | .kmov => 4

/-- The operation of a short major opcode and function code (R105); `st` is the source type of vcvt. -/
def VOp.ofCode (mj fn : Nat) (st : Option Ty) : Option VOp :=
  match mj, fn with
  | 0x1C, 0 => some .vadd | 0x1C, 1 => some .vsub | 0x1C, 2 => some .vmul | 0x1C, 3 => some .vmulh
  | 0x1C, 4 => some .vmin | 0x1C, 5 => some .vmax | 0x1C, 6 => some .vand | 0x1C, 7 => some .vor
  | 0x1C, 8 => some .vxor | 0x1C, 9 => some .vandn | 0x1C, 10 => some .vshl | 0x1C, 11 => some .vshr
  | 0x1C, 12 => some .vsha | 0x1C, 13 => some .vabs | 0x1C, 14 => some .vneg
  | 0x1D, 0 => some .vfma | 0x1D, 1 => some .vfms | 0x1D, 2 => some .vfnma | 0x1D, 3 => some .vrcp | 0x1D, 4 => some .vrsq
  | 0x1E, fn => (Cc.ofCode fn).map .vcmp
  | 0x1F, 0 => some .vsel | 0x1F, 1 => some .viota | 0x1F, 2 => some .vcompress | 0x1F, 3 => some .vexpand
  | 0x1F, 4 => some .vperm
  | 0x20, 0 => st.map .vcvt
  | 0x20, 1 => some .vscl | 0x20, 2 => some .vqnt | 0x20, 3 => some .vexpmax | 0x20, 4 => some .vbin
  | 0x21, fn => (RedOp.ofCode fn).map .vred
  | 0x22, fn => (RedOp.ofCode fn).map .vscan
  | 0x23, 0 => some .kand | 0x23, 1 => some .kor | 0x23, 2 => some .kxor | 0x23, 3 => some .kandn | 0x23, 4 => some .kmov
  | _, _ => none

/-! ### Decoding -/

/-- Answer `i` if the given fields are all zero, as a reserved field must be (R92). -/
def zeros (fields : List Nat) (i : Dec) : Dec := if fields.all (· == 0) then i else .error .reservedField

/-- Go on with a field code's meaning, or refuse the code. -/
def coded {α : Type} (x : Option α) (f : α → Dec) : Dec :=
  match x with
  | some a => f a
  | none => .error .illegalCode

/-- Go on with a long-form register, or refuse the field (R91). -/
def reg {α : Type} (x : Option α) (f : α → Dec) : Dec :=
  match x with
  | some a => f a
  | none => .error .illegalRegister

/-- A long-form field that names v0 to v31 (R91, R116). -/
def vregOf (n : Nat) : Option VReg := if n < 32 then some (Fin.ofNat 32 n) else none

/-- Register fields as register names. -/
def sreg (n : Nat) : SReg := Fin.ofNat 64 n
def preg (n : Nat) : PReg := Fin.ofNat 8 n
def greg (n : Nat) : GReg := Fin.ofNat 4 n
def vreg (n : Nat) : VReg := Fin.ofNat 32 n
def kreg (n : Nat) : KReg := Fin.ofNat 8 n
def laOf (n : Nat) : Fin 16 := Fin.ofNat 16 n

/-- MAJ 0x00 (R101). -/
def decAlu (d a b : SReg) (fn : Nat) (g : PReg) : Dec :=
  match fn with
  | 0 => .ok (.add d a b g) | 1 => .ok (.sub d a b g) | 2 => .ok (.mul d a b g)
  | 3 => .ok (.mulh d a b g) | 4 => .ok (.mulhn d a b g) | 5 => .ok (.div d a b g)
  | 6 => .ok (.divn d a b g) | 7 => .ok (.rem d a b g) | 8 => .ok (.remn d a b g)
  | 9 => .ok (.and d a b g) | 10 => .ok (.or d a b g) | 11 => .ok (.xor d a b g)
  | 12 => .ok (.shl d a b g) | 13 => .ok (.shr d a b g) | 14 => .ok (.sha d a b g)
  | 15 => .ok (.rot d a b g) | 16 => .ok (.min d a b g) | 17 => .ok (.max d a b g)
  | 18 => .ok (.minn d a b g) | 19 => .ok (.maxn d a b g)
  | 20 => .ok (.lea d a b 0 g) | 21 => .ok (.lea d a b 1 g) | 22 => .ok (.lea d a b 2 g) | 23 => .ok (.lea d a b 3 g)
  | _ => .error .unassignedFunction

/-- MAJ 0x01 (R101, R102): the one-operand forms reserve b. -/
def decBit (d a : SReg) (b fn : Nat) (g : PReg) : Dec :=
  match fn with
  | 0 => zeros [b] (.ok (.clz d a g)) | 1 => zeros [b] (.ok (.ctz d a g))
  | 2 => zeros [b] (.ok (.popc d a g)) | 3 => zeros [b] (.ok (.brev d a g))
  | 4 => .ok (.bext d a (sreg b) g) | 5 => .ok (.bins d a (sreg b) g)
  | _ => .error .unassignedFunction

/-- MAJ 0x15 (R101). -/
def decLdx (d a b : SReg) (fn : Nat) (g : PReg) : Dec :=
  match fn with
  | 0 => .ok (.ldxB d a b g) | 1 => .ok (.ldxBn d a b g) | 2 => .ok (.ldxH d a b g) | 3 => .ok (.ldxHn d a b g)
  | 4 => .ok (.ldxW d a b g) | 5 => .ok (.ldxWn d a b g) | 6 => .ok (.ldxD d a b g)
  | _ => .error .unassignedFunction

/-- MAJ 0x16 (R101). -/
def decAmoD (d a b : SReg) (fn : Nat) (g : PReg) : Dec :=
  match fn with
  | 0 => .ok (.amoAddD d a b g) | 1 => .ok (.amoAndD d a b g) | 2 => .ok (.amoOrD d a b g)
  | 3 => .ok (.amoXorD d a b g) | 4 => .ok (.amoMinD d a b g) | 5 => .ok (.amoMaxD d a b g)
  | 6 => .ok (.amoMinnD d a b g) | 7 => .ok (.amoMaxnD d a b g) | 8 => .ok (.amoSwpD d a b g)
  | 9 => .ok (.amoCasD d a b g)
  | 10 => .ok (.amoFaddF64 d a b g) | 11 => .ok (.amoTrigD d a b g)
  | _ => .error .unassignedFunction

/-- MAJ 0x17 (R101). -/
def decAmoW (d a b : SReg) (fn : Nat) (g : PReg) : Dec :=
  match fn with
  | 0 => .ok (.amoAddW d a b g) | 1 => .ok (.amoAndW d a b g) | 2 => .ok (.amoOrW d a b g)
  | 3 => .ok (.amoXorW d a b g) | 4 => .ok (.amoMinW d a b g) | 5 => .ok (.amoMaxW d a b g)
  | 6 => .ok (.amoMinnW d a b g) | 7 => .ok (.amoMaxnW d a b g) | 8 => .ok (.amoSwpW d a b g)
  | 9 => .ok (.amoCasW d a b g)
  | 10 => .ok (.amoFaddF32 d a b g)
  | _ => .error .unassignedFunction

/-- MAJ 0x1B (R104). -/
def decJump (d a b fn : Nat) (g : PReg) : Dec :=
  match fn with
  | 0 => zeros [d, b] (.ok (.jr (sreg a) g))
  | 1 => zeros [b] (.ok (.jalr (sreg d) (sreg a) g))
  | _ => .error .unassignedFunction

/-- The S3 majors (R101, R102, R104). -/
def decS3 (maj d a b fn g : Nat) : Dec :=
  match maj with
  | 0x00 => decAlu (sreg d) (sreg a) (sreg b) fn (preg g)
  | 0x01 => decBit (sreg d) (sreg a) b fn (preg g)
  | 0x0C => zeros [d / 8] (coded (Cc.ofCode fn) fun cc => .ok (.cmp cc (preg d) (sreg a) (sreg b) (preg g)))
  | 0x0E => zeros [d / 8, a / 8, b / 8, fn / 16]
      (.ok (.plog (preg d) (preg a) (preg b) (BitVec.ofNat 4 fn) (preg g)))
  | 0x0F => zeros [fn] (.ok (.sel (sreg d) (sreg a) (sreg b) (preg g)))
  | 0x15 => decLdx (sreg d) (sreg a) (sreg b) fn (preg g)
  | 0x16 => decAmoD (sreg d) (sreg a) (sreg b) fn (preg g)
  | 0x17 => decAmoW (sreg d) (sreg a) (sreg b) fn (preg g)
  | 0x1B => decJump d a b fn (preg g)
  | _ => .error .unassignedMajor

/-- The SI majors (R102, R119, R122, R123). -/
def decSI (maj d a imm g : Nat) : Dec :=
  match maj with
  | 0x02 => .ok (.addi (sreg d) (sreg a) (BitVec.ofNat 11 imm) (preg g))
  | 0x03 => .ok (.andi (sreg d) (sreg a) (BitVec.ofNat 11 imm) (preg g))
  | 0x04 => .ok (.ori (sreg d) (sreg a) (BitVec.ofNat 11 imm) (preg g))
  | 0x05 => .ok (.xori (sreg d) (sreg a) (BitVec.ofNat 11 imm) (preg g))
  | 0x06 => zeros [imm / 64] (.ok (.shli (sreg d) (sreg a) (Fin.ofNat 64 imm) (preg g)))
  | 0x07 => zeros [imm / 64] (.ok (.shri (sreg d) (sreg a) (Fin.ofNat 64 imm) (preg g)))
  | 0x08 => zeros [imm / 64] (.ok (.shai (sreg d) (sreg a) (Fin.ofNat 64 imm) (preg g)))
  | 0x09 => zeros [imm / 64] (.ok (.roti (sreg d) (sreg a) (Fin.ofNat 64 imm) (preg g)))
  | 0x0A => .ok (.lih (sreg d) (BitVec.ofNat 17 (a * 2048 + imm)) (preg g))
  | 0x0B => .ok (.addpc (sreg d) (BitVec.ofNat 17 (a * 2048 + imm)) (preg g))
  | 0x0D => coded (Cc.ofCode (d / 8)) fun cc => .ok (.cmpi cc (preg d) (sreg a) (BitVec.ofNat 11 imm) (preg g))
  | _ => .error .unassignedMajor

/-- The SM majors (R103). -/
def decSM (maj d a off la ord : Nat) : Dec :=
  match maj with
  | 0x10 => .ok (.ldD (sreg d) (sreg a) (BitVec.ofNat 8 off) (laOf la) (SmOrd.ofCode ord))
  | 0x11 => .ok (.ldW (sreg d) (sreg a) (BitVec.ofNat 8 off) (laOf la) (SmOrd.ofCode ord))
  | 0x12 => .ok (.ldWn (sreg d) (sreg a) (BitVec.ofNat 8 off) (laOf la) (SmOrd.ofCode ord))
  | 0x13 => .ok (.stD (sreg d) (sreg a) (BitVec.ofNat 8 off) (laOf la) (SmOrd.ofCode ord))
  | 0x14 => .ok (.stW (sreg d) (sreg a) (BitVec.ofNat 8 off) (laOf la) (SmOrd.ofCode ord))
  | _ => .error .unassignedMajor

/-- The BR majors (R104): j and jal reserve g and inv. -/
def decBR (maj g inv off : Nat) : Dec :=
  match maj with
  | 0x18 => .ok (.br (preg g) (inv == 1) (BitVec.ofNat 22 off))
  | 0x19 => zeros [g, inv] (.ok (.j (BitVec.ofNat 22 off)))
  | 0x1A => zeros [g, inv] (.ok (.jal (BitVec.ofNat 22 off)))
  | _ => .error .unassignedMajor

/-- The 32-bit form of a vector operation (R106). -/
def shortInstr (op : VOp) (ty : Ty) (d a b k : Nat) : Dec :=
  match op with
  | .vadd => .ok (.vadd ty (vreg d) (vreg a) (vreg b) (kreg k))
  | .vsub => .ok (.vsub ty (vreg d) (vreg a) (vreg b) (kreg k))
  | .vmul => .ok (.vmul ty (vreg d) (vreg a) (vreg b) (kreg k))
  | .vmulh => .ok (.vmulh ty (vreg d) (vreg a) (vreg b) (kreg k))
  | .vmin => .ok (.vmin ty (vreg d) (vreg a) (vreg b) (kreg k))
  | .vmax => .ok (.vmax ty (vreg d) (vreg a) (vreg b) (kreg k))
  | .vand => .ok (.vand ty (vreg d) (vreg a) (vreg b) (kreg k))
  | .vor => .ok (.vor ty (vreg d) (vreg a) (vreg b) (kreg k))
  | .vxor => .ok (.vxor ty (vreg d) (vreg a) (vreg b) (kreg k))
  | .vandn => .ok (.vandn ty (vreg d) (vreg a) (vreg b) (kreg k))
  | .vshl => .ok (.vshl ty (vreg d) (vreg a) (vreg b) (kreg k))
  | .vshr => .ok (.vshr ty (vreg d) (vreg a) (vreg b) (kreg k))
  | .vsha => .ok (.vsha ty (vreg d) (vreg a) (vreg b) (kreg k))
  | .vfma => .ok (.vfma ty (vreg d) (vreg a) (vreg b) (kreg k))
  | .vfms => .ok (.vfms ty (vreg d) (vreg a) (vreg b) (kreg k))
  | .vfnma => .ok (.vfnma ty (vreg d) (vreg a) (vreg b) (kreg k))
  | .vsel => .ok (.vsel ty (vreg d) (vreg a) (vreg b) (kreg k))
  | .vperm => .ok (.vperm ty (vreg d) (vreg a) (vreg b) (kreg k))
  | .vscl => .ok (.vscl ty (vreg d) (vreg a) (vreg b) (kreg k))
  | .vqnt => .ok (.vqnt ty (vreg d) (vreg a) (vreg b) (kreg k))
  | .vbin => .ok (.vbin ty (vreg d) (vreg a) (vreg b) (kreg k))
  | .vabs => zeros [b] (.ok (.vabs ty (vreg d) (vreg a) (kreg k)))
  | .vneg => zeros [b] (.ok (.vneg ty (vreg d) (vreg a) (kreg k)))
  | .vrcp => zeros [b] (.ok (.vrcp ty (vreg d) (vreg a) (kreg k)))
  | .vrsq => zeros [b] (.ok (.vrsq ty (vreg d) (vreg a) (kreg k)))
  | .vcompress => zeros [b] (.ok (.vcompress ty (vreg d) (vreg a) (kreg k)))
  | .vexpand => zeros [b] (.ok (.vexpand ty (vreg d) (vreg a) (kreg k)))
  | .vexpmax => zeros [b] (.ok (.vexpmax ty (vreg d) (vreg a) (kreg k)))
  | .vcmp cc => zeros [d / 8] (.ok (.vcmp cc ty (kreg d) (vreg a) (vreg b) (kreg k)))
  | .viota => zeros [a, b] (.ok (.viota ty (vreg d) (kreg k)))
  | .vcvt st => zeros [b / 16] (.ok (.vcvt ty st (vreg d) (vreg a) (kreg k)))
  | .vred op => zeros [b] (.ok (.vred op ty (vreg d) (vreg a) (kreg k)))
  | .vscan op => zeros [b] (.ok (.vscan op ty (vreg d) (vreg a) (kreg k)))
  | .kand => zeros [d / 8, a / 8, b / 8, k, ty.code] (.ok (.kand (kreg d) (kreg a) (kreg b)))
  | .kor => zeros [d / 8, a / 8, b / 8, k, ty.code] (.ok (.kor (kreg d) (kreg a) (kreg b)))
  | .kxor => zeros [d / 8, a / 8, b / 8, k, ty.code] (.ok (.kxor (kreg d) (kreg a) (kreg b)))
  | .kandn => zeros [d / 8, a / 8, b / 8, k, ty.code] (.ok (.kandn (kreg d) (kreg a) (kreg b)))
  | .kmov => zeros [d / 8, a / 8, b, k, ty.code] (.ok (.kmov (kreg d) (kreg a)))

/-- The V majors (R105, R106). -/
def decV (maj d a b k ty fn : Nat) : Dec :=
  match VOp.ofCode maj fn (Ty.ofCode false (b % 16)) with
  | none => .error .unassignedFunction
  | some op => coded (Ty.ofCode false ty) fun ty => shortInstr op ty d a b k

/-- The VM majors (R107, R98). -/
def decVM (maj d a k ty la am : Nat) : Dec :=
  coded (Ty.ofCode false ty) fun ty =>
  match maj, am with
  | 0x24, 0 => .ok (.vld ty (vreg d) (sreg a) (kreg k) (laOf la))
  | 0x24, 1 => .ok (.vldInc ty (vreg d) (sreg a) (kreg k) (laOf la))
  | 0x24, 2 => .ok (.vldRep ty (vreg d) (sreg a) (kreg k) (laOf la))
  | 0x25, 0 => .ok (.vst ty (vreg d) (sreg a) (kreg k) (laOf la))
  | 0x25, 1 => .ok (.vstInc ty (vreg d) (sreg a) (kreg k) (laOf la))
  | _, _ => .error .unassignedFunction

/-- MAJ 0x31 (R111). -/
def decTile (td va fmt x : Nat) : Dec :=
  match x with
  | 0 =>
    match fmt with
    | 0 => zeros [va] (.ok (.tzero (vreg td)))
    | 1 => .ok (.ttrn (vreg td) (vreg va))
    | 2 => zeros [va] (.ok (.modeM (vreg td)))
    | 3 => zeros [td, va] (.ok .modeV)
    | _ => .error .unassignedFunction
  | 1 => coded (Fmt.ofCode fmt) fun f => .ok (.tcvt f (vreg td) (vreg va))
  | _ => .error .unassignedFunction

/-- The T majors (R109, R111). -/
def decT (maj td va vb fmt la x : Nat) : Dec :=
  match maj with
  | 0x2C => zeros [x] (coded (Fmt.ofCode fmt) fun f => .ok (.mma f (vreg td) (vreg va) (vreg vb) (laOf la)))
  | 0x2D => zeros [x] (coded (Fmt.ofCode fmt) fun f => .ok (.mmas f (vreg td) (vreg va) (vreg vb) (laOf la)))
  | 0x2E => zeros [x] (coded (Fmt.ofCode fmt) fun f => .ok (.mmaq f (vreg td) (vreg va) (vreg vb) (laOf la)))
  | 0x31 => zeros [vb, la] (decTile td va fmt x)
  | _ => .error .unassignedMajor

/-- The tile memory majors (R110). -/
def decTM (maj td a rsv fmt la x : Nat) : Dec :=
  zeros [rsv, x] <|
  match maj with
  | 0x2F => coded (Fmt.ofCode fmt) fun f => .ok (.tld f (vreg td) (sreg a) (laOf la))
  | 0x30 => coded (Fmt.ofCode fmt) fun f => .ok (.tst f (vreg td) (sreg a) (laOf la))
  | _ => .error .unassignedMajor

/-- MAJ 0x26 (R108). -/
def decMove (fn a b imm : Nat) : Dec :=
  match fn with
  | 0 => zeros [b / 32, imm / 128] (coded (Ty.ofCode false (imm % 16)) fun ty =>
      .ok (.vbcast ty (vreg b) (sreg a) (kreg (imm / 16))))
  | 1 => zeros [imm / 16] (coded (Ty.ofCode false imm) fun ty => .ok (.vsetl ty (sreg a) (sreg b)))
  | 2 => zeros [b / 8, imm / 16] (coded (Ty.ofCode false imm) fun ty => .ok (.vpopk ty (sreg a) (kreg b)))
  | 3 => zeros [b / 8, imm / 16] (coded (Ty.ofCode false imm) fun ty => .ok (.vfirstk ty (sreg a) (kreg b)))
  | _ => .error .unassignedFunction

/-- The flags of a spawn: only bit 7 may be set (R215). -/
def decFlags (imm : Nat) (f : Bool → Instr) : Dec := zeros [imm % 128] (.ok (f (imm / 128 == 1)))

/-- MAJ 0x32 (R113). -/
def decTask (fn a b imm : Nat) : Dec :=
  match fn with
  | 0 => decFlags imm (.spawn (sreg a) (sreg b))
  | 1 => decFlags imm (.spawnc (sreg a) (sreg b))
  | 2 => decFlags imm (.callat (sreg a) (sreg b))
  | 3 => zeros [imm] (.ok (.sendm (sreg a) (sreg b)))
  | 4 => zeros [imm] (.ok (.reply (sreg a) (sreg b)))
  | 5 =>
    match imm with
    | 0 => zeros [a, b] (.ok .halt)
    | 1 => zeros [b] (.ok (.haltRetain (sreg a)))
    | _ => .error .reservedField
  | 6 => zeros [a, b, imm] (.ok .join)
  | 7 => zeros [b, imm] (.ok (.kill (sreg a)))
  | _ => .error .unassignedFunction

/-- MAJ 0x33 (R113). -/
def decHoist (fn a b imm : Nat) : Dec :=
  match fn with
  | 0 => zeros [b, imm] (.ok (.hoistOpen (sreg a)))
  | 1 => zeros [b, imm] (.ok (.waitq (sreg a)))
  | 2 => zeros [a, b, imm] (.ok .pborrow)
  | _ => .error .unassignedFunction

/-- MAJ 0x34 (R113). -/
def decView (fn a b imm : Nat) : Dec :=
  match fn with
  | 0 => coded (ViewOp.ofCode (imm / 8)) fun op => .ok (.viewDecl (kreg imm) (sreg a) (sreg b) op)
  | 1 => zeros [a, b, imm / 8] (.ok (.viewDrop (kreg imm)))
  | _ => .error .unassignedFunction

/-- MAJ 0x35 (R113). -/
def decSync (fn a b imm : Nat) : Dec :=
  match fn with
  | 0 => zeros [imm] (.ok (.barInit (sreg a) (sreg b)))
  | 1 => zeros [b, imm] (.ok (.barArv (sreg a)))
  | 2 => zeros [b, imm] (.ok (.barWait (sreg a)))
  | 3 => zeros [imm] (.ok (.sigAdd (sreg a) (sreg b)))
  | 4 => zeros [imm / 16] (coded (Cc.ofCode imm) fun cc => .ok (.sigWait cc (sreg a) (sreg b)))
  | _ => .error .unassignedFunction

/-- MAJ 0x36 (R113): the completion kind of apf lies from 0 to 2 (R239). -/
def decCopy (fn a b imm : Nat) : Dec :=
  match fn with
  | 0 => zeros [b, imm] (.ok (.acopy (sreg a)))
  | 1 => zeros [imm] (.ok (.acopyNb (sreg b) (sreg a)))
  | 2 => zeros [b, imm / 4] (.ok (.abind (greg imm) (sreg a)))
  | 3 =>
    match imm with
    | 0 => .ok (.apf (sreg a) (sreg b) 0)
    | 1 => .ok (.apf (sreg a) (sreg b) 1)
    | 2 => .ok (.apf (sreg a) (sreg b) 2)
    | _ => .error .illegalCode
  | _ => .error .unassignedFunction

/-- MAJ 0x37 (R113, R240). -/
def decFence (fn a b imm : Nat) : Dec :=
  match fn with
  | 0 => zeros [a, b, imm / 32] (coded (Scope.ofCode (imm % 8)) fun sc =>
      match imm / 8 % 4 with
      | 0 => .ok (.fenceAcq sc)
      | 1 => .ok (.fenceRel sc)
      | 2 => .ok (.fenceSc sc)
      | _ => .error .illegalCode)
  | _ => .error .unassignedFunction

/-- MAJ 0x38 (R113). -/
def decPkg (fn a b imm : Nat) : Dec :=
  match fn with
  | 0 => zeros [imm] (.ok (.handover (sreg a) (sreg b)))
  | 1 => zeros [imm] (.ok (.xinv (sreg a) (sreg b)))
  | _ => .error .unassignedFunction

/-- MAJ 0x39 (R113). -/
def decSys (fn a b imm : Nat) : Dec :=
  match fn with
  | 0 => zeros [b] (.ok (.mfc (sreg a) (BitVec.ofNat 8 imm)))
  | 1 => zeros [b] (.ok (.mtc (sreg a) (BitVec.ofNat 8 imm)))
  | 2 => zeros [a, b] (.ok (.trap (BitVec.ofNat 8 imm)))
  | 3 => zeros [a, b, imm] (.ok .eret)
  | 4 => zeros [a, b, imm] (.ok .yield)
  | 5 => zeros [a, b] (.ok (.brk (BitVec.ofNat 8 imm)))
  | _ => .error .unassignedFunction

/-- The X majors (R108, R113, R89). -/
def decX (maj fn a b imm : Nat) : Dec :=
  match maj with
  | 0x26 => decMove fn a b imm
  | 0x32 => decTask fn a b imm
  | 0x33 => decHoist fn a b imm
  | 0x34 => decView fn a b imm
  | 0x35 => decSync fn a b imm
  | 0x36 => decCopy fn a b imm
  | 0x37 => decFence fn a b imm
  | 0x38 => decPkg fn a b imm
  | 0x39 => decSys fn a b imm
  | 0x3A => zeros [fn, a, b, imm] (.ok .nop)
  | _ => .error .unassignedMajor

/-- The formats of the majors (R90, R100). -/
inductive Format where
  | s3 | si | sm | br | v | vm | t | tm | x | l | illegal
deriving DecidableEq, Repr

/-- The format of a major opcode (R100). -/
def formatOf (maj : Nat) : Format :=
  match maj with
  | 0x00 | 0x01 | 0x0C | 0x0E | 0x0F | 0x15 | 0x16 | 0x17 | 0x1B => .s3
  | 0x02 | 0x03 | 0x04 | 0x05 | 0x06 | 0x07 | 0x08 | 0x09 | 0x0A | 0x0B | 0x0D => .si
  | 0x10 | 0x11 | 0x12 | 0x13 | 0x14 => .sm
  | 0x18 | 0x19 | 0x1A => .br
  | 0x1C | 0x1D | 0x1E | 0x1F | 0x20 | 0x21 | 0x22 | 0x23 => .v
  | 0x24 | 0x25 => .vm
  | 0x2C | 0x2D | 0x2E | 0x31 => .t
  | 0x2F | 0x30 => .tm
  | 0x26 | 0x32 | 0x33 | 0x34 | 0x35 | 0x36 | 0x37 | 0x38 | 0x39 | 0x3A => .x
  | 0x3F => .l
  | _ => .illegal

/-- The instruction a 32-bit word names, before the operand checks. The all-zero word names none (R89). -/
def decodeWord (w : Nat) : Dec :=
  if w = 0 then .error .unassignedFunction
  else
    let maj := w / 2 ^ 26
    match formatOf maj with
    | .s3 => match unpackBits layS3 w with
      | [_, d, a, b, fn, g] => decS3 maj d a b fn g
      | _ => .error .truncated
    | .si => match unpackBits laySI w with
      | [_, d, a, imm, g] => decSI maj d a imm g
      | _ => .error .truncated
    | .sm => match unpackBits laySM w with
      | [_, d, a, off, la, ord] => decSM maj d a off la ord
      | _ => .error .truncated
    | .br => match unpackBits layBR w with
      | [_, g, inv, off] => decBR maj g inv off
      | _ => .error .truncated
    | .v => match unpackBits layV w with
      | [_, d, a, b, k, ty, fn] => decV maj d a b k ty fn
      | _ => .error .truncated
    | .vm => match unpackBits layVM w with
      | [_, d, a, k, ty, la, am] => decVM maj d a k ty la am
      | _ => .error .truncated
    | .t => match unpackBits layT w with
      | [_, td, va, vb, fmt, la, x] => decT maj td va vb fmt la x
      | _ => .error .truncated
    | .tm => match unpackBits layTM w with
      | [_, td, a, rsv, fmt, la, x] => decTM maj td a rsv fmt la x
      | _ => .error .truncated
    | .x => match unpackBits layX w with
      | [_, fn, a, b, imm] => decX maj fn a b imm
      | _ => .error .truncated
    | .l => .error .truncated
    | .illegal => .error .unassignedMajor

/-- The memory extension (R115). R129 guards a long load or store with p0 to p3, while R91 gives a long form whose 32-bit counterpart has
no guard field g = 00: R129 is followed (DEDUCED, log 66). -/
def decLongMem (store : Bool) (d a g w1 : Nat) : Dec :=
  match unpackBits layMem w1 with
  | [la, sc, ord, size, off] =>
    coded (Scope.ofCode sc) fun sc => coded (MemOrd.ofCode ord) fun ord => coded (MemSize.ofCode size) fun size =>
      .ok (if store then .stLong size (sreg d) (sreg a) (BitVec.ofNat 19 off) (laOf la) sc ord (greg g)
        else .ldLong size (sreg d) (sreg a) (BitVec.ofNat 19 off) (laOf la) sc ord (greg g))
  | _ => .error .truncated

/-- The atomic extension (R115). -/
def decLongAmo (d a b g w1 : Nat) : Dec :=
  match unpackBits layAmo w1 with
  | [op, sc, ord, half, n, rsv] =>
    zeros [rsv] (coded (AmoOp.ofCode op) fun op => coded (Scope.ofCode sc) fun sc => coded (MemOrd.ofCode ord) fun ord =>
      .ok (if n == 1 then .amoNtf op (half == 1) (sreg d) (sreg a) (sreg b) sc ord (greg g)
        else .amoLong op (half == 1) (sreg d) (sreg a) (sreg b) sc ord (greg g)))
  | _ => .error .truncated

/-- The vector extension (R115, R116, R171, R172): the residue and source-type fields are reserved but in vcvt,
and W names bs64 only under ty 15. -/
def decLongVec (d a b w1 : Nat) : Dec :=
  match unpackBits layVec w1 with
  | [mj, fn, ty, k, rc, wide, rfb, res, st, rsv] =>
    zeros [rsv] (coded (Rc.ofCode rc) fun rc =>
    reg (vregOf d) fun d => reg (VSrc.ofCode a) fun a =>
    if wide == 1 && ty != 15 then .error .illegalCode
    else if rfb == 1 then
      if mj == 0x20 && fn == 0 then
        zeros [b, wide] (coded (Ty.ofCode false ty) fun dt => coded (Ty.ofCode false st) fun st =>
          .ok (.vcvtRfb dt st d a (vreg res) (kreg k) rc))
      else .error .reservedField
    else zeros [res] (reg (VSrc.ofCode b) fun b =>
      if mj == 0x20 && fn == 0 && st == 15 then
        if rc == .fixed .rne then
          zeros [wide] (coded (Ty.ofCode false ty) fun dt => .ok (.vcvtBs dt d a b (kreg k)))
        else .error .illegalCode
      else if !(mj == 0x20 && fn == 0) && st != 0 then .error .reservedField
      else
        match VOp.ofCode mj fn (Ty.ofCode false st) with
        | none => .error .unassignedFunction
        | some op => coded (Ty.ofCode (wide == 1) ty) fun ty => .ok (.vectorOpLong op ty d a b (kreg k) rc)))
  | _ => .error .truncated

/-- The vector memory extension (R115, R179). -/
def decLongVMem (d a b w1 : Nat) : Dec :=
  match unpackBits layVMem w1 with
  | [kind, ty, k, la, am, off] =>
    coded (Ty.ofCode false ty) fun ty => coded (Am.ofCode am) fun mode =>
      match kind with
      | 0 => zeros [b] (reg (VSrc.ofCode d) fun d =>
          .ok (.vmemLong false mode ty d (sreg a) (BitVec.ofNat 14 off) (kreg k) (laOf la)))
      | 1 => zeros [b] (reg (VSrc.ofCode d) fun d =>
          .ok (.vmemLong true mode ty d (sreg a) (BitVec.ofNat 14 off) (kreg k) (laOf la)))
      | 2 => zeros [am] (reg (vregOf d) fun d =>
          .ok (.vlds ty d (sreg a) (sreg b) (BitVec.ofNat 14 off) (kreg k) (laOf la)))
      | 3 => zeros [am] (reg (VSrc.ofCode d) fun d =>
          .ok (.vsts ty d (sreg a) (sreg b) (BitVec.ofNat 14 off) (kreg k) (laOf la)))
      | 4 => zeros [am] (reg (vregOf d) fun d => reg (vregOf b) fun vi =>
          .ok (.vldx ty d (sreg a) vi (BitVec.ofNat 14 off) (kreg k) (laOf la)))
      | 5 => zeros [am] (reg (VSrc.ofCode d) fun d => reg (vregOf b) fun vi =>
          .ok (.vstx ty d (sreg a) vi (BitVec.ofNat 14 off) (kreg k) (laOf la)))
      | _ => .error .illegalCode
  | _ => .error .truncated

/-- The lane extension (R115, R169): vins and vext take no mask (R155). -/
def decLongLane (d a b w1 : Nat) : Dec :=
  match unpackBits layLane w1 with
  | [fn, ty, k, rsv] =>
    zeros [rsv] (coded (Ty.ofCode false ty) fun ty =>
      match fn with
      | 0 => reg (vregOf d) fun d => reg (VSrc.ofCode a) fun a => .ok (.vslideUp ty d a (sreg b) (kreg k))
      | 1 => reg (vregOf d) fun d => reg (VSrc.ofCode a) fun a => .ok (.vslideDn ty d a (sreg b) (kreg k))
      | 2 => zeros [k] (reg (vregOf d) fun d => .ok (.vins ty d (sreg a) (sreg b)))
      | 3 => zeros [k] (reg (VSrc.ofCode a) fun a => .ok (.vext ty (sreg d) a (sreg b)))
      | _ => .error .unassignedFunction)
  | _ => .error .truncated

/-- The matrix extension (R115). -/
def decLongMat (d a b w1 : Nat) : Dec :=
  match unpackBits layMat w1 with
  | [fn, fmt, la, third, rsv] =>
    zeros [rsv] (coded (Fmt.ofCode fmt) fun f => reg (vregOf d) fun td =>
      match fn with
      | 0 => reg (vregOf a) fun va => reg (vregOf b) fun vb => .ok (.mmag f td va vb (vreg third) (laOf la))
      | 1 => zeros [b] (.ok (.tscat f td (sreg a) (vreg third) (laOf la)))
      | 2 => zeros [third] (.ok (.tldStrided f td (sreg a) (sreg b) (laOf la)))
      | 3 => zeros [third] (.ok (.tstStrided f td (sreg a) (sreg b) (laOf la)))
      | _ => .error .unassignedFunction)
  | _ => .error .truncated

/-- A long form by its sub code (R114). The vector and matrix forms carry g = 00 (R116). -/
def decLong (sub d a b g w1 : Nat) : Dec :=
  match sub with
  | 0x00 => zeros [a, b] (.ok (.movi (sreg d) (BitVec.ofNat 32 w1) (greg g)))
  | 0x01 => zeros [b] (.ok (.addiLong (sreg d) (sreg a) (BitVec.ofNat 32 w1) (greg g)))
  | 0x02 => zeros [b] (.ok (.andiLong (sreg d) (sreg a) (BitVec.ofNat 32 w1) (greg g)))
  | 0x03 => zeros [b] (.ok (.oriLong (sreg d) (sreg a) (BitVec.ofNat 32 w1) (greg g)))
  | 0x04 => zeros [b] (.ok (.xoriLong (sreg d) (sreg a) (BitVec.ofNat 32 w1) (greg g)))
  | 0x05 => zeros [d / 8, b / 16] (coded (Cc.ofCode b) fun cc =>
      .ok (.cmpiLong cc (preg d) (sreg a) (BitVec.ofNat 32 w1) (greg g)))
  | 0x08 => zeros [b] (decLongMem false d a g w1)
  | 0x09 => zeros [b] (decLongMem true d a g w1)
  | 0x0A => decLongAmo d a b g w1
  | 0x0B => zeros [b / 4] (.ok (.ldp (sreg d) (greg b) (sreg a) (BitVec.ofNat 32 w1) (greg g)))
  | 0x10 => zeros [g] (decLongVec d a b w1)
  | 0x11 => zeros [g] (decLongVMem d a b w1)
  | 0x12 => zeros [g] (decLongLane d a b w1)
  | 0x18 => zeros [g] (decLongMat d a b w1)
  | _ => .error .unassignedFunction

/-- A word of MAJ 0x3F is word 0 of a long form (R86). -/
def isLong (w0 : Nat) : Bool := w0 / 2 ^ 26 == 0x3F

/-- Keep only what the operand checks admit. -/
def checked (x : Dec) : Dec :=
  match x with
  | .ok i => match i.check with
    | none => .ok i
    | some e => .error (.notWellFormed e)
  | .error e => .error e

/-- The instruction of a word, or of a pair of words (R87). -/
def decode (w0 : Nat) (w1 : Option Nat) : Dec :=
  checked <|
    if isLong w0 then
      match w1, unpackBits layL w0 with
      | some w1, [_, sub, d, a, b, g] => decLong sub d a b g w1
      | _, _ => .error .truncated
    else decodeWord w0

/-- The bytes an instruction takes (R86). -/
def lengthOf (w0 : Nat) : Nat := if isLong w0 then 8 else 4

/-- The little-endian value of a list of bytes (R16). -/
def leNat : List Byte → Nat
  | [] => 0
  | b :: bs => b.toNat + 256 * leNat bs

/-- The little-endian bytes of a value (R16). -/
def leBytes : (n : Nat) → Nat → List Byte
  | 0, _ => []
  | n + 1, x => BitVec.ofNat 8 x :: leBytes n (x / 256)

/-- Decoding of any bytes: the instruction at their start and the bytes that follow it. -/
def decodeBytes (bs : List Byte) : Except DecodeErr (Instr × List Byte) :=
  if bs.length < 4 then .error .truncated
  else
    let w0 := leNat (bs.take 4)
    let n := lengthOf w0
    if bs.length < n then .error .truncated
    else
      match decode w0 (if n = 8 then some (leNat ((bs.drop 4).take 4)) else none) with
      | .ok i => .ok (i, bs.drop n)
      | .error e => .error e

/-- The instruction the decoder reads from the bits `w` of an opcode-table row of `nbits` bits. -/
def decodeTableWord (nbits w : Nat) : Option Instr :=
  match decodeBytes (leBytes 8 (w % 2 ^ nbits)) with
  | .ok (i, _) => some i
  | .error _ => none

/-! ### Encoding -/

/-- Words of each format. -/
def s3 (maj d a b fn g : Nat) : List Nat := [packBits layS3 [maj, d, a, b, fn, g]]
def si (maj d a imm g : Nat) : List Nat := [packBits laySI [maj, d, a, imm, g]]
def sm (maj d a off la ord : Nat) : List Nat := [packBits laySM [maj, d, a, off, la, ord]]
def br (maj g inv off : Nat) : List Nat := [packBits layBR [maj, g, inv, off]]
def vw (op : VOp) (ty : Ty) (d a b k : Nat) : List Nat := [packBits layV [op.mj, d, a, b, k, ty.code, op.fn]]
def vm (maj d a k ty la am : Nat) : List Nat := [packBits layVM [maj, d, a, k, ty, la, am]]
def tw (maj td va vb fmt la x : Nat) : List Nat := [packBits layT [maj, td, va, vb, fmt, la, x]]
def tm (maj td a fmt la : Nat) : List Nat := [packBits layTM [maj, td, a, 0, fmt, la, 0]]
def xw (maj fn a b imm : Nat) : List Nat := [packBits layX [maj, fn, a, b, imm]]
def lw (sub d a b g w1 : Nat) : List Nat := [packBits layL [0x3F, sub, d, a, b, g], w1]

/-- Extension words (R115). -/
def memExt (la : Nat) (sc : Scope) (ord : MemOrd) (size : MemSize) (off : BitVec 19) : Nat :=
  packBits layMem [la, sc.code, ord.code, size.code, off.toNat]
def amoExt (op : AmoOp) (sc : Scope) (ord : MemOrd) (half : Bool) (n : Nat) : Nat :=
  packBits layAmo [op.code, sc.code, ord.code, cond half 1 0, n, 0]
def vecExt (op : VOp) (ty : Ty) (k : Nat) (rc : Rc) (rfb res : Nat) : Nat :=
  packBits layVec [op.mj, op.fn, ty.code, k, rc.code, cond (ty == .bs64) 1 0, rfb, res,
    (match op with | .vcvt st => st.code | _ => 0), 0]
def vmemExt (kind : Nat) (ty : Ty) (k la am : Nat) (off : BitVec 14) : Nat :=
  packBits layVMem [kind, ty.code, k, la, am, off.toNat]
def laneExt (fn : Nat) (ty : Ty) (k : Nat) : Nat := packBits layLane [fn, ty.code, k, 0]
def matExt (fn : Nat) (fmt : Fmt) (la third : Nat) : Nat := packBits layMat [fn, fmt.code, la, third, 0]

/-- The words of an instruction: one, two for a long form, none for an event, which no word names. -/
def encode (i : Instr) : List Nat :=
  match i with
  | .add d a b g => s3 0x00 d a b 0 g
  | .sub d a b g => s3 0x00 d a b 1 g
  | .mul d a b g => s3 0x00 d a b 2 g
  | .mulh d a b g => s3 0x00 d a b 3 g
  | .mulhn d a b g => s3 0x00 d a b 4 g
  | .div d a b g => s3 0x00 d a b 5 g
  | .divn d a b g => s3 0x00 d a b 6 g
  | .rem d a b g => s3 0x00 d a b 7 g
  | .remn d a b g => s3 0x00 d a b 8 g
  | .and d a b g => s3 0x00 d a b 9 g
  | .or d a b g => s3 0x00 d a b 10 g
  | .xor d a b g => s3 0x00 d a b 11 g
  | .shl d a b g => s3 0x00 d a b 12 g
  | .shr d a b g => s3 0x00 d a b 13 g
  | .sha d a b g => s3 0x00 d a b 14 g
  | .rot d a b g => s3 0x00 d a b 15 g
  | .min d a b g => s3 0x00 d a b 16 g
  | .max d a b g => s3 0x00 d a b 17 g
  | .minn d a b g => s3 0x00 d a b 18 g
  | .maxn d a b g => s3 0x00 d a b 19 g
  | .lea d a b sh g => s3 0x00 d a b (20 + sh) g
  | .clz d a g => s3 0x01 d a 0 0 g
  | .ctz d a g => s3 0x01 d a 0 1 g
  | .popc d a g => s3 0x01 d a 0 2 g
  | .brev d a g => s3 0x01 d a 0 3 g
  | .bext d a b g => s3 0x01 d a b 4 g
  | .bins d a b g => s3 0x01 d a b 5 g
  | .addi d a imm g => si 0x02 d a imm.toNat g
  | .andi d a imm g => si 0x03 d a imm.toNat g
  | .ori d a imm g => si 0x04 d a imm.toNat g
  | .xori d a imm g => si 0x05 d a imm.toNat g
  | .shli d a amount g => si 0x06 d a amount g
  | .shri d a amount g => si 0x07 d a amount g
  | .shai d a amount g => si 0x08 d a amount g
  | .roti d a amount g => si 0x09 d a amount g
  | .lih d imm g => si 0x0A d (imm.toNat / 2048) (imm.toNat % 2048) g
  | .addpc d imm g => si 0x0B d (imm.toNat / 2048) (imm.toNat % 2048) g
  | .cmp cc pd a b g => s3 0x0C pd a b cc.code g
  | .cmpi cc pd a imm g => si 0x0D (cc.code * 8 + pd) a imm.toNat g
  | .plog pd pa pb tt g => s3 0x0E pd pa pb tt.toNat g
  | .sel d a b pc => s3 0x0F d a b 0 pc
  | .ldD d a off la ord => sm 0x10 d a off.toNat la ord.code
  | .ldW d a off la ord => sm 0x11 d a off.toNat la ord.code
  | .ldWn d a off la ord => sm 0x12 d a off.toNat la ord.code
  | .stD d a off la ord => sm 0x13 d a off.toNat la ord.code
  | .stW d a off la ord => sm 0x14 d a off.toNat la ord.code
  | .ldxB d a b g => s3 0x15 d a b 0 g
  | .ldxBn d a b g => s3 0x15 d a b 1 g
  | .ldxH d a b g => s3 0x15 d a b 2 g
  | .ldxHn d a b g => s3 0x15 d a b 3 g
  | .ldxW d a b g => s3 0x15 d a b 4 g
  | .ldxWn d a b g => s3 0x15 d a b 5 g
  | .ldxD d a b g => s3 0x15 d a b 6 g
  | .amoAddD d a b g => s3 0x16 d a b 0 g
  | .amoAndD d a b g => s3 0x16 d a b 1 g
  | .amoOrD d a b g => s3 0x16 d a b 2 g
  | .amoXorD d a b g => s3 0x16 d a b 3 g
  | .amoMinD d a b g => s3 0x16 d a b 4 g
  | .amoMaxD d a b g => s3 0x16 d a b 5 g
  | .amoMinnD d a b g => s3 0x16 d a b 6 g
  | .amoMaxnD d a b g => s3 0x16 d a b 7 g
  | .amoSwpD d a b g => s3 0x16 d a b 8 g
  | .amoCasD d a b g => s3 0x16 d a b 9 g
  | .amoFaddF64 d a b g => s3 0x16 d a b 10 g
  | .amoTrigD d a b g => s3 0x16 d a b 11 g
  | .amoAddW d a b g => s3 0x17 d a b 0 g
  | .amoAndW d a b g => s3 0x17 d a b 1 g
  | .amoOrW d a b g => s3 0x17 d a b 2 g
  | .amoXorW d a b g => s3 0x17 d a b 3 g
  | .amoMinW d a b g => s3 0x17 d a b 4 g
  | .amoMaxW d a b g => s3 0x17 d a b 5 g
  | .amoMinnW d a b g => s3 0x17 d a b 6 g
  | .amoMaxnW d a b g => s3 0x17 d a b 7 g
  | .amoSwpW d a b g => s3 0x17 d a b 8 g
  | .amoCasW d a b g => s3 0x17 d a b 9 g
  | .amoFaddF32 d a b g => s3 0x17 d a b 10 g
  | .br g inv off => br 0x18 g (cond inv 1 0) off.toNat
  | .j off => br 0x19 0 0 off.toNat
  | .jal off => br 0x1A 0 0 off.toNat
  | .jr a g => s3 0x1B 0 a 0 0 g
  | .jalr d a g => s3 0x1B d a 0 1 g
  | .vadd ty d a b k => vw .vadd ty d a b k
  | .vsub ty d a b k => vw .vsub ty d a b k
  | .vmul ty d a b k => vw .vmul ty d a b k
  | .vmulh ty d a b k => vw .vmulh ty d a b k
  | .vmin ty d a b k => vw .vmin ty d a b k
  | .vmax ty d a b k => vw .vmax ty d a b k
  | .vand ty d a b k => vw .vand ty d a b k
  | .vor ty d a b k => vw .vor ty d a b k
  | .vxor ty d a b k => vw .vxor ty d a b k
  | .vandn ty d a b k => vw .vandn ty d a b k
  | .vshl ty d a b k => vw .vshl ty d a b k
  | .vshr ty d a b k => vw .vshr ty d a b k
  | .vsha ty d a b k => vw .vsha ty d a b k
  | .vabs ty d a k => vw .vabs ty d a 0 k
  | .vneg ty d a k => vw .vneg ty d a 0 k
  | .vfma ty d a b k => vw .vfma ty d a b k
  | .vfms ty d a b k => vw .vfms ty d a b k
  | .vfnma ty d a b k => vw .vfnma ty d a b k
  | .vrcp ty d a k => vw .vrcp ty d a 0 k
  | .vrsq ty d a k => vw .vrsq ty d a 0 k
  | .vcmp cc ty kd a b k => vw (.vcmp cc) ty kd a b k
  | .vsel ty d a b k => vw .vsel ty d a b k
  | .viota ty d k => vw .viota ty d 0 0 k
  | .vcompress ty d a k => vw .vcompress ty d a 0 k
  | .vexpand ty d a k => vw .vexpand ty d a 0 k
  | .vperm ty d a b k => vw .vperm ty d a b k
  | .vcvt dt st d a k => vw (.vcvt st) dt d a st.code k
  | .vscl ty d a b k => vw .vscl ty d a b k
  | .vqnt ty d a b k => vw .vqnt ty d a b k
  | .vexpmax ty d a k => vw .vexpmax ty d a 0 k
  | .vbin ty d a b k => vw .vbin ty d a b k
  | .vred op ty d a k => vw (.vred op) ty d a 0 k
  | .vscan op ty d a k => vw (.vscan op) ty d a 0 k
  | .kand d a b => vw .kand .i8 d a b 0
  | .kor d a b => vw .kor .i8 d a b 0
  | .kxor d a b => vw .kxor .i8 d a b 0
  | .kandn d a b => vw .kandn .i8 d a b 0
  | .kmov d a => vw .kmov .i8 d a 0 0
  | .vld ty d a k la => vm 0x24 d a k ty.code la 0
  | .vldInc ty d a k la => vm 0x24 d a k ty.code la 1
  | .vldRep ty d a k la => vm 0x24 d a k ty.code la 2
  | .vst ty d a k la => vm 0x25 d a k ty.code la 0
  | .vstInc ty d a k la => vm 0x25 d a k ty.code la 1
  | .vbcast ty d a k => xw 0x26 0 a d (k * 16 + ty.code)
  | .vsetl ty d a => xw 0x26 1 d a ty.code
  | .vpopk ty d k => xw 0x26 2 d k ty.code
  | .vfirstk ty d k => xw 0x26 3 d k ty.code
  | .mma fmt td va vb la => tw 0x2C td va vb fmt.code la 0
  | .mmas fmt td va vb la => tw 0x2D td va vb fmt.code la 0
  | .mmaq fmt td va vb la => tw 0x2E td va vb fmt.code la 0
  | .tld fmt td a la => tm 0x2F td a fmt.code la
  | .tst fmt td a la => tm 0x30 td a fmt.code la
  | .tzero td => tw 0x31 td 0 0 0 0 0
  | .ttrn td ta => tw 0x31 td ta 0 1 0 0
  | .modeM n1 => tw 0x31 n1 0 0 2 0 0
  | .modeV => tw 0x31 0 0 0 3 0 0
  | .tcvt fmt td ta => tw 0x31 td ta 0 fmt.code 0 1
  | .spawn a b bank => xw 0x32 0 a b (cond bank 128 0)
  | .spawnc a b bank => xw 0x32 1 a b (cond bank 128 0)
  | .callat a b bank => xw 0x32 2 a b (cond bank 128 0)
  | .sendm a b => xw 0x32 3 a b 0
  | .reply a b => xw 0x32 4 a b 0
  | .halt => xw 0x32 5 0 0 0
  | .haltRetain a => xw 0x32 5 a 0 1
  | .join => xw 0x32 6 0 0 0
  | .kill a => xw 0x32 7 a 0 0
  | .hoistOpen a => xw 0x33 0 a 0 0
  | .waitq a => xw 0x33 1 a 0 0
  | .pborrow => xw 0x33 2 0 0 0
  | .viewDecl vid a b op => xw 0x34 0 a b (op.code * 8 + vid)
  | .viewDrop vid => xw 0x34 1 0 0 vid
  | .barInit a b => xw 0x35 0 a b 0
  | .barArv a => xw 0x35 1 a 0 0
  | .barWait a => xw 0x35 2 a 0 0
  | .sigAdd a b => xw 0x35 3 a b 0
  | .sigWait cc a b => xw 0x35 4 a b cc.code
  | .acopy a => xw 0x36 0 a 0 0
  | .acopyNb b a => xw 0x36 1 a b 0
  | .abind q a => xw 0x36 2 a 0 q
  | .apf a b c => xw 0x36 3 a b c
  | .fenceAcq sc => xw 0x37 0 0 0 (0 * 8 + sc.code)
  | .fenceRel sc => xw 0x37 0 0 0 (1 * 8 + sc.code)
  | .fenceSc sc => xw 0x37 0 0 0 (2 * 8 + sc.code)
  | .handover a b => xw 0x38 0 a b 0
  | .xinv a b => xw 0x38 1 a b 0
  | .mfc a creg => xw 0x39 0 a 0 creg.toNat
  | .mtc a creg => xw 0x39 1 a 0 creg.toNat
  | .trap n => xw 0x39 2 0 0 n.toNat
  | .eret => xw 0x39 3 0 0 0
  | .yield => xw 0x39 4 0 0 0
  | .brk n => xw 0x39 5 0 0 n.toNat
  | .nop => xw 0x3A 0 0 0 0
  | .movi d imm g => lw 0x00 d 0 0 g imm.toNat
  | .addiLong d a imm g => lw 0x01 d a 0 g imm.toNat
  | .andiLong d a imm g => lw 0x02 d a 0 g imm.toNat
  | .oriLong d a imm g => lw 0x03 d a 0 g imm.toNat
  | .xoriLong d a imm g => lw 0x04 d a 0 g imm.toNat
  | .cmpiLong cc pd a imm g => lw 0x05 pd a cc.code g imm.toNat
  | .ldLong size d a off la sc ord g => lw 0x08 d a 0 g (memExt la sc ord size off)
  | .stLong size d a off la sc ord g => lw 0x09 d a 0 g (memExt la sc ord size off)
  | .amoLong op half d a b sc ord g => lw 0x0A d a b g (amoExt op sc ord half 0)
  | .amoNtf op half d a b sc ord g => lw 0x0A d a b g (amoExt op sc ord half 1)
  | .ldp d w a imm g => lw 0x0B d a w g imm.toNat
  | .vectorOpLong op ty d a b k rc => lw 0x10 d a.code b.code 0 (vecExt op ty k rc 0 0)
  | .vcvtRfb dt st d a vr k rc => lw 0x10 d a.code 0 0 (vecExt (.vcvt st) dt k rc 1 vr)
  | .vcvtBs dt d a b k => lw 0x10 d a.code b.code 0 (vecExt (.vcvt .bs32) dt k (.fixed .rne) 0 0)
  | .vmemLong st am ty d a off k la => lw 0x11 d.code a 0 0 (vmemExt (cond st 1 0) ty k la am.code off)
  | .vlds ty d a b off k la => lw 0x11 d a b 0 (vmemExt 2 ty k la 0 off)
  | .vsts ty d a b off k la => lw 0x11 d.code a b 0 (vmemExt 3 ty k la 0 off)
  | .vldx ty d a vi off k la => lw 0x11 d a vi 0 (vmemExt 4 ty k la 0 off)
  | .vstx ty d a vi off k la => lw 0x11 d.code a vi 0 (vmemExt 5 ty k la 0 off)
  | .vslideUp ty d a b k => lw 0x12 d a.code b 0 (laneExt 0 ty k)
  | .vslideDn ty d a b k => lw 0x12 d a.code b 0 (laneExt 1 ty k)
  | .vins ty d a b => lw 0x12 d a b 0 (laneExt 2 ty 0)
  | .vext ty d a b => lw 0x12 d a.code b 0 (laneExt 3 ty 0)
  | .mmag fmt td va vb vl la => lw 0x18 td va vb 0 (matExt 0 fmt la vl)
  | .tscat fmt td a vi la => lw 0x18 td a 0 0 (matExt 1 fmt la vi)
  | .tldStrided fmt td a b la => lw 0x18 td a b 0 (matExt 2 fmt la 0)
  | .tstStrided fmt td a b la => lw 0x18 td a b 0 (matExt 3 fmt la 0)
  | .longLatencyCompletion .. => []
  | .agingCycle .. => []
  | .yieldExpiry .. => []
  | .gridAcquire .. => []
  | .upcallEntry .. => []
  | .copyCompletionDelivery .. => []
  | .messageArrival .. => []
  | .fabricStopAccept .. => []
  | .taskStart .. => []
  | .taskRestore .. => []
  | .quantumEnd .. => []
  | .contextSave .. => []
  | .borrowStep .. => []
  | .borrowGrantArrival .. => []
  | .weightReturn .. => []
  | .notificationTask .. => []
  | .hostBarrierDoorbell .. => []
  | .peerBarrierArrival .. => []
  | .mergeStep .. => []
  | .engineTakeRequest .. => []
  | .engineLineTransfer .. => []
  | .copyCompletion .. => []
  | .engineFault .. => []
  | .engineRetry .. => []
  | .engineMonitorFire .. => []
  | .translationWalk .. => []
  | .monitorFire .. => []
  | .lineRecall .. => []
  | .invalidationArrival .. => []
  | .invalidationAck .. => []
  | .invalidationDone .. => []
  | .weightStoreRefresh => []
  | .queueDoorbell .. => []
  | .slotIdleTimeout .. => []
  | .commandFetch .. => []
  | .cmdNop .. => []
  | .cmdLaunch .. => []
  | .cmdWait .. => []
  | .waitSatisfied .. => []
  | .cmdSignal .. => []
  | .cmdMsg .. => []
  | .cmdWsload .. => []
  | .wsloadComplete .. => []
  | .cmdXinv .. => []
  | .cmdResume .. => []
  | .cmdKill .. => []
  | .cmdUnpin .. => []
  | .cmdDec .. => []
  | .commandAccessRetry .. => []
  | .depRelease .. => []
  | .launchAcceptance .. => []
  | .launchStartReport .. => []
  | .launchCompletion .. => []
  | .queueMessageDelivery .. => []
  | .msixInterrupt .. => []
  | .retainedPartitionReclaim .. => []
  | .semaphoreRead .. => []
  | .semaphoreWrite .. => []
  | .memoryWindowAccess .. => []
  | .ueTransfer .. => []
  | .ueTransferComplete .. => []
  | .ualinkTimeout .. => []
  | .ptpDiscipline .. => []
  | .speedPublication => []
  | .measurementStart .. => []
  | .measurementEnd .. => []
  | .operatingPointControl .. => []
  | .correctedError .. => []
  | .uncorrectableError .. => []
  | .marginMonitorFire .. => []
  | .patrolScrub .. => []
  | .logOverflowRecord .. => []
  | .logLineFlush .. => []
  | .sample .. => []
  | .dbgHalt .. => []
  | .dbgRun .. => []
  | .dbgData .. => []
  | .dbgStatClear .. => []
  | .watchpointWrite .. => []
  | .breakpointMatch .. => []
  | .watchpointHit => []
  | .dip .. => []
  | .dipRelay .. => []
  | .containerLoad .. => []
  | .bootRetry => []
  | .packageReset => []
  | .portReset .. => []
  | .launchAbort .. => []
  | .abortNotice .. => []
  | .registerWrite .. => []
  | .illegalWord .. => []
  | .ualinkPeerAccess .. => []
  | .incomingTransfer .. => []
  | .linkCreditReturn .. => []
  | .handoverArrival .. => []
  | .killAcknowledgement .. => []
  | .queueEnCleared .. => []

/-- The bytes of an instruction. -/
def encodeBytes (i : Instr) : List Byte := ((encode i).map (leBytes 4)).flatten

/-- Word 0 of an instruction, for UPC_ADDR of ILLEGAL (R334); 0 for an event. -/
def word0 (i : Instr) : Nat := (encode i).headD 0

end Sys2Proof
end

