-- ==== Sys2Proof/Machine/Tab.lean ====
section
/-! DEFINITION. Sparse tables: lists of (key, value) in rising key order. A key without an entry reads as the
value its reader gives. -/

namespace Sys2Proof.Machine

/-- A sparse table. -/
abbrev Tab (α : Type) := List (Nat × α)

/-- The entry of a key. -/
def Tab.get? {α : Type} : Tab α → Nat → Option α
  | [], _ => none
  | (k, v) :: t, n => if k = n then some v else Tab.get? t n

/-- The entry of a key, or a default. -/
def Tab.getD {α : Type} (t : Tab α) (n : Nat) (d : α) : α := (Tab.get? t n).getD d

/-- The table with one entry replaced or added, in key order. -/
def Tab.set {α : Type} : Tab α → Nat → α → Tab α
  | [], n, v => [(n, v)]
  | (k, w) :: t, n, v =>
    if n < k then (n, v) :: (k, w) :: t
    else if n = k then (n, v) :: t
    else (k, w) :: Tab.set t n v

/-- The table without a key. -/
def Tab.erase {α : Type} (t : Tab α) (n : Nat) : Tab α := t.filter fun e => e.1 != n

/-- A key above every key of the table. -/
def Tab.fresh {α : Type} (t : Tab α) : Nat := (t.map fun e => e.1 + 1).foldl max 0

/-- The values in key order. -/
def Tab.vals {α : Type} (t : Tab α) : List α := t.map fun e => e.2

/-- The keys in order. -/
def Tab.keys {α : Type} (t : Tab α) : List Nat := t.map fun e => e.1

/-- A table whose keys rise. -/
def Tab.wf {α : Type} : Tab α → Bool
  | [] => true
  | [_] => true
  | (k, _) :: (k', v') :: t => decide (k < k') && Tab.wf ((k', v') :: t)

/-- Replace the element of a list at an index. -/
def setAt {α : Type} : List α → Nat → α → List α
  | [], _, _ => []
  | _ :: t, 0, v => v :: t
  | a :: t, n + 1, v => a :: setAt t n v

/-- Drop the element of a list at an index. -/
def dropAt {α : Type} : List α → Nat → List α
  | [], _ => []
  | _ :: t, 0 => t
  | a :: t, n + 1 => a :: dropAt t n

/-- Insert elements after an index. -/
def insertAfter {α : Type} : List α → Nat → List α → List α
  | [], _, xs => xs
  | a :: t, 0, xs => a :: (xs ++ t)
  | a :: t, n + 1, xs => a :: insertAfter t n xs

end Sys2Proof.Machine
end

