-- ==== Sys2Proof/Machine/State.lean ====
section
/-! DEFINITION. The state of the machine: everything the spec names, as plain data. A table entry that is absent
reads as the reset value of its kind. -/

namespace Sys2Proof.Machine

/-! ### Tasks -/

/-- The cores a task may place work on (R247): every launch core, or the launch set in ascending id. -/
inductive CoreSet where
  | all
  | named (cores : List Nat)
deriving DecidableEq, Repr

/-- The names a task carries for its whole life: TID, PATH (R211, R252), and those no register shows (R247): its
address space, queue, launch and core set, and the task that spawned it (R222). -/
structure Ident where
  tid : Word
  path : Word
  asid : Nat
  queue : Nat
  launch : Option Nat
  coreSet : CoreSet
  parent : Option Word
deriving DecidableEq, Repr

/-- Scalar registers of a context (R33): bit 0 of `p` is never read, since p0 reads as true. -/
structure Regs where
  s : Vector Word 64
  p : BitVec 8
  pc : Word
deriving DecidableEq, Repr

/-- The context-owned control registers that hold a value of their own (R40). -/
structure Ctl where
  vl : Word
  rnd : Word
  mfmt : Word
  mscaleA : Word
  mscaleB : Word
  mzp : Word
  fflags : Word
  upcVec : Word
  upcCause : Word
  upcAddr : Word
  upcPc : Word
  vdone : Word
  upcSave : Word
  xferId : Word
  xferVec : Word
  xferPc : Word
  paramStat : Word
  curveSel : Word
deriving DecidableEq, Repr

/-- HOIST and WEIGHT (R258), the outer pair of an open hoist (R226), whether the record has woken its waiter (R261),
and the spawn index (R253). -/
structure Purse where
  hoist : Word
  weight : Nat
  outer : Option (Word × Nat)
  quiet : Bool
  spawnIx : Nat
deriving DecidableEq, Repr

/-- An active view entry (R269): its range, operator, chain and the task's current segment of it. -/
structure View where
  base : Nat
  len : Nat
  op : ViewOp
  chain : Nat
  seg : Nat
  declared : Bool
deriving DecidableEq, Repr

/-- A register a long-latency instruction may hold pending (R51), or FFLAGS, into which the array's instructions accumulate (R49). -/
inductive Res where
  | s (r : Nat)
  | p (r : Nat)
  | v (r : Nat)
  | k (r : Nat)
  | q (r : Nat)
  | flags
deriving DecidableEq, Repr

/-- A cause on its way to an upcall (R332): the code, access kind and address of R334, the UPC_PC, and for a parked
request the slice and index of its monitor (R335). -/
structure Trap where
  code : Nat
  acc : Nat
  addr : Word
  pc : Word
  inner : Nat
  tag : Nat
  parked : Bool
  monitor : Option (Nat × Nat)
  vdone : Option Word
deriving DecidableEq, Repr

/-- How a loaded element becomes a register element: raw bits, or a float widened to its tile's format (R205). -/
inductive Conv where
  | raw
  | widen (ty : Ty)
deriving DecidableEq, Repr

/-- Where part of a loaded element goes: `width` bits of register v`reg` at bit `pos`, taken from bit `shift` of
the element. -/
structure Put where
  reg : Nat
  pos : Nat
  width : Nat
  shift : Nat
  conv : Conv
deriving DecidableEq, Repr

/-- One element access of a vector or tile instruction: its VDONE group (R182, R206), address, bytes, the data of a
store and the flags its rounding raised, and the destinations of a load. -/
structure Elem where
  grp : Nat
  addr : Nat
  len : Nat
  data : Nat
  flags : BitVec 6
  puts : List Put
deriving DecidableEq, Repr

/-- The work of a long-latency instruction, with the operands it read at issue (R132, R184, R190, R204), and for an
element access the groups VDONE already records (R181), the advanced base, and the stream register its data came from
with its elements and their width, which leave the buffer when the access completes. A load may be an acquire and a store a
release (R311); a product has the cycles until its result (R48). -/
inductive LLWork where
  | load (d : SReg) (len : Nat) (signed acq : Bool) (ea : Word)
  | store (len : Nat) (rel : Bool) (ea : Word) (data : Word)
  | elems (store : Bool) (vdone : Word) (es : List Elem) (inc : Option (SReg × Word))
      (take : Option (QReg × Nat × Nat))
  | regs (writes : List (Nat × VWord)) (flags : BitVec 6) (cycles : Nat)
deriving DecidableEq, Repr

/-- A long-latency instruction in flight (R50): its number among the context's issues, the last number of its
window, its address, its pending set (R51), the first cycle in which it may complete (R48), whether it has completed (its
window may still be open, R52), once it has failed, its cause, and the STIME since which a UALink has held it (R405). -/
structure LLOp where
  seq : Nat
  last : Nat
  pc : Word
  work : LLWork
  pend : List Res
  ready : Nat
  done : Bool
  failed : Option Trap
  since : Option Nat
deriving DecidableEq, Repr

/-- An access held by a link without credit (R405, R408): its address and kind, the instruction in flight it belongs to
(none for the one at the pc), the groups already recorded, and the STIME since which it has waited. -/
structure Stall where
  link : Link
  addr : Word
  acc : Nat
  op : Option Nat
  vdone : Option Word
  since : Nat
deriving DecidableEq, Repr

/-- What holds a context back (R45, R243, R250): nothing, a send waiting for acceptance, a borrow, mode.m waiting
for the grid, or one of the parking instructions. -/
inductive Wait where
  | run
  | accept (msg : Nat)
  | borrow (id : Nat)
  | grid
  | quiet
  | join
  | drop (vid : Nat)
  | kill (id : Nat)
  | bar (addr gen : Word)
  | sig (addr : Word) (cc : Cc) (comparand : Word)
  | xinv (id : Nat)
  | fifo
  | link (x : Stall)
  | halting
deriving DecidableEq, Repr

/-- What the parked instruction finds when it issues again: nothing yet, the event it waited for, a refused
borrow (R228), or a borrow that a UALink has held for 2 ms (R405). -/
inductive Woken where
  | no
  | yes
  | refused
  | late
deriving DecidableEq, Repr

/-- Where a context stands between instructions. `seq` counts its issues, `skip` holds the WDONE plan of a resumed
window (R55), `halting` the Halting state of R244, `merging` a halt or join between its first step and its end
(R278), `trap` a cause that waits for the window to drain, `soft` the faults to be learnt at a boundary
(R140, R338); `resumed` marks the instruction at UPC_PC after eret, the only one VDONE describes (R182); `held` keeps
that mark and the plan across a copy-completion handler; `saving` stops issue before a save (R392); `frozen` keeps a parked
context parked while its core is halted by DIP (R356); `fenced` says that a fence.rel or fence.sc lies before what it issues, which makes its
writes releases (R311); `linkSince` is the STIME since which a UALink has held the access of the instruction at the pc (R405);
`issued` says that the instruction at the pc has issued and waits, parked, for what lets it end, so that it counts, and meets a
breakpoint, no second time (R347, R353). -/
structure Flow where
  wait : Wait
  woken : Woken
  inflight : List LLOp
  seq : Nat
  skip : List Bool
  trap : Option Trap
  soft : List Trap
  inUpcall : Bool
  inXfer : Bool
  resumed : Bool
  held : Option (Bool × List Bool)
  halting : Bool
  merging : Bool
  saving : Bool
  frozen : Bool
  suspended : Bool
  fenced : Bool
  linkSince : Option Nat
  issued : Bool
deriving DecidableEq, Repr

/-- What the arbiter and the scheduler know of a task (R46, R47, R152, R340, R388, R389): the order and STIME of its start,
the STIME its quantum began, the cycle since which it has been ready where it is, the cycle since which its next instruction
has waited, the cycle its yield ends, and, while that instruction would not issue, the state code of R340 and the address
charged by R344. -/
structure Rank where
  order : Nat
  start : Nat
  quantum : Nat
  ready : Option Nat
  waiting : Nat
  yieldUntil : Nat
  block : Option (Nat × Word)
deriving DecidableEq, Repr

/-- One task in a context: all that R32 gives the context. -/
structure Task where
  regs : Regs
  ctl : Ctl
  ident : Ident
  purse : Purse
  window : Nat               -- MODE.N; 0 in V mode (R42)
  bank : Option Nat          -- VBANK (R44)
  views : Tab View
  token : Option (Word × Word)
  flow : Flow
  rank : Rank
deriving DecidableEq, Repr

/-! ### Banks -/

/-- A stream buffer (R303): its request, TAG, the bytes not yet read and whether the last byte has entered. -/
structure Stream where
  req : Nat
  tag : Nat
  data : List Byte
  done : Bool
deriving DecidableEq, Repr

/-- A vector bank (R32, R303); `k` 0 is never read, since k0 reads as all ones. `q` names the request a
stream register is bound to. -/
structure Bank where
  v : Vector VWord 32
  k : Vector KWord 8
  q : Vector (Option Nat) 4
  buf : Vector (Option Stream) 4
deriving DecidableEq, Repr

/-! ### Messages and weight in flight -/

/-- Where a message goes (R212, R406). -/
inductive Dest where
  | core (c : Nat)
  | queue (q : Nat)
  | transfer (port : Nat)
deriving DecidableEq, Repr

/-- A message (R216): its words, weight, hoist, path and inherited views, the names its task will carry, the context
and path of its sender, and its arrival at the core (R388). -/
structure Msg where
  id : Nat
  dst : Dest
  hdr : Word
  args : Vector Word 4
  s5 : Word
  weight : Nat
  hoist : Word
  ident : Ident
  views : Tab View
  sender : Option Nat
  senderPath : Word
  launchStart : Bool
  arrived : Nat
deriving DecidableEq, Repr

/-- Who sends weight to a record, or asks it for some: the die (R289), the cluster of the core or engine, and the id that a watch record keeps
(R354); the front end and the ports have neither. -/
structure Origin where
  die : Nat
  cluster : Option Nat
  label : Word
deriving DecidableEq, Repr

/-- Who makes an access. `core` is the core whose scratchpad the windows name, `cluster` the accessor's cluster,
`engine` an engine access (copy engine, port, peer, front end), `path` the writer path for R282, `req` the copy
request, `label` the id a watch record keeps. -/
structure Who where
  die : Nat
  core : Option Nat
  cluster : Option Nat
  engine : Bool
  asid : Nat
  path : Option Word
  launch : Option Nat
  agent : Nat
  req : Option Nat
  label : Word
  views : Tab View
deriving DecidableEq, Repr

/-- A notifying atomic that has left its core and is not performed yet (R140): who makes the access, the names of its task and its hoist, the
operation with its length, operand and address, the message it leaves when it is performed, its number among the issues of the context,
and the STIME since which a UALink has held it (R405). -/
structure NoteReq where
  who : Who
  ident : Ident
  hoist : Word
  op : AmoOp
  len : Nat
  x : Nat
  ea : Word
  msg : Msg
  seq : Nat
  since : Option Nat
deriving DecidableEq, Repr

/-- A return of weight on its way to a record (R225), from its sender (R289, R354); `kill` counts a kill there (R223). -/
structure Return where
  src : Origin
  asid : Nat
  hoist : Word
  amount : Nat
  kill : Bool
deriving DecidableEq, Repr

/-- A borrow (R228, R262) from a core (R289, R354): on its way to the record, or its answer on the way back; `since` is the STIME since
which a UALink has held it (R405). -/
structure Borrow where
  src : Origin
  tid : Word
  asid : Nat
  hoist : Word
  answer : Option Bool       -- some true: granted; some false: refused
  since : Option Nat
deriving DecidableEq, Repr

/-- A handover from a core on its way to the region table (R241). -/
structure Handover where
  src : Origin
  asid : Nat
  region : Nat
  engine : Bool
  prefixLen : Nat
  writer : Word
  hoist : Word
deriving DecidableEq, Repr

/-- A kill on its way to its target's core (R223, R368). -/
structure KillReq where
  target : Word
  killer : Option Word
  queue : Option Nat
deriving DecidableEq, Repr

/-- A saved record of the save arena (R392). -/
structure Saved where
  core : Nat
  bank : Option Bank
  task : Task
  savedAt : Nat
deriving DecidableEq, Repr

/-! ### Views -/

/-- A segment of a chain (R274): the task that holds it, whether it is complete, and its private lines by line
number. -/
structure Segment where
  id : Nat
  owner : Word
  complete : Bool
  lines : Tab LineWord
deriving DecidableEq, Repr

/-- Combinations that a closing owes (R275, R277): the task that performs them, its cluster, the segment, and whether it is being
combined with its right neighbour, which begins only where the left one is not complete. -/
structure MergeWork where
  tid : Word
  cluster : Nat
  seg : Nat
  right : Bool
deriving DecidableEq, Repr

/-- A chain (R273, R274): the slice of its bookkeeping, the declared range and operator, the declarer, its hoist and address
space, the segments in serial order, the private lines that are poisoned, by segment and line (R443), whether join is writing the real
tile, the combinations owed in order of arrival, a step's fault, the STIME since which a UALink has held a step (R405), and whether the performer has taken its upcall and not returned (R278). `discard` marks the chain of a killed declarer
(R223). -/
structure Chain where
  slice : Nat
  vid : Nat
  base : Nat
  len : Nat
  op : ViewOp
  declarer : Word
  hoist : Word
  asid : Nat
  launch : Option Nat
  segs : List Segment
  bad : List (Nat × Nat)
  joining : Bool
  discard : Bool
  work : List MergeWork
  fault : Option Trap
  since : Option Nat
  told : Bool
deriving DecidableEq, Repr

/-! ### Copies -/

/-- The parameter block of a copy request (R235), read when the engine takes it. -/
structure Block where
  sstride : Int
  dstride : Int
  idx : Nat
  handler : Word
  wl : Nat
  hl : Nat
deriving DecidableEq, Repr

/-- A refused line of a request (R338): the slice that refused it, the engine monitor armed there or the STIME of
the next retry, and its cause, kind and address. -/
structure Stuck where
  slice : Nat
  monitor : Option Nat
  retryAt : Nat
  code : Nat
  acc : Nat
  addr : Nat
deriving DecidableEq, Repr

/-- A copy request or prefetch (R235, R239): who issued it, its words, whether its block has been read and its lines
are owned, when it took them among the takes, the block, the bytes done so far, the destination lines it owns (R320), those that no
page mapped when it took them, by VA line, the stream buffer it fills, the STIME since which a UALink has held it (R405), and where it is parked. -/
structure CopyReq where
  id : Nat
  core : Nat
  tid : Word
  ident : Ident
  hoist : Word
  bank : Option Nat
  pf : Option (Nat × Word)   -- a prefetch: its completion kind and barrier address
  kind : Nat
  done : Nat
  esz : Nat
  src : Nat
  dst : Nat
  n1 : Nat
  n0 : Nat
  pb : Nat
  tag : Nat
  taken : Bool
  turn : Nat
  block : Block
  pos : Nat
  own : List Nat
  unmapped : List Nat
  buffer : Option Nat
  since : Option Nat
  stuck : Option Stuck
  told : Bool
  paused : Bool
deriving DecidableEq, Repr

/-- A pending completion (R300). -/
structure Completion where
  tid : Word
  tag : Nat
  handler : Word
deriving DecidableEq, Repr

/-- A cluster copy engine (R298): active requests, the source served last, pending completions, whether the next
line is the merge queue's turn, the lines of requests that come before it, and whether a DIP froze it (R356). -/
structure Engine where
  active : List CopyReq
  last : Nat
  done : List Completion
  mergeTurn : Bool
  owed : Nat
  frozen : Bool
deriving DecidableEq, Repr

/-! ### Slices and debug modules -/

/-- A leaf translation (R325, R328): the page it maps, its attributes, and the entry it was read from. -/
structure Leaf where
  vbase : Nat
  pbase : Nat
  size : Nat
  near : Bool
  io : Bool
  x : Bool
  w : Bool
  r : Bool
  entry : Nat
deriving DecidableEq, Repr

/-- An address-space descriptor (R396). -/
structure Desc where
  root : Nat
  regions : Nat
  valid : Bool
deriving DecidableEq, Repr

/-- A monitor of a core request (R335, R336): the parked request, the watched entry and its level, and UPC_PC and UPC_CAUSE once
the core has sent them. -/
structure Monitor where
  asid : Nat
  va : Word
  acc : Nat
  scalar : Bool
  entry : Nat
  lo : Nat
  tid : Word
  hdr : Word
  hoist : Word
  ident : Ident
  core : Nat
  upc : Option (Word × Word)
  fired : Bool
deriving DecidableEq, Repr

/-- Who an engine monitor wakes (R338, R368). -/
inductive Waiter where
  | request (cluster id : Nat)
  | command (queue : Nat)
deriving DecidableEq, Repr

/-- An engine monitor (R338). -/
structure EngineMonitor where
  asid : Nat
  va : Nat
  write : Bool
  entry : Nat
  lo : Nat
  waiter : Waiter
  fired : Bool
deriving DecidableEq, Repr

/-- What the signal unit watches for a queue parked on a WAIT (R370): the signal's physical address, the condition, and whether a write
to its line has met it. -/
structure SignalWatch where
  pa : Nat
  cc : Cc
  comparand : Word
  met : Bool
deriving DecidableEq, Repr

/-- The last write of a line that the mixed-size check remembers (R323): byte range and agent. -/
structure LastWrite where
  lo : Nat
  len : Nat
  agent : Nat
deriving DecidableEq, Repr

/-- The watch hit record (R354). -/
structure WatchHit where
  addr : Word
  who : Word
  index : Nat
  acc : Nat
  count : Nat
deriving DecidableEq, Repr

/-- A cluster debug module (R349 to R358); `dipAt` is the STIME of the DIP that halts the cluster and `bpCore` the core whose
breakpoint BPI names, by which causes of one cycle are told apart (R351). -/
structure Debug where
  ctl : Word
  err : Bool
  bpi : Nat
  bpCore : Nat
  cause : Nat
  dipAt : Nat
  engf : Bool
  drained : BitVec 8
  halted : BitVec 8
  sel : Word
  logWptr : Word
  smpWptr : Word
  whit : Option WatchHit
  ssel : Vector Word 4
  scnt : Vector Word 4
  bp : Vector (Word × Word) 16
deriving DecidableEq, Repr

/-- A cluster: its engine, wired barrier (R231, R304), debug module, firewall register (R439), log and sample rings
(R343), and its slice's translation cache, kept descriptors, monitors, watched signals by queue (R370), mixed-size records and the STIME
of the last scrub of its L2 (R442). -/
structure Cluster where
  engine : Engine
  expect : Nat
  arrived : Nat
  gen : Word
  first : Word
  last : Word
  dbg : Debug
  fwall : Word
  logRing : Tab (List Word)
  sampleRing : Tab (Word × Word)
  cache : List (Nat × Leaf)
  descs : Tab Desc
  monitors : Tab Monitor
  engineMonitors : Tab EngineMonitor
  signals : Tab SignalWatch
  lastWrites : Tab LastWrite
  scrubbed : Nat
deriving DecidableEq, Repr

/-! ### Cores -/

/-- What a granule of the unified array belongs to (R285, R375): L1, a launch's partition, or a retained partition
of a name, address space and queue, kept by the launch of that acceptance order. -/
inductive Granule where
  | l1
  | launch (id : Nat)
  | retained (name : Word) (asid queue order : Nat)
deriving DecidableEq, Repr

/-- The log line a core is filling (R341, R342): the state and context last recorded, the cycle of the last record,
the header of the line and its records. -/
structure LogLine where
  st : Nat
  ctx : Nat
  lastCycle : Nat
  started : Bool
  header : Word
  records : List (BitVec 32)
deriving DecidableEq, Repr

/-- The fields of a curve record that a publication changes (R423, R425, R428). -/
structure CurveRecord where
  fmax : List Nat
  leak : List Nat
  tslope : Int
  mtime : Nat
  su : Nat
  v95 : Nat
  fast : Bool
  frugal : Bool
deriving DecidableEq, Repr

/-- A core's health and operating point (R424, R426, R430 to R433): the published record, the measurement waiting
for publication, margin flags, retirement, the live point, the thermal factor in 64ths and the speed issue is gated to,
the speed trial in force (R409), error times for the sliding windows and counts. -/
structure Health where
  curve : CurveRecord
  pending : Option (Curve × Nat)
  nearFloor : Bool
  canary : Bool
  retest : Bool
  cehigh : Bool
  measuring : Bool
  measureStart : Nat
  lastMeasure : Option Nat
  lastScheduled : Option Nat
  retired : Bool
  retiring : Bool
  vnow : Nat
  fnow : Nat
  tnow : Int
  thermal : Nat
  gate : Option Nat
  trial : Option Nat
  trialP : Nat
  corrected : Nat
  uncorrectable : Nat
  margin : Nat
  measurements : Nat
  trigTime : Nat
  trigCode : Nat
  correctedAt : List Nat
  uncorrectableAt : List Nat
deriving DecidableEq, Repr

/-- A result that is not there yet (R48): its context, its register, or none where no instruction of the context may issue
before it (R50, R246), the first cycle in which a dependent instruction may issue, the instruction that gives it, and
whether that accesses memory (R340, R344). -/
structure Await where
  ctx : Nat
  reg : Option Res
  until_ : Nat
  pc : Word
  memory : Bool
deriving DecidableEq, Repr

/-- A waiting task in whose favour a running one is saved (R390): a saved record or a message, by its identity, with the context and
the bank that the save frees for it. -/
structure Seat where
  saved : Bool
  id : Nat
  ctx : Nat
  bank : Option Nat
deriving DecidableEq, Repr

/-- A core (R32, R40): the grid and its waiting contexts, array and divider occupancy, the results its contexts wait for, the arbiter's reservation and
aging grant, CYCLE, the cycle of the last start or restore (R245), the cycles in which contexts were freed (R246), the places that
saves free for waiting tasks (R390), LOG_CTL, the counters, and what they held as the last cycle ended (R348), mailbox, spill ring, copy FIFO, SEQ
counters, forwarding entries, granules, retain names by launch (R221, R373), log line, the cycle of the last sample (R344), halts, those of a DIP
among them (R352), breakpoint skips, and health. -/
structure Core where
  grid : Option Nat
  gridQueue : List Nat
  arrayUntil : Nat
  dividerUntil : Nat
  results : List Await
  reserved : Option Nat
  grant : Option Nat
  cycle : Nat
  started : Option Nat
  freed : Tab Nat
  due : List Seat
  logCtl : Word
  pmc : Vector Word 8
  seen : Vector Word 8
  pms : Vector Word 8
  mailbox : List Msg
  spill : List Msg
  fifo : List CopyReq
  seqs : Tab Nat
  forward : Tab (Nat × Nat)
  granules : List Granule
  retain : Tab Word
  log : LogLine
  sampled : Option Nat
  halted : Bool
  dip : Bool
  bpSkip : List Word
  health : Health
deriving DecidableEq, Repr

/-! ### Launches and queues -/

/-- Where a launch stands (R370, R372, R373, R444). -/
inductive Phase where
  | waitingDep
  | accepting
  | running
  | aborting
deriving DecidableEq, Repr

/-- A task of a launch that has not been sent yet (R386): its number, core and argument registers. -/
structure Start where
  number : Nat
  core : Nat
  args : Vector Word 4
deriving DecidableEq, Repr

/-- A range a launch wrote beyond the package (R446). -/
structure Export where
  target : Nat
  device : Nat
  start : Nat
  len : Nat
deriving DecidableEq, Repr

/-- A launch (R371, R372, R382, R386, R387, R444 to R446): its queue, record, set and snapshot, windows, members,
starts left and outstanding, whether WAITER of its record has been written, the STIME since which a UALink has held an access of the
front end for it (R405), exports, attempt, acceptance order and normalised service in 1,900ths. -/
structure Launch where
  queue : Nat
  asid : Nat
  va : Nat
  record : List Word
  phase : Phase
  set : List Nat
  snap : List Nat
  windows : List (List Byte)
  members : List Nat
  starts : List Start
  outstanding : Tab Nat
  armed : Bool
  since : Option Nat
  exports : List Export
  overflow : Bool
  attempt : Nat
  noticed : Bool
  order : Nat
  waitingSince : Nat
  service : Nat
deriving DecidableEq, Repr

/-- What a queue is parked on (R370, R372). -/
inductive ParkedOn where
  | signal (va : Nat) (cc : Cc) (comparand : Word)
  | counter (va : Nat) (launch : Nat)
deriving DecidableEq, Repr

/-- Front-end state of a queue: its hardware slot, the doorbell order while it waits for one, what it is parked on,
the command fetched and not yet dispatched, a command parked at a slice (R368), the STIME since which a UALink has held the command's
access (R405), the pin set, its address space and the physical lines it pins
(R376), the STIME of the last doorbell, and the unsignalled events (R377). -/
structure Queue where
  slot : Option Nat
  waiting : Option Nat
  parked : List ParkedOn
  command : Option (List Word)
  stuck : Option Stuck
  since : Option Nat
  pins : List (Nat × Nat)
  pinAsid : Nat
  pinned : List Nat
  doorbell : Nat
  events : Nat
  oldest : Nat
  latest : Nat
deriving DecidableEq, Repr

/-- The weight-store image (R292, R293): address space, banks, and for each physical line its VA line. -/
structure Image where
  asid : Nat
  banks : Nat
  lines : Tab Nat
deriving DecidableEq, Repr

/-- Who waits for an invalidation (R399). -/
inductive Issuer where
  | task (tid : Word)
  | command (queue : Nat)
  | loader
deriving DecidableEq, Repr

/-- A range invalidation in flight (R399). -/
structure Inval where
  issuer : Issuer
  asid : Nat
  start : Nat
  len : Nat
  arrived : List Nat
  acked : List Nat
deriving DecidableEq, Repr

/-- An entry of the slices' region tables (R281). -/
structure Region where
  index : Nat
  base : Nat
  len : Nat
  writer : Word
  engine : Bool
  prefixLen : Nat
deriving DecidableEq, Repr

/-- An Ultra Ethernet transfer in progress (R406). -/
structure Transfer where
  port : Nat
  write : Bool
  localVa : Nat
  device : Nat
  remoteVa : Nat
  len : Nat
  msg : Msg
deriving DecidableEq, Repr

/-- A posted PCI Express write in a port's transmit queue (R402). -/
structure Posted where
  port : Port
  addr : Nat
  data : List Byte
deriving DecidableEq, Repr

/-- Bytes sent to another device by an Ultra Ethernet transfer (R406): the port, the device, its VA, and the data. -/
structure Sent where
  port : Nat
  device : Nat
  va : Nat
  data : List Byte
deriving DecidableEq, Repr

/-- An abort notice that has left (R445): the gang, the scale-out numbers of its sender and of the member it goes to, and whether it
travels over UALink or over Ultra Ethernet port 0. -/
structure Notice where
  gang : Word
  sender : Nat
  member : Nat
  ualink : Bool
deriving DecidableEq, Repr

/-- The directory entry of a line (R290): the slice, address space and VA line that hold it. -/
structure Holder where
  slice : Nat
  asid : Nat
  vline : Nat
deriving DecidableEq, Repr

/-- A watchpoint hit waiting for its DIP (R354). -/
structure Hit where
  index : Nat
  addr : Word
  who : Word
  acc : Nat
  cluster : Option Nat
deriving DecidableEq, Repr

/-- A watchpoint (R354). -/
structure Watch where
  word0 : Word
  len : Word
  word2 : Word
deriving DecidableEq, Repr

/-- Health of an HBM channel (R431, R432), and the STIMEs of the last scrubs of its lines and of its memory-side cache (R442). -/
structure Channel where
  corrected : Nat
  uncorrectable : Nat
  scrubs : Nat
  scrubbed : Nat
  cacheScrubbed : Nat
  trigTime : Nat
  trigCode : Nat
  retired : Bool
  retiring : Bool
  correctedAt : List Nat
  uncorrectableAt : List Nat
deriving DecidableEq, Repr

/-! ### The package -/

/-- The fields of the signed configuration table in force (R436). -/
structure Cfg where
  version : Nat
  colw : Nat
  ptpr : Nat
  ualn : Nat
  domn : Nat
  qtab : Nat
  astab : Nat
  role : List Nat
  retc : List Nat
  reth : List Nat
  fwd : BitVec 512
deriving DecidableEq, Repr

/-- What the last read from outside returned (R306, R378, R403, R405, R443), or an incoming transfer: its bytes, or a refusal
(R406). -/
inductive Reply where
  | data (x : BitVec 512)
  | bytes (bs : List Byte)
  | denied
  | unsupported
  | poisoned
deriving DecidableEq, Repr

/-- The shared control space (R378, R389, R403, R406, R409, R438, R441), the STIME at which the operating-point
controller last acted (R430), and what the last read from outside returned (DESIGN CHOICE, log 38). -/
structure Control where
  semaphores : Tab Nat
  quantumLen : Nat
  gang : Bool
  mwin : Word
  xasid : Word
  bootStage : Nat
  bootErr : Nat
  loadReq : Word
  loadAsid : Word
  loadStat : Word
  trials : Tab Word
  doorTable : Tab (Word × Word)
  pm : BitVec 512
  am : Tab (BitVec 512)
  opAt : Nat
  hostRead : Option Reply
deriving DecidableEq, Repr

/-- Flash, staging area and the nonvolatile store of the base die (R436 to R438). -/
structure Base where
  minVersion : Nat
  table : List Byte
  image : List Byte
  stagedTable : List Byte
  stagedImage : List Byte
deriving DecidableEq, Repr

/-- One choice of the outside world or of the part's own concurrency (DESIGN CHOICE, log 2): a cycle of a core, with the
contexts whose next instruction has not been fetched yet (R45), which event happens, a read of a register through a port (R17), how
time runs, what another agent
writes to memory, what a cache drops, a link's credit, a temperature. -/
inductive Turn where
  | issue (core : Nat) (late : List Nat)
  | event (i : Instr)
  | read (reg : HostReg)
  | time (ns : Nat)
  | poke (pa : Nat) (bytes : List Byte)
  | evict (slice index : Nat)
  | forget (slice asid : Nat)
  | credit (l : Link) (free : Bool)
  | temperature (core : Nat) (celsius : Int)
deriving DecidableEq, Repr

/-- A part of a posted write through the memory window, of one line: its address space, the queue of its fault record, its address and
its bytes (R403, R404). -/
structure Inbound where
  asid : Nat
  queue : Nat
  va : Nat
  bytes : List Byte
deriving DecidableEq, Repr

/-- A write of the device itself that has to wait, mostly for a line that a copy owns (R320; DESIGN CHOICE, log 70): bytes of a line, the
next record of a queue's fault ring, the end of a killed task's wait at a record (R268), or a unit of weight that returns once the records of a
queue before it are written (R406). -/
inductive Owed where
  | bytes (pa : Nat) (bs : List Byte)
  | record (queue : Nat) (bs : List Byte)
  | unit (queue : Nat) (src : Origin) (asid : Nat) (hoist : Word) (amount : Nat)
  | waiter (src : Origin) (asid : Nat) (hoist tid : Word)
deriving DecidableEq, Repr

/-- Memory: address and byte, addresses strictly rising, no entry equal to 0, which an unlisted address reads as
(DESIGN CHOICE, log 5). -/
abbrev Mem := List Host.Cell

/-- The whole machine. `asks` holds the notifying atomics that have left their core and are not performed yet (R140); `focus` is the context whose instruction exec runs, 16 x core + context (DESIGN CHOICE, log 1); `sched` the
turns chosen in advance (DESIGN CHOICE, log 2); `sent` what left by Ultra Ethernet; `owed` the device's own writes that have to wait, in
order (R320); `inbound` the posted writes at port A that have not been performed, in order
(R403, R404); `linked` the STIME since which a UALink has held an access of a port, a transfer or the loader, by its key (R405); `cursor` counts the publication instants passed
(R380), `stalls` the reads that the open refresh window stalls, by agent and line (R294), `slewPart` the part of a nanosecond that a slew has earned (R407); `free` names the next free value (DESIGN CHOICE, log 3); `nextId` the next identity of a message,
request, chain or launch. -/
structure State where
  focus : Nat
  ctxs : Tab Task
  banks : Tab Bank
  cores : Tab Core
  clusters : Tab Cluster
  mem : Mem
  spad : Mem
  poison : List Nat
  directory : Tab Holder
  regions : Tab (List Region)
  chains : Tab Chain
  fabric : Tab Msg
  stops : List Msg
  asks : Tab NoteReq
  notes : Tab Msg
  returns : Tab Return
  borrows : Tab Borrow
  handovers : Tab Handover
  kills : Tab KillReq
  saved : Tab Saved
  invals : Tab Inval
  launches : Tab Launch
  queues : Tab Queue
  wsImage : Option Image
  refreshBank : Option Nat
  stalls : List (Nat × Nat)
  transfers : Tab Transfer
  sent : List Sent
  owed : List Owed
  posted : List Posted
  inbound : List Inbound
  linked : Tab Nat
  msix : List (Port × Nat)
  notices : List Notice
  noCredit : List Link
  watches : Vector Watch 8
  hits : List Hit
  relays : List Nat
  channels : Tab Channel
  control : Control
  base : Base
  cfg : Cfg
  stime : Nat
  slew : Int
  slewPart : Nat
  epoch : Nat
  cursor : Nat
  nextId : Nat
  free : Nat
  sched : List Turn
deriving DecidableEq, Repr

/-! ### Outcomes -/

/-- Why the machine stops with a fault. -/
inductive Fault where
  /-- Raised by exec of an instruction of a task when the context in focus holds no task. Safe: a step issues only
  for a context that holds one, so no run meets it. -/
  | noTask
deriving DecidableEq, Repr

/-- Why a step has no meaning. -/
inductive Refusal where
  /-- Raised by the arm of an instruction that has no meaning yet. Safe: nothing follows from a refusal. -/
  | notModelled (mnemonic : String)
deriving DecidableEq, Repr

/-- What a step or a meaning answers. -/
abbrev Out := Host.Outcome State Fault Refusal

/-! ### Reset values -/

/-- The control registers at task start (R39, R40). -/
def Ctl.reset : Ctl :=
  { vl := 2048, rnd := 0, mfmt := 0, mscaleA := 0, mscaleB := 0, mzp := 0, fflags := 0, upcVec := 0, upcCause := 0,
    upcAddr := 0, upcPc := 0, vdone := 0, upcSave := 0, xferId := 0, xferVec := 0, xferPc := 0, paramStat := 0,
    curveSel := 0 }

/-- A context between instructions, with nothing in flight. -/
def Flow.reset : Flow :=
  { wait := .run, woken := .no, inflight := [], seq := 0, skip := [], trap := none, soft := [], inUpcall := false,
    inXfer := false, resumed := false, held := none, halting := false, merging := false, saving := false,
    frozen := false, suspended := false, fenced := false, linkSince := none, issued := false }

/-- A bank as it is handed to a task (R39). -/
def Bank.reset : Bank :=
  { v := Vector.replicate 32 0, k := Vector.replicate 8 0, q := Vector.replicate 4 none,
    buf := Vector.replicate 4 none }

/-- An engine at reset. -/
def Engine.reset : Engine := { active := [], last := 8, done := [], mergeTurn := false, owed := 1, frozen := false }

/-- A debug module at reset (R349 to R355). -/
def Debug.reset : Debug :=
  { ctl := 0, err := false, bpi := 0, bpCore := 0, cause := 0, dipAt := 0, engf := false, drained := 0, halted := 0, sel := 0, logWptr := 0,
    smpWptr := 0, whit := none, ssel := Vector.replicate 4 0, scnt := Vector.replicate 4 0,
    bp := Vector.replicate 16 (0, 0) }

/-- A cluster at reset (R304: EXPECT 1, ARRIVED 0, GEN 0). -/
def Cluster.reset : Cluster :=
  { engine := Engine.reset, expect := 1, arrived := 0, gen := 0, first := 0, last := 0, dbg := Debug.reset,
    fwall := 0, logRing := [], sampleRing := [], cache := [], descs := [], monitors := [], engineMonitors := [],
    signals := [], lastWrites := [], scrubbed := 0 }

/-- A core's record before its first measurement (DESIGN CHOICE, log 9). -/
def CurveRecord.reset : CurveRecord :=
  { fmax := [], leak := [], tslope := 0, mtime := 0, su := 0, v95 := 0, fast := false, frugal := false }

/-- A core's health at reset (DESIGN CHOICE, log 9). -/
def Health.reset : Health :=
  { curve := CurveRecord.reset, pending := none, nearFloor := false, canary := false, retest := false, cehigh := false,
    measuring := false, measureStart := 0, lastMeasure := none, lastScheduled := none, retired := false,
    retiring := false, vnow := 0, fnow := 0, tnow := 0, thermal := 64, gate := none, trial := none, trialP := 0, corrected := 0,
    uncorrectable := 0, margin := 0, measurements := 0, trigTime := 0, trigCode := 0, correctedAt := [],
    uncorrectableAt := [] }

/-- A log line with nothing recorded. -/
def LogLine.reset : LogLine := { st := 3, ctx := 0, lastCycle := 0, started := false, header := 0, records := [] }

/-- A core at reset. -/
def Core.reset : Core :=
  { grid := none, gridQueue := [], arrayUntil := 0, dividerUntil := 0, results := [], reserved := none, grant := none,
    cycle := 0, started := none, freed := [], due := [], logCtl := 0, pmc := Vector.replicate 8 0, seen := Vector.replicate 8 0,
    pms := Vector.replicate 8 0, mailbox := [], spill := [], fifo := [],
    seqs := [], forward := [], granules := List.replicate 20 .l1, retain := [], log := LogLine.reset,
    sampled := none, halted := false, dip := false, bpSkip := [], health := Health.reset }

/-- A queue the front end has not seen. -/
def Queue.reset : Queue :=
  { slot := none, waiting := none, parked := [], command := none, stuck := none, since := none, pins := [], pinAsid := 0, pinned := [], doorbell := 0,
    events := 0, oldest := 0, latest := 0 }

/-- A channel at reset (R431). -/
def Channel.reset : Channel :=
  { corrected := 0, uncorrectable := 0, scrubs := 0, scrubbed := 0, cacheScrubbed := 0, trigTime := 0, trigCode := 0, retired := false,
    retiring := false, correctedAt := [], uncorrectableAt := [] }

/-- A watchpoint at reset (R354). -/
def Watch.reset : Watch := { word0 := 0, len := 0, word2 := 0 }

/-- The configuration before a table is accepted (DESIGN CHOICE, log 10): the default column width of R4. -/
def Cfg.reset : Cfg :=
  { version := 0, colw := 1, ptpr := 0, ualn := 0, domn := 0, qtab := 0, astab := 0, role := [], retc := [],
    reth := [], fwd := 0 }

/-- The shared control space at reset (R378, R389, R403, R406, R409, R437, R438). -/
def Control.reset : Control :=
  { semaphores := [], quantumLen := 1000, gang := false, mwin := 0, xasid := 0, bootStage := 0, bootErr := 0,
    loadReq := 0, loadAsid := 0, loadStat := 0, trials := [], doorTable := [], pm := 0, am := [], opAt := 0, hostRead := none }

/-- The base die with empty flash (DESIGN CHOICE, log 10). -/
def Base.reset : Base := { minVersion := 0, table := [], image := [], stagedTable := [], stagedImage := [] }

/-- The machine right after package reset, before the base die's first step (R437): every register at its reset
value, no task, no message, no memory listed. -/
def State.reset : State :=
  { focus := 0, ctxs := [], banks := [], cores := [], clusters := [], mem := [], spad := [], poison := [],
    directory := [], regions := [], chains := [], fabric := [], stops := [], asks := [], notes := [], returns := [],
    borrows := [], handovers := [], kills := [], saved := [], invals := [], launches := [], queues := [],
    wsImage := none, refreshBank := none, stalls := [], transfers := [], sent := [], owed := [], posted := [], inbound := [], linked := [], msix := [], notices := [], noCredit := [],
    watches := Vector.replicate 8 Watch.reset, hits := [], relays := [], channels := [], control := Control.reset,
    base := Base.reset, cfg := Cfg.reset, stime := 0, slew := 0, slewPart := 0, epoch := 0, cursor := 0,
    nextId := 1, free := 0, sched := [] }

end Sys2Proof.Machine
end

