-- ==== Sys2Proof/Machine/Memory.lean ====
section
/-! DEFINITION. Bytes: the canonical memory list, reads and writes of several bytes in the one byte order (R16), and
the tables of the state with their reset defaults. -/

namespace Sys2Proof.Machine

/-! ### Canonical memory -/

/-- The byte at an address; an unlisted address reads as 0 (DESIGN CHOICE, log 5). -/
def Mem.read : Mem → Nat → Byte
  | [], _ => 0
  | (k, b) :: m, a => if k = a then b else if a < k then 0 else Mem.read m a

/-- Write one byte, keeping the list sorted and without zero entries. -/
def Mem.write : Mem → Nat → Byte → Mem
  | [], a, b => if b = 0 then [] else [(a, b)]
  | (k, c) :: m, a, b =>
    if a < k then (if b = 0 then (k, c) :: m else (a, b) :: (k, c) :: m)
    else if a = k then (if b = 0 then m else (a, b) :: m)
    else (k, c) :: Mem.write m a b

/-- The canonical form: addresses strictly rising, no entry equal to what an unlisted address reads as. -/
def Mem.wf : Mem → Bool
  | [] => true
  | [(_, b)] => b != 0
  | (k, b) :: (k', b') :: m => b != 0 && decide (k < k') && Mem.wf ((k', b') :: m)

/-- Write bytes at rising addresses. -/
def Mem.writeBytes (m : Mem) (a : Nat) : List Byte → Mem
  | [] => m
  | b :: bs => Mem.writeBytes (m.write a b) (a + 1) bs

/-- Read n bytes at rising addresses. -/
def Mem.readBytes (m : Mem) (a : Nat) : Nat → List Byte
  | 0 => []
  | n + 1 => m.read a :: Mem.readBytes m (a + 1) n

/-- The little-endian value of n bytes. -/
def Mem.readNat (m : Mem) (a n : Nat) : Nat := leNat (m.readBytes a n)

/-- Write a value as n little-endian bytes. -/
def Mem.writeNat (m : Mem) (a n x : Nat) : Mem := m.writeBytes a (leBytes n x)

/-! ### Bit fields -/

/-- Bits [hi:lo] of a number. -/
def bitsAt (x hi lo : Nat) : Nat := x / 2 ^ lo % 2 ^ (hi + 1 - lo)

/-- One bit of a number. -/
def bitAt (x i : Nat) : Bool := x / 2 ^ i % 2 == 1

/-- Whether any number of a list differs from zero. -/
def anyNonzero (xs : List Nat) : Bool := xs.any (· != 0)

/-! ### Physical memory of the state -/

/-- The value of n bytes at a physical address. -/
def State.readPa (s : State) (pa n : Nat) : Nat := s.mem.readNat pa n

/-- The 64-bit word at a physical address. -/
def State.word (s : State) (pa : Nat) : Word := BitVec.ofNat 64 (s.readPa pa 8)

/-- Write n bytes at a physical address. -/
def State.writePa (s : State) (pa n x : Nat) : State := { s with mem := s.mem.writeNat pa n x }

/-- Write bytes at a physical address. -/
def State.pokeBytes (s : State) (pa : Nat) (bs : List Byte) : State := { s with mem := s.mem.writeBytes pa bs }

/-! ### Free values (DESIGN CHOICE, log 3) -/

/-- A free bit: the counter of the state, the kind of choice and its subject name it, so no two choices share one. -/
def State.freeAt (s : State) (kind subject : Nat) : Bool :=
  Config.freeBit ((s.free * 16 + kind) * 2 ^ 64 + subject)

/-! ### Tables with reset defaults -/

def State.core (s : State) (c : Nat) : Core := s.cores.getD c Core.reset
def State.setCore (s : State) (c : Nat) (x : Core) : State := { s with cores := s.cores.set c x }
def State.cluster (s : State) (n : Nat) : Cluster := s.clusters.getD n Cluster.reset
def State.setCluster (s : State) (n : Nat) (x : Cluster) : State := { s with clusters := s.clusters.set n x }
def State.queue (s : State) (q : Nat) : Queue := s.queues.getD q Queue.reset
def State.setQueue (s : State) (q : Nat) (x : Queue) : State := { s with queues := s.queues.set q x }
def State.channel (s : State) (i : Nat) : Channel := s.channels.getD i Channel.reset
def State.setChannel (s : State) (i : Nat) (x : Channel) : State := { s with channels := s.channels.set i x }
def State.bankOf (s : State) (core b : Nat) : Bank := s.banks.getD (core * 4 + b) Bank.reset
def State.setBank (s : State) (core b : Nat) (x : Bank) : State := { s with banks := s.banks.set (core * 4 + b) x }
def State.task? (s : State) (i : Nat) : Option Task := s.ctxs.get? i
def State.setTask (s : State) (i : Nat) (t : Task) : State := { s with ctxs := s.ctxs.set i t }

/-- The core, cluster, die and context number of a context index. -/
def ctxCore (i : Nat) : Nat := i / 16
def ctxNum (i : Nat) : Nat := i % 16
def coreCluster (c : Nat) : Nat := c / 8
def clusterDie (n : Nat) : Nat := n / 160
def coreDie (c : Nat) : Nat := clusterDie (coreCluster c)

/-- A core for a task, an engine, and the front end or a port as senders of weight (R289, R354). -/
def coreOrigin (core : Nat) (tid : Word) : Origin := { die := coreDie core, cluster := some (coreCluster core), label := tid }
def engineOrigin (cluster : Nat) : Origin :=
  { die := clusterDie cluster, cluster := some cluster, label := BitVec.ofNat 64 cluster }
def frontOrigin : Origin := { die := 0, cluster := none, label := 0 }

/-- The x of a cluster's mesh stop on its die (R1, R2). -/
def clusterX (n : Nat) : Nat := n % 160 % 16

/-- A cluster of the firmware column (R4). -/
def State.inColumn (s : State) (n : Nat) : Bool := decide (n < 160) && decide (clusterX n < s.cfg.colw)

/-- LOCK of a cluster's firewall register (R439). -/
def State.fwLocked (s : State) (n : Nat) : Bool := (s.cluster n).fwall.getLsbD 8

/-- A core launches may use: inside the part, outside the column and every locked cluster, not retired (R4, R218, R439). At every
column width cluster 12 lies outside the column, by R4; the list that names core 100, which R412 has rejected with code 5, is
therefore accepted (DEDUCED, log 58). -/
def State.launchCore (s : State) (c : Nat) : Bool :=
  decide (c < 5120) && !s.inColumn (coreCluster c) && !s.fwLocked (coreCluster c) && !(s.core c).health.retired

/-! ### Mix64 and the hash of lines (R254, R289) -/

/-- Mix64 (R254). -/
def mix64 (x : Word) : Word :=
  let x := x ^^^ (x >>> 33)
  let x := x * 0xFF51AFD7ED558CCD
  let x := x ^^^ (x >>> 33)
  let x := x * 0xC4CEB9FE1A85EC53
  x ^^^ (x >>> 33)

/-- The upper half of Mix64 of a line number (R289). -/
def lineHash (va : Nat) : Nat := (mix64 (BitVec.ofNat 64 (va % 2 ^ 56 / 64))).toNat / 2 ^ 32

/-- The slice of a near page for a requester's die, which also translates every request of that die (R289). -/
def nearSlice (die va : Nat) : Nat := 160 * die + lineHash va * 160 / 2 ^ 32

/-- The package slice of an address (R289, R219). -/
def farSlice (va : Nat) : Nat := lineHash va * 640 / 2 ^ 32

end Sys2Proof.Machine
end

