-- ==== Sys2Proof/Machine/Flags.lean ====
section
/-! DEFINITION. Conditions and flags: the comparisons of R97 on scalar words, rounding codes (R70), and the sticky
FFLAGS of a context (R83, R84). -/

namespace Sys2Proof

/-- A scalar comparison (R97). -/
def Cc.holds (c : Cc) (x y : Word) : Bool :=
  match c with
  | .eq => x == y
  | .ne => x != y
  | .lt => x.slt y
  | .ge => y.sle x
  | .le => x.sle y
  | .gt => y.slt x
  | .ltn => x.ult y
  | .gen => y.ule x
  | .len => x.ule y
  | .gtn => y.ult x

/-- The mode of a code of R69. -/
def Rm.ofCode (n : Nat) : Rm :=
  match n with
  | 1 => .rtz
  | 2 => .rup
  | 3 => .rdn
  | 4 => .rna
  | _ => .rne

end Sys2Proof

namespace Sys2Proof.Machine

/-- Sticky flags are only ever set (R83). -/
def Task.raiseFlags (t : Task) (f : Flags) : Task :=
  { t with ctl := { t.ctl with fflags := t.ctl.fflags ||| BitVec.zeroExtend 64 f } }

/-- The mode a rounding code selects: its own, or the one RND holds (R70, R157). -/
def Task.rounding (t : Task) (rc : Rc) : Rm :=
  match rc with
  | .fixed m => m
  | .dyn => Rm.ofCode (t.ctl.rnd.toNat % 8)

end Sys2Proof.Machine
end

