-- ==== Sys2Proof/Machine/Operands.lean ====
section
/-! DEFINITION. Operand forms: scalar registers and predicates (R33), vector elements and masks (R34 to R36), stream
reads (R158, R303), and tiles (R57). -/

namespace Sys2Proof

/-- Width of an element in bits (R34). -/
def Ty.bits : Ty → Nat
  | .i8 | .n8 | .e4m3 | .e5m2 => 8
  | .i16 | .n16 | .f16 | .bf16 => 16
  | .i32 | .n32 | .f32 => 32
  | .i64 | .n64 | .f64 => 64
  | .e2m1 => 4
  | .bs32 => 128
  | .bs64 => 192

/-- VLMAX of a type (R34). -/
def Ty.vlmax (ty : Ty) : Nat := 8192 / ty.bits

end Sys2Proof

namespace Sys2Proof.Machine

/-! ### Scalar operands -/

/-- s0 reads as zero (R33). -/
def Task.getS (t : Task) (r : SReg) : Word := if r = 0 then 0 else t.regs.s[r]

/-- Writes to s0 are discarded (R33). -/
def Task.setS (t : Task) (r : SReg) (x : Word) : Task :=
  if r = 0 then t else { t with regs := { t.regs with s := t.regs.s.set r x } }

/-- The s register of a number. -/
def Task.sAt (t : Task) (n : Nat) : Word := t.getS (Fin.ofNat 64 n)

/-- p0 reads as true (R33). -/
def Task.getP (t : Task) (n : Nat) : Bool := n == 0 || t.regs.p.getLsbD n

/-- Writes to p0 are discarded (R33). -/
def Task.setP (t : Task) (n : Nat) (b : Bool) : Task :=
  if n = 0 then t
  else { t with regs := { t.regs with p := t.regs.p &&& ~~~(BitVec.twoPow 8 n) ||| (if b then BitVec.twoPow 8 n else 0) } }

/-- The pc of a task set. -/
def Task.setPc (t : Task) (a : Word) : Task := { t with regs := { t.regs with pc := a } }

/-- The control registers of a task set. -/
def Task.setCtl (t : Task) (c : Ctl) : Task := { t with ctl := c }

/-- The flow of a task set. -/
def Task.setFlow (t : Task) (f : Flow) : Task := { t with flow := f }

/-- Sign extension of an immediate to 64 bits. -/
def sext {w : Nat} (x : BitVec w) : Word := x.signExtend 64

/-- A 55-bit address check: bits [63:56] of an address are zero (R130). -/
def addrOk (a : Word) : Bool := a.toNat / 2 ^ 56 == 0

/-! ### Vector operands -/

/-- One element of a register value (R34). -/
def elemGet (v : VWord) (w e : Nat) : Nat := v.toNat / 2 ^ (w * e) % 2 ^ w

/-- The register value with `width` bits at bit `pos` replaced. -/
def fieldSet (v : VWord) (pos width x : Nat) : VWord :=
  let n := v.toNat
  BitVec.ofNat 8192 (n / 2 ^ (pos + width) * 2 ^ (pos + width) + x % 2 ^ width * 2 ^ pos + n % 2 ^ pos)

/-- The register value with one element replaced. -/
def elemSet (v : VWord) (w e x : Nat) : VWord := fieldSet v (w * e) w x

/-- The register value with several elements replaced, in order. -/
def elemSets (v : VWord) (w : Nat) : List (Nat × Nat) → VWord
  | [] => v
  | (e, x) :: xs => elemSets (elemSet v w e x) w xs

/-- The mask bit that governs an element: of the element, or of its byte for e2m1 (R35). -/
def maskAt (k : KWord) (ty : Ty) (e : Nat) : Bool := k.getLsbD (if ty == .e2m1 then e / 2 else e)

/-- The effective length of R36. -/
def Task.effLen (t : Task) (ty : Ty) : Nat := min t.ctl.vl.toNat ty.vlmax

/-- The active elements below n in ascending order (R36, R154). -/
def actives (k : KWord) (ty : Ty) (n : Nat) : List Nat := (List.range n).filter (maskAt k ty)

def Bank.getV (b : Bank) (r : VReg) : VWord := b.v[r]
def Bank.setV (b : Bank) (r : VReg) (x : VWord) : Bank := { b with v := b.v.set r x }

/-- k0 reads as all ones (R35). -/
def Bank.getK (b : Bank) (r : KReg) : KWord := if r = 0 then BitVec.allOnes 1024 else b.k[r]

/-- Writes to k0 are discarded (R35). -/
def Bank.setK (b : Bank) (r : KReg) (x : KWord) : Bank := if r = 0 then b else { b with k := b.k.set r x }

/-! ### Stream operands (R158, R303) -/

/-- The buffer that holds the data of a request, once the engine has given it one. -/
def Bank.bufferOf (b : Bank) (req : Nat) : Option (Nat × Stream) :=
  (List.range 4).findSome? fun i =>
    match b.buf[i]? with
    | some (some s) => if s.req = req then some (i, s) else none
    | _ => none

/-- The stream buffer a q register reads. -/
def Bank.stream? (b : Bank) (q : QReg) : Option (Nat × Stream) :=
  match b.q[q] with
  | none => none
  | some r => b.bufferOf r

/-- A source may be read when it is a v register or a bound stream (R37). -/
def Bank.bound (b : Bank) : VSrc → Bool
  | .v _ => true
  | .q q => b.q[q].isSome

/-- The bytes n elements of w bits take. -/
def bytesOf (n w : Nat) : Nat := (n * w + 7) / 8

/-- The next n elements of a source have arrived, or no more will (R158). -/
def Bank.arrived (b : Bank) (n w : Nat) : VSrc → Bool
  | .v _ => true
  | .q q =>
    match b.stream? q with
    | some (_, s) => s.done || decide (bytesOf n w ≤ s.data.length)
    | none => n == 0

/-- The value of a source read as n elements of w bits: missing stream bytes read as zero. A store of an odd number of e2m1 elements from
a stream so writes 0 in the upper nibble of its last byte (R179, DESIGN CHOICE, log 63). -/
def Bank.srcVal (b : Bank) (n w : Nat) : VSrc → VWord
  | .v r => b.getV r
  | .q q =>
    match b.stream? q with
    | some (_, s) => BitVec.ofNat 8192 (leNat (s.data.take (bytesOf n w)) % 2 ^ (n * w))
    | none => 0

/-- The bank after a source is read: the elements leave the buffer, and the last byte frees it and unbinds the
register (R303, R238). An odd number of e2m1 elements takes the last byte whole, and its other element is lost (R158, DESIGN CHOICE,
log 63). -/
def Bank.take (b : Bank) (n w : Nat) : VSrc → Bank
  | .v _ => b
  | .q q =>
    match b.stream? q with
    | some (i, s) =>
      let rest := s.data.drop (bytesOf n w)
      if s.done && rest.isEmpty then
        { b with q := b.q.set q none, buf := b.buf.set! i none }
      else { b with buf := b.buf.set! i (some { s with data := rest }) }
    | none => b

/-! ### Tiles (R57) -/

/-- The registers tile j of an accumulator of w bits aliases. -/
def tileRegs (w j : Nat) : List Nat :=
  let per := w / 32
  (List.range per).map fun i => per * j + i

/-- Register and element index of a tile element (R57). -/
def tileAt (w j i c : Nat) : Nat × Nat :=
  let per := w / 32
  let rows := 16 / per
  (per * j + i / rows, 16 * (i % rows) + c)

end Sys2Proof.Machine
end

