-- ==== Sys2Proof/Machine/Translate.lean ====
section
/-! DEFINITION. Translation at the slices (13 R324 to R328, 19 R396, R397): descriptors, the four-level walk, and a
slice's cache. -/

namespace Sys2Proof.Machine

/-! ### Physical addresses (R296, R401, R434) -/

/-- The channel of a local physical address: 32 x stack + channel (R296, R434). -/
def channelOf (pa : Nat) : Nat := 32 * ((bitsAt pa 11 8) ^^^ (bitsAt pa 19 16)) + bitsAt pa 16 12

/-- Local memory: target 00 with a low address (R401). -/
def isLocal (pa : Nat) : Bool := pa / 2 ^ 40 == 0

/-- The local form of a physical address: the device's own UALink number is local (R401). -/
def State.localPa (s : State) (pa : Nat) : Nat :=
  if pa / 2 ^ 40 == 2 ^ 10 + s.cfg.ualn then pa % 2 ^ 40 else pa

/-- A physical address inside the map of R401. -/
def paOk (pa : Nat) : Bool := decide (pa < 2 ^ 52) && (pa / 2 ^ 50 != 0 || bitsAt pa 49 40 == 0)

/-- The link a physical address needs, if it leaves the package (R405, R408). -/
def linkOf (pa : Nat) : Option Link := if pa / 2 ^ 50 == 1 then some (.ualink (bitsAt pa 49 40)) else none

/-- The port of port space. -/
def portOf (pa : Nat) : Option Port :=
  if pa / 2 ^ 50 == 2 then some .a else if pa / 2 ^ 50 == 3 then some .b else none

/-- The line of a physical address holds poisoned data, or lies in a retired channel (R434, R443). -/
def State.poisonedAt (s : State) (pa : Nat) : Bool :=
  s.poison.contains (pa / 64) || (isLocal pa && (s.channel (channelOf pa)).retired)

/-! ### Descriptors (R396, R397) -/

/-- Where the descriptor of an address space lies. -/
def State.descPa (s : State) (asid : Nat) : Nat := s.localPa (s.cfg.astab + 32 * asid)

/-- The descriptor of an address space as memory holds it (R396). -/
def State.readDesc (s : State) (asid : Nat) : Desc :=
  let a := s.descPa asid
  { root := s.readPa a 8, regions := s.readPa (a + 8) 8, valid := bitAt (s.readPa (a + 16) 1) 0 }

/-- The descriptor a slice uses: the one it keeps, or the one in memory (R397). -/
def State.descAt (s : State) (slice asid : Nat) : Desc :=
  match (s.cluster slice).descs.get? asid with
  | some d => d
  | none => s.readDesc asid

/-- The descriptor of an address space can be read (R434), and says that the address space is not valid (R397). -/
def State.spaceInvalid (s : State) (asid : Nat) : Bool := !s.poisonedAt (s.descPa asid) && !(s.readDesc asid).valid

/-! ### Walks -/

/-- The levels of a walk (R324): the lowest bit of the index, its width, and whether a leaf may stand there. -/
def walkLevels : List (Nat × Nat × Bool) := [(39, 17, false), (30, 9, true), (21, 9, true), (12, 9, true)]

/-- The leaf a valid entry makes. A 64 KiB group maps from its first page (R326). -/
def leafOf (va lo entry e : Nat) : Leaf :=
  let c64 := bitAt e 7
  let size := if c64 then 16 else lo
  let pa := e % 2 ^ 52 / 2 ^ size * 2 ^ size
  { vbase := va / 2 ^ size * 2 ^ size, pbase := pa, size := size, near := bitAt e 5, io := bitAt e 6, x := bitAt e 4,
    w := bitAt e 3, r := bitAt e 2, entry := entry }

/-- Whether an entry is invalid at a level (R325). -/
def entryInvalid (va lo : Nat) (leafHere : Bool) (e : Nat) : Bool :=
  let leaf := bitAt e 1
  let pa := e % 2 ^ 52
  !bitAt e 0 || bitsAt e 11 8 != 0 || (leaf && !leafHere) || (!leaf && lo == 12) ||
    (leaf && pa / 4096 * 4096 % 2 ^ lo != 0) ||
    (bitAt e 7 && (!(leaf && lo == 12) || bitsAt pa 15 12 != bitsAt va 15 12))

/-- The entries of the 64 KiB group of an entry agree apart from PA[15:12] (R326). -/
def State.groupAgrees (s : State) (entry : Nat) : Bool :=
  let first := entry / 128 * 128
  let e := s.readPa first 8
  (List.range 16).all fun i =>
    let x := s.readPa (first + 8 * i) 8
    x % 4096 == e % 4096 && x / 65536 == e / 65536

/-- An entry of the group of an address maps 64 KiB. -/
def maps64 (va i e : Nat) : Bool := bitAt e 7 && !entryInvalid (va / 65536 * 65536 + 4096 * i) 12 true e

/-- The number of an entry that a page of an inconsistent group may translate by: any of the 16 (R326), a free choice. -/
def State.groupChoice (s : State) (entry : Nat) : Nat :=
  let b := fun (i : Nat) => if s.freeAt i entry then 2 ^ i else 0
  b 0 + b 1 + b 2 + b 3

/-- The leaf of a page in an inconsistent 64 KiB group where the chosen entry, of that page or another, maps 64 KiB; otherwise the
page's own entry decides (R326). -/
def State.groupLeaf (s : State) (va entry : Nat) : Option Leaf :=
  let first := entry / 128 * 128
  let i := s.groupChoice entry
  let e := s.readPa (first + 8 * i) 8
  let group := (List.range 16).any fun j => maps64 va j (s.readPa (first + 8 * j) 8)
  if group && !s.groupAgrees entry && maps64 va i e then
    some { leafOf va 12 (first + 8 * i) (e % 2 ^ 12 + e / 2 ^ 16 * 2 ^ 16) with
      vbase := va / 4096 * 4096, size := 12, pbase := e % 2 ^ 52 / 65536 * 65536 + bitsAt va 15 12 * 4096 }
  else none

/-- Why a walk gives no leaf: an entry is invalid, at its level (XLATE); a node lies outside the map of R401 (PERM); the line of an entry,
or of the descriptor, which has level 0, is poisoned (POISON, R434, R443); or the link to it has no credit (R408). -/
inductive Miss where
  | invalid (entry lo : Nat)
  | outside
  | poisoned (entry lo : Nat)
  | stalled (l : Link)
deriving DecidableEq, Repr

/-- The link over which a node is read (R327). -/
def nodeLink (pa : Nat) : Option Link := (linkOf pa).orElse fun _ => (portOf pa).map .port

/-- What keeps the walker from an entry at a level, which the entry `up` of the level above names. A node in port space may lie in a
page with the IO attribute, which its physical address does not show: a free choice, by which that entry is then invalid (R327,
DESIGN CHOICE, log 54). -/
def State.nodeMiss (s : State) (pa lo : Nat) (up : Nat × Nat) : Option Miss :=
  if !paOk pa then some .outside
  else if (nodeLink pa).any s.noCredit.contains then some (.stalled ((nodeLink pa).getD (.port .a)))
  else if (portOf pa).isSome && s.freeAt 7 (pa / 4096) then some (.invalid up.1 up.2)
  else if s.poisonedAt pa then some (.poisoned pa lo)
  else none

/-- One walk from a node down the given levels, with the entry above and its level: the leaf, or why there is none (R324, R325,
R328). -/
def State.walkFrom (s : State) (va : Nat) : List (Nat × Nat × Bool) → Nat → Nat × Nat → Except Miss Leaf
  | [], _, up => .error (.invalid up.1 up.2)
  | (lo, width, leafHere) :: levels, node, up =>
    let entry := s.localPa (node + 8 * (va / 2 ^ lo % 2 ^ width))
    match s.nodeMiss entry lo up, (if lo = 12 then s.groupLeaf va entry else none) with
    | some m, _ => .error m
    | none, some l => .ok l
    | none, none =>
      let e := s.readPa entry 8
      if entryInvalid va lo leafHere e then .error (.invalid entry lo)
      else if !bitAt e 1 then State.walkFrom s va levels (e % 2 ^ 52 / 4096 * 4096) (entry, lo)
      else .ok (leafOf va lo entry e)

/-- The entry of the root node for an address. -/
def rootEntry (d : Desc) (va : Nat) : Nat := d.root + 8 * (va / 2 ^ 39 % 2 ^ 17)

/-- A walk of an address space; every entry of an invalid one is found invalid (R397). -/
def State.walk (s : State) (d : Desc) (va : Nat) : Except Miss Leaf :=
  if d.valid then s.walkFrom va walkLevels d.root (rootEntry d va, 39) else .error (.invalid (rootEntry d va) 39)

/-- A leaf maps an address. -/
def Leaf.covers (l : Leaf) (va : Nat) : Bool := decide (l.vbase ≤ va) && decide (va < l.vbase + 2 ^ l.size)

/-- The physical address a leaf gives. -/
def Leaf.phys (l : Leaf) (va : Nat) : Nat := l.pbase + (va - l.vbase)

/-- The cached leaf of a slice for an address (R328). -/
def State.cached (s : State) (slice asid va : Nat) : Option Leaf :=
  ((s.cluster slice).cache.find? fun e => e.1 == asid && e.2.covers va).map fun e => e.2

/-- Translation at a slice: its cached leaf, or a walk (R328). -/
def State.translate (s : State) (slice asid va : Nat) : Except Miss Leaf :=
  match s.cached slice asid va with
  | some l => .ok l
  | none =>
    if ((s.cluster slice).descs.get? asid).isNone && s.poisonedAt (s.descPa asid) then
      .error (.poisoned (s.descPa asid) 0)
    else s.walk (s.descAt slice asid) va

/-- Leaves a slice caches (R328). -/
def cacheSize : Nat := 4096

/-- A leaf enters a slice's cache, where the oldest makes room; which leaf goes the spec does not say (DESIGN CHOICE, log 71). -/
def Cluster.cacheLeaf (c : Cluster) (asid : Nat) (l : Leaf) : Cluster :=
  let kept := c.cache.filter fun e => !(e.1 == asid && e.2.vbase == l.vbase && e.2.size == l.size)
  { c with cache := (if kept.length < cacheSize then kept else kept.drop 1) ++ [(asid, l)] }

/-- The leaf grants an access of an ACC code (R327, R333): 0 and 4 need RD, 1 and 5 W, 2 both, 3 X. -/
def Leaf.grants (l : Leaf) (acc : Nat) : Bool :=
  match acc with
  | 0 | 4 => l.r
  | 1 | 5 => l.w
  | 2 => l.r && l.w
  | 3 => l.x
  | _ => true

end Sys2Proof.Machine
end

