-- ==== Sys2Proof/Machine/Access.lean ====
section
/-! DEFINITION. One access of an agent: where it lands (scratchpad, memory, an IO page, a view's private line), what
refuses it in the order of R329, and what its performance changes besides the bytes. -/

namespace Sys2Proof

/-- Bytes of a view operator's element (R270). -/
def ViewOp.bytes : ViewOp → Nat
  | .addI32 | .addF32 | .minI32 | .maxI32 | .minnN32 | .maxnN32 => 4
  | .addI64 | .minI64 | .maxI64 | .minnN64 | .maxnN64 => 8
  | .addBs32 => 16
  | .addBs64 => 24
  | .and | .or | .xor => 8

/-- The identity of a view operator, per element (R270). -/
def ViewOp.identity : ViewOp → Nat
  | .addF32 => 0x80000000
  | .minI32 => 0x7FFFFFFF
  | .minI64 => 0x7FFFFFFFFFFFFFFF
  | .maxI32 => 0x80000000
  | .maxI64 => 0x8000000000000000
  | .minnN32 => 0xFFFFFFFF
  | .minnN64 | .and => 0xFFFFFFFFFFFFFFFF
  | _ => 0

/-- A line of identities; the operators of 16- and 24-byte elements have identity 0. -/
def ViewOp.identityLine (op : ViewOp) : LineWord :=
  let b := op.bytes
  let e := fun (i : Nat) => op.identity * 2 ^ (8 * b * i)
  if op.identity == 0 then 0
  else BitVec.ofNat 512 ((List.range (64 / b)).foldl (fun x i => x + e i) 0)

end Sys2Proof

namespace Sys2Proof.Machine

/-- Where an access lands: a byte of a scratchpad, a physical address with its home slice, an IO store at a port, or
a view's private line. -/
inductive Place where
  | spad (byte : Nat)
  | mem (pa home : Nat)
  | io (port : Port) (pa : Nat)
  | arena (chain seg line : Nat)
deriving DecidableEq, Repr

/-- Why an access is not performed: a cause of R334 with its address, the slice and the entry and level a monitor
could watch, or for a poisoned node of a walk its line; a line another agent owns, or a read of the weight store in its bank's
refresh window (it waits); or a link without credit (R408). -/
inductive Stop where
  | refuse (code addr slice : Nat) (entry : Option (Nat × Nat))
  | hold
  | refresh (slice agent line : Nat)
  | link (l : Link) (va : Nat)
deriving DecidableEq, Repr

/-- An access of context i; the context is its agent (R308). -/
def taskWho (i : Nat) (t : Task) : Who :=
  let core := ctxCore i
  { die := coreDie core, core := some core, cluster := some (coreCluster core), engine := false, asid := t.ident.asid,
    path := some t.ident.path, launch := t.ident.launch, agent := i, req := none, label := t.ident.tid,
    views := t.views }

/-- An access of die 0 by a port, a peer or the front end, checked as an engine access (R289, R368, R403). -/
def outsideWho (asid agent : Nat) : Who :=
  { die := 0, core := none, cluster := none, engine := true, asid := asid, path := none, launch := none, agent := 2 ^ 17 + agent,
    req := none, label := 0, views := [] }

/-! ### Scratchpad windows (R287) -/

/-- The granules a launch holds on a core, ascending (R374). -/
def State.partitionOf (s : State) (core launch : Nat) : List Nat :=
  (List.range 20).filter fun g => (s.core core).granules[g]? == some (.launch launch)

/-- Whether an address lies in the range that is never translated (R287). -/
def inWindow (va : Nat) : Bool := va / 2 ^ 49 == 0x78

/-- The core and offset a window address names. -/
def windowTarget (w : Who) (va : Nat) : Option (Nat × Nat) :=
  if va / 2 ^ 48 == 0xF0 then w.core.map fun c => (c, va % 2 ^ 48)
  else if va % 2 ^ 48 < 8 * 2 ^ 20 then w.cluster.map fun n => (8 * n + va % 2 ^ 48 / 2 ^ 20, va % 2 ^ 20)
  else none

/-- The scratchpad byte of a window address, or nothing where R287 raises XLATE. -/
def State.windowAt (s : State) (w : Who) (va len : Nat) : Option Nat :=
  match windowTarget w va, w.launch with
  | some (c, off), some l =>
    match (s.partitionOf c l)[off / 16384]? with
    | some g =>
      if off + len ≤ (s.partitionOf c l).length * 16384 && !(s.core c).health.retired then
        some (c * 327680 + g * 16384 + off % 16384)
      else none
    | none => none
  | _, _ => none

/-! ### Ownership of destination lines (R320) -/

/-- The key of an owned line: a physical line, or a line of a scratchpad above every physical one. -/
def spadLine (k : Nat) : Nat := 2 ^ 46 + k / 64

/-- A destination line that no page mapped when its request took it is that request's as soon as one does (DESIGN CHOICE, log 70). -/
def State.mappedNow (s : State) (q : CopyReq) (line : Nat) : Bool :=
  q.unmapped.any fun v =>
    match s.translate (nearSlice (coreDie q.core) (64 * v)) q.ident.asid (64 * v) with
    | .ok l => s.localPa (l.phys (64 * v)) / 64 == line
    | .error _ => false

/-- A copy request owns a line. -/
def State.claims (s : State) (q : CopyReq) (line : Nat) : Bool := q.own.contains line || s.mappedNow q line

/-- The accessor is a copy request that took the line before request q did: of two whose lines came to be one when a page mapped them,
the earlier take comes first (DESIGN CHOICE, log 70). -/
def State.tookFirst (s : State) (w : Who) (q : CopyReq) (line : Nat) : Bool :=
  s.clusters.any fun c => c.2.engine.active.any fun r => w.req == some r.id && decide (r.turn < q.turn) && s.claims r line

/-- A line an active copy request other than the accessor owns. -/
def State.owned (s : State) (w : Who) (line : Nat) : Bool :=
  s.clusters.any fun c => c.2.engine.active.any fun q => w.req != some q.id && s.claims q line && !s.tookFirst w q line

/-! ### Views (R271 to R273) -/

/-- The view entry that covers an address of a core's data access. -/
def viewAt (w : Who) (va : Nat) : Option View :=
  (w.views.find? fun e => decide (e.2.base ≤ va) && decide (va < e.2.base + e.2.len)).map fun e => e.2

/-- A segment of a chain. -/
def Chain.segment? (c : Chain) (id : Nat) : Option Segment := c.segs.find? fun g => g.id == id

/-- A chain with one segment changed. -/
def Chain.mapSeg (c : Chain) (id : Nat) (f : Segment → Segment) : Chain :=
  { c with segs := c.segs.map fun g => if g.id == id then f g else g }

/-- Whether a private line is held. -/
def State.heldLine (s : State) (chain seg line : Nat) : Option LineWord :=
  match s.chains.get? chain with
  | some c => match c.segment? seg with
    | some g => g.lines.get? line
    | none => none
  | none => none

/-- Lines of the view arena in use. -/
def State.arenaUsed (s : State) : Nat :=
  (s.chains.map fun c => (c.2.segs.map fun g => g.lines.length).sum).sum

/-- The lines the backing holds: 1/64 of the installed capacity (R273). -/
def arenaLines : Nat := 2 ^ 28

/-- The lines a first touch allocates: its own, or its 192-byte group under add.bs64 (R271). -/
def View.group (v : View) (line : Nat) : List Nat :=
  if v.op == .addBs64 then
    let first := v.base / 64
    let g := first + (line - first) / 3 * 3
    [g, g + 1, g + 2]
  else [line]

/-- Allocate the private lines of a first touch, filled with the identity. A handler of MERGE runs after its task's halt or join has closed the
task's segment: what it accesses in the range of the view lies in that segment while the chain still holds it, and once the segment has
been combined into another a read gives 0 and a write is lost (R278, DESIGN CHOICE, log 91). -/
def State.touchLine (s : State) (v : View) (line : Nat) : State :=
  match s.heldLine v.chain v.seg line, s.chains.get? v.chain with
  | none, some c =>
    let fill := fun (g : Segment) =>
      { g with lines := (v.group line).foldl (fun ls n => ls.set n v.op.identityLine) g.lines }
    { s with chains := s.chains.set v.chain (c.mapSeg v.seg fill) }
  | _, _ => s

/-! ### Checks at the home slice (R329) -/

/-- The top L bits of two paths agree (R282). -/
def samePrefix (l : Nat) (p q : Word) : Bool := p.toNat / 2 ^ (64 - l) == q.toNat / 2 ^ (64 - l)

/-- Whether a region accepts a write (R282). -/
def Region.accepts (r : Region) (w : Who) : Bool :=
  if r.engine then w.engine && w.cluster == some r.writer.toNat
  else match w.path with
    | some p => samePrefix r.prefixLen p r.writer
    | none => false

/-- The writer check: one region decides; where regions overlap the spec leaves it open, a free choice (R281). -/
def State.writerOk (s : State) (w : Who) (va len : Nat) : Bool :=
  match ((s.regions.getD w.asid []).filter fun r => decide (r.base < va + len) && decide (va < r.base + r.len)) with
  | [] => true
  | [r] => r.accepts w
  | _ => s.freeAt 4 va

/-- Whether an access kind writes, and whether it reads (R333). -/
def accWrites (acc : Nat) : Bool := acc == 1 || acc == 2 || acc == 5
def accReads (acc : Nat) : Bool := acc != 1 && acc != 5

/-- A last write by another agent that overlaps without equalling (R323). -/
def State.mixedHit (s : State) (w : Who) (pa len home : Nat) : Bool :=
  (s.cluster home).dbg.ctl.getLsbD 9 &&
    match (s.cluster home).lastWrites.get? (pa / 64) with
    | some l =>
      l.agent != w.agent && decide (l.lo < pa % 64 + len) && decide (pa % 64 < l.lo + l.len) &&
        !(l.lo == pa % 64 && l.len == len)
    | none => false

/-- The weight-store image holds a line (R292). -/
def State.imageLine (s : State) (pa : Nat) : Option (Image × Nat) :=
  match s.wsImage with
  | some im => (im.lines.get? (pa / 64)).map fun v => (im, v)
  | none => none

/-- Poisoned data: a poisoned line, unless a write covers it whole (R443), or a retired channel (R434), whose lines that the weight store
holds are read from there (R292, DEDUCED, log 102). -/
def State.poisonHit (s : State) (acc pa : Nat) (whole : Bool) : Bool :=
  (s.poison.contains (pa / 64) && !(whole && accWrites acc && acc != 2)) ||
    (isLocal pa && (s.channel (channelOf pa)).retired && (s.imageLine pa).isNone)

/-- What the image refuses: every write, and a fill under another address space or address (R292). -/
def State.imageRefuses (s : State) (w : Who) (acc va pa : Nat) : Bool :=
  match s.imageLine pa with
  | some (im, v) => accWrites acc || im.asid != w.asid || v != va / 64
  | none => false

/-- A read of an image line waits for its bank's refresh window (R294). -/
def State.imageWaits (s : State) (va pa : Nat) : Bool :=
  match s.imageLine pa, s.refreshBank with
  | some (im, _), some b => va / 64 % im.banks == b
  | _, _ => false

/-- Checks 3 to 5 of R329, at the home slice; an access to a line that another agent owns waits before the line itself is looked at
(R320). The address of POISON is the line's, as the table of R334 says; for an element of a vector or tile access UPC_ADDR is the element's
address, whatever the cause (R181, R206, DEDUCED, log 72). -/
def State.homeChecks (s : State) (w : Who) (acc va len pa home : Nat) (whole : Bool) : Except Stop Place :=
  if accWrites acc && !s.writerOk w va len then .error (.refuse 7 va home none)
  else if s.owned w (pa / 64) then .error .hold
  else if s.imageWaits va pa then .error (.refresh home w.agent (pa / 64))
  else if s.mixedHit w pa len home then .error (.refuse 9 va home none)
  else if s.poisonHit acc pa whole then .error (.refuse 11 (va / 64 * 64) home none)
  else .ok (.mem pa home)

/-- Checks of a translated access, in the order of R329; a line of the weight store is served where the image has it, over no link
(R292). Whether another device refuses an access is a free value, and its
memory is held here with the rest (DESIGN CHOICE, log 30). An IO page that maps no port space, which R402 forbids, refuses every
access (DESIGN CHOICE, log 30). -/
def State.leafChecks (s : State) (w : Who) (acc va len slice : Nat) (l : Leaf) (scalar whole : Bool) :
    Except Stop Place :=
  let pa := s.localPa (l.phys va)
  let home := if l.near && (s.imageLine pa).isNone then slice else farSlice va
  let entry := some (l.entry, if l.size == 16 then 12 else l.size)
  if !l.grants acc || !paOk pa || (l.io && !(acc == 1 && scalar && (portOf pa).isSome)) then .error (.refuse 6 va slice entry)
  else if s.imageRefuses w acc va pa then .error (.refuse 6 va home none)
  else if (s.imageLine pa).isSome then s.homeChecks w acc va len pa home whole
  else
    match (if l.io then portOf pa else none) with
    | some p =>
      if !s.writerOk w va len then .error (.refuse 7 va home none)
      else if s.noCredit.contains (.port p) then .error (.link (.port p) va)
      else .ok (.io p pa)
    | none =>
      match linkOf pa with
      | some k =>
        if accWrites acc && !s.writerOk w va len then .error (.refuse 7 va home none)
        else if s.noCredit.contains k then .error (.link k va)
        else if s.freeAt 5 va then .error (.refuse 6 va slice none)
        else s.homeChecks w acc va len pa home whole
      | none => s.homeChecks w acc va len pa home whole

/-- An access to a view's range goes to the private line (R271), unless its page is an IO page (R229), whose entry a monitor then
watches (R335), or the arena is full (R273). -/
def State.redirect (s : State) (w : Who) (v : View) (va : Nat) : Except Stop Place :=
  let slice := nearSlice w.die va
  let io := match s.translate slice w.asid va with
    | .ok l => if l.io then some (l.entry, if l.size == 16 then 12 else l.size) else none
    | .error _ => none
  let full := (s.heldLine v.chain v.seg (va / 64)).isNone && decide (arenaLines < s.arenaUsed + (v.group (va / 64)).length)
  if io.isSome || full then .error (.refuse 6 va slice io) else .ok (.arena v.chain v.seg (va / 64))

/-- What stops an access whose walk gives no leaf; of a poisoned node the address is that of its line, and a monitor would watch the
entry (R334, R338, DEDUCED, log 54). -/
def Miss.stop (m : Miss) (va slice : Nat) : Stop :=
  match m with
  | .invalid e lo => .refuse 5 va slice (some (e, lo))
  | .outside => .refuse 6 va slice none
  | .poisoned e lo => .refuse 11 (e / 64 * 64) slice (some (e, lo))
  | .stalled l => .link l va

/-- Where an access lands, or what stops it; an address past bit 55 is refused as one that does not translate (R324).
`scalar` marks a scalar store, `whole` a write of a whole line in one
request. An instruction fetch (ACC 3) from the range of a view reads the real tile: R272 lists the accesses that a view redirects, and
fetches are none of them, though R271 says every access (DEDUCED, log 73). -/
def State.locate (s : State) (w : Who) (acc va len : Nat) (scalar whole : Bool) : Except Stop Place :=
  let slice := nearSlice w.die va
  if 2 ^ 56 ≤ va then .error (.refuse 5 va slice none)
  else if inWindow va then
    match s.windowAt w va len with
    | some k =>
      if s.owned w (spadLine k) then .error .hold
      else if s.poison.contains (spadLine k) && !(whole && acc != 2) then .error (.refuse 11 (va / 64 * 64) slice none)
      else .ok (.spad k)
    | none => .error (.refuse 5 va slice none)
  else
    match (if acc ≤ 2 then viewAt w va else none) with
    | some v => s.redirect w v va
    | none =>
      match s.translate slice w.asid va with
      | .error m => .error (m.stop va slice)
      | .ok l => s.leafChecks w acc va len slice l scalar whole

/-! ### Counters (R346 to R348, R355) -/

/-- The events marked core in R347: CF does not restrict them. -/
def coreEvent (code : Nat) : Bool := code == 1 || (3 ≤ code && code ≤ 7) || code == 14 || code == 16 || code == 20

/-- Counter i of a core counts an event of a context. -/
def Core.counts (c : Core) (i ctx code : Nat) : Bool :=
  let m := (c.pms.toList.getD i 0).toNat
  m % 256 == code && (coreEvent code || !bitAt m 16 || bitsAt m 20 17 == ctx)

/-- Add events to the counters of a core that select them; none while a DIP halts it (R348). -/
def Core.count (c : Core) (ctx code n : Nat) : Core :=
  if c.dip || c.pms == Vector.replicate 8 0 then c
  else
    let one := fun (i : Fin 8) => if c.counts i ctx code then c.pmc[i] + BitVec.ofNat 64 n else c.pmc[i]
    { c with pmc := Vector.ofFn one }

/-- Count events of a context. -/
def State.countEvent (s : State) (i code n : Nat) : State :=
  if (s.core (ctxCore i)).pms == Vector.replicate 8 0 then s
  else s.setCore (ctxCore i) ((s.core (ctxCore i)).count (ctxNum i) code n)

/-- Count at the slice counters that select a code (R355). -/
def Debug.count (d : Debug) (code n : Nat) : Debug :=
  let one := fun (i : Fin 4) => if d.ssel[i].toNat % 256 == code then d.scnt[i] + BitVec.ofNat 64 n else d.scnt[i]
  { d with scnt := Vector.ofFn one }

def State.countSlice (s : State) (slice code n : Nat) : State :=
  let c := s.cluster slice
  if c.dbg.ssel == Vector.replicate 4 0 then s
  else s.setCluster slice { c with dbg := c.dbg.count code n }

/-- A line that no L1 of this device may hold: of an IO page (R286), or of another device (R405). -/
def State.uncached (s : State) (w : Who) (va : Nat) : Bool :=
  match s.translate (nearSlice w.die va) w.asid va with
  | .ok l => (viewAt w va).isNone && (l.io || (linkOf (s.localPa (l.phys va))).isSome)
  | .error _ => false

/-- The key under which the directory holds a private line, above every physical line, and the slice that holds it (R273). -/
def arenaKey (seg line : Nat) : Nat := (seg + 1) * 2 ^ 50 + line
def Chain.lineSlice (c : Chain) (seg line : Nat) : Nat := Config.arenaSlice c.hoist.toNat seg line % 640

/-- The directory entry of a private line at its slice. -/
def Chain.holder (c : Chain) (seg line : Nat) : Holder := { slice := c.lineSlice seg line, asid := c.asid, vline := line }

/-- The slice that holds the line of a place holds it for an accessor: only then may an L1 hold it (R286, R290). -/
def State.heldFor (s : State) (w : Who) (p : Place) (va : Nat) : Bool :=
  match p with
  | .mem pa home => s.directory.get? (pa / 64) == some { slice := home, asid := w.asid, vline := va / 64 }
  | .arena c g line => match s.chains.get? c, s.directory.get? (arenaKey g line) with
    | some ch, some h => h == ch.holder g line
    | _, _ => false
  | _ => false

/-- An access of a core finds its line in L1 and makes no request for it: the spec gives no replacement rule, so which does is a free value
(DESIGN CHOICE, log 3). A line of an IO page, or of another device, is never in L1 (R286, R405). -/
def State.hitsL1 (s : State) (w : Who) (acc va len : Nat) : Bool :=
  match s.locate w acc va len false false with
  | .ok p => s.heldFor w p va && !s.uncached w va && s.freeAt 6 va
  | .error _ => false

/-- A line that a load or store of context i accesses hits L1, or misses it, or is none that L1 may hold. -/
def State.countLine (s : State) (i : Nat) (w : Who) (va : Nat) (hit : Bool) : State :=
  if (s.core (ctxCore i)).pms == Vector.replicate 8 0 then s
  else if inWindow va then s.countEvent i 12 1
  else if s.uncached w va then s
  else s.countEvent i (if hit then 10 else 11) 1

/-- An atomic is performed at its home slice and looks up no line of L1 (R137); in a window it is an element access. -/
def State.countAtomic (s : State) (i va : Nat) : State := if inWindow va then s.countEvent i 12 1 else s

/-! ### What a translation leaves behind (R328, R397) -/

/-- A request translated at a slice: a hit, or a walk by which the slice keeps the descriptor and the leaf. A descriptor that cannot be read
gives a walk nothing to go on with, and the slice keeps nothing of it (R434, R443). -/
def State.noteTranslation (s : State) (slice asid va : Nat) : State :=
  match s.cached slice asid va with
  | some _ => s.countSlice slice 3 1
  | none =>
    if ((s.cluster slice).descs.get? asid).isNone && s.poisonedAt (s.descPa asid) then s.countSlice slice 4 1
    else
    let d := s.descAt slice asid
    let c := s.cluster slice
    let c := { c with descs := c.descs.set asid d }
    let c := match s.walk d va with
      | .ok l => c.cacheLeaf asid l
      | .error _ => c
    (s.setCluster slice c).countSlice slice 4 1

/-- MIXED counts at the slice that raises it (R355). -/
def State.countMixed (s : State) (slice code : Nat) : State := if code == 9 then s.countSlice slice 8 1 else s

/-- A refused access of a die has been translated too, and a MIXED counts (R355): the walk that meets a poisoned node leaves the
descriptor. What the core or a view refuses reaches no translation. -/
def State.noteRefused (s : State) (die asid code addr slice : Nat) (entry : Option (Nat × Nat)) : State :=
  if inWindow addr || 2 ^ 56 ≤ addr then s
  else if code == 11 && entry.isSome then
    let c := s.cluster slice
    let kept := if entry.any (fun e => e.2 == 0) then c else { c with descs := c.descs.set asid (s.descAt slice asid) }
    (s.setCluster slice kept).countSlice slice 4 1
  else (s.noteTranslation (nearSlice die addr) asid addr).countMixed slice code

/-- An access has to wait: a stall on the weight store's refresh counts once (R294, R355). -/
def State.heldAt (s : State) (z : Stop) : State :=
  match z with
  | .refresh slice agent line =>
    if s.stalls.contains (agent, line) then s else { s with stalls := s.stalls ++ [(agent, line)] }.countSlice slice 6 1
  | _ => s

/-! ### Accesses that a UALink holds (R405) -/

/-- The time limit of a UALink access, in ns (R405). -/
def linkLimit : Nat := 2000000

/-- An access that a UALink has held since a time for 2 ms. -/
def overdue (since : Option Nat) (now : Nat) : Bool := since.any fun t => decide (t + linkLimit ≤ now)

/-- The keys under which the machine holds since when a UALink has kept back an access of no task: a read through the memory window, a
container load, the first posted write of the window, an incoming transfer, a doorbell slot of a port, and a transfer. -/
def windowKey : Nat := 0
def loadKey : Nat := 1
def inboundKey : Nat := 2
def incomingKey : Nat := 3
def doorKey (port : Port) (slot : Nat) : Nat := 4 + 2 * slot + (if port == .a then 0 else 1)
def transferKey (id : Nat) : Nat := 2 ^ 20 + id

/-- The access under a key has been held for 2 ms. -/
def State.lateLink (s : State) (key : Nat) : Bool := overdue (s.linked.get? key) s.stime

/-- What stops the access under a key is a UALink that has held it for 2 ms. -/
def State.lateStop (s : State) (key : Nat) (z : Stop) : Bool :=
  match z with
  | .link (.ualink _) _ => s.lateLink key
  | _ => false

/-- What stopped the access under a key, noted: a UALink since when. -/
def State.holdLink (s : State) (key : Nat) (z : Stop) : State :=
  match z with
  | .link (.ualink _) _ => if (s.linked.get? key).isSome then s else { s with linked := s.linked.set key s.stime }
  | z => s.heldAt z

/-- The access under a key is over. -/
def State.unlink (s : State) (key : Nat) : State := { s with linked := s.linked.erase key }

/-! ### What a performed access leaves behind -/

/-- The address of the page that an entry at a level indexes, in the node that a walk for va meets: for the lowest level a 64 KiB leaf
may have been read from the entry of another page of its group (R326). -/
def entryVa (va lo entry : Nat) : Nat := if lo = 12 then va / 2 ^ 21 * 2 ^ 21 + entry / 8 % 512 * 4096 + va % 4096 else va

/-- An entry grants the access a monitor waits for (R336): valid, and pointing on or a leaf that permits it. -/
def State.entryGrants (s : State) (va lo acc entry : Nat) (scalar : Bool) : Bool :=
  let e := s.readPa entry 8
  let page := entryVa va lo entry
  let l := leafOf page lo entry e
  !entryInvalid page lo (lo != 39) e && (!bitAt e 1 || (l.grants acc && !(l.io && !(acc == 1 && scalar))))

/-- A watched signal after a write to a line (R370). -/
def SignalWatch.fire (s : State) (line : Nat) (x : SignalWatch) : SignalWatch :=
  if x.pa / 64 == line && x.cc.holds (s.word x.pa) x.comparand then { x with met := true } else x

/-- The monitors of a slice, and the signals watched there, after a write to a line (R336, R338, R370). -/
def Cluster.fire (s : State) (line : Nat) (c : Cluster) : Cluster :=
  { c with
    monitors := c.monitors.map fun m =>
      (m.1, if m.2.entry / 64 == line && s.entryGrants m.2.va.toNat m.2.lo m.2.acc m.2.entry m.2.scalar then
        { m.2 with fired := true } else m.2)
    engineMonitors := c.engineMonitors.map fun m =>
      (m.1, if m.2.entry / 64 == line && s.entryGrants m.2.va m.2.lo (if m.2.write then 5 else 4) m.2.entry false then
        { m.2 with fired := true } else m.2)
    signals := c.signals.map fun x => (x.1, x.2.fire s line) }

/-- A line of physical memory has been written: monitors on it are tested. -/
def State.fireMonitors (s : State) (line : Nat) : State :=
  { s with clusters := s.clusters.map fun c => (c.1, c.2.fire s line) }

/-- A line that some queue has pinned (R376). -/
def State.pinnedLine (s : State) (line : Nat) : Bool := s.queues.any fun q => q.2.pinned.contains line

/-- A core of a cluster logs or samples, so that the cluster's slice holds its rings (R291, R343). -/
def State.ringsHeld (s : State) (n : Nat) : Bool := (List.range 8).any fun i => (s.core (8 * n + i)).logCtl &&& 0x1F0001 != 0

/-- Lines of L2 that a slice has room for (R6, R291): its 8 MiB but for the spill rings, the log and sample rings, and the banks of the
weight-store image. -/
def State.sliceLines (s : State) (slice : Nat) : Nat :=
  131072 - 8192 - (if s.ringsHeld slice then 5120 else 0) - 8192 * s.wsImage.elim 0 fun im => im.banks

/-- The lines that L2 of a slice holds, those of the weight-store image apart. -/
def State.l2Lines (s : State) (slice : Nat) : List Nat :=
  (s.directory.filter fun e => e.2.slice == slice && (s.imageLine (64 * e.1)).isNone).map fun e => e.1

/-- Lines leave a slice, and their mixed-size records are lost (R290, R323). -/
def State.dropLines (s : State) (slice : Nat) (lines : List Nat) : State :=
  let c := s.cluster slice
  { s.setCluster slice { c with lastWrites := c.lastWrites.filter fun e => !lines.contains e.1 } with
    directory := s.directory.filter fun e => !lines.contains e.1 }

/-- A slice makes room for `more` lines, on account of a line. It drops as many of its lines as it must, no pinned one; which, the spec does not say: a free
choice (R6, R291, DESIGN CHOICE, log 84). -/
def State.fitSlice (s : State) (slice more line : Nat) : State :=
  let held := s.l2Lines slice
  let excess := held.length + more - s.sliceLines slice
  if excess = 0 then s
  else
    let loose := held.filter fun n => !s.pinnedLine n
    let first := Config.victim s.free slice line % (loose.length + 1)
    s.dropLines slice ((loose.drop first ++ loose.take first).take excess)

/-- A line comes to be held at a slice, under a name. -/
def State.putLine (s : State) (line : Nat) (h : Holder) : State :=
  let s := s.fitSlice h.slice 1 line
  { s with directory := s.directory.set line h }

/-- The directory entry of a line moves to the slice and name that fill it; another holder is recalled (R290), and
with it its mixed-size record. An image line is never recalled (R292). -/
def State.holdLine (s : State) (w : Who) (va pa home : Nat) : State :=
  let h : Holder := { slice := home, asid := w.asid, vline := va / 64 }
  match s.directory.get? (pa / 64) with
  | some old =>
    if old = h || (s.imageLine pa).isSome then s
    else ((s.dropLines old.slice [pa / 64]).putLine (pa / 64) h).countSlice home 5 1
  | none => s.putLine (pa / 64) h

/-- The directory takes a line back from the slice that holds it, whose mixed-size record of it is lost (R290, R323); an image line
is never recalled (R292). -/
def State.recall (s : State) (line : Nat) : State :=
  match s.directory.get? line with
  | none => s
  | some h =>
    if (s.imageLine (64 * line)).isSome then s else (s.dropLines h.slice [line]).countSlice h.slice 5 1

/-- The bank whose refresh window is open at a time (R294). -/
def refreshAt (stime : Nat) : Option Nat :=
  let phase := stime % 32000
  if phase % 2000 < 500 && phase / 2000 < 8 then some (phase / 2000) else none

/-- The window that is open now; another window's stalls are over. -/
def State.refresh (s : State) : State :=
  let b := refreshAt s.stime
  { s with refreshBank := b, stalls := if b = s.refreshBank then s.stalls else [] }

/-- The last write of a line, kept while mixed sizes are checked (R323). -/
def State.noteWrite (s : State) (w : Who) (pa len home : Nat) : State :=
  let c := s.cluster home
  if c.dbg.ctl.getLsbD 9 then
    s.setCluster home { c with lastWrites := c.lastWrites.set (pa / 64) { lo := pa % 64, len := len, agent := w.agent } }
  else s

/-- A watchpoint that an access hits (R354). -/
def Watch.hit (p : Watch) (w : Who) (acc va len : Nat) : Bool :=
  let kind := p.word0.toNat / 2 ^ 62
  let base := bitsAt p.word0.toNat 55 6 * 64
  let n := p.len.toNat
  let asid := p.word2.toNat % 65536
  (if acc == 2 then kind != 0 else kind == 3 || kind == (if accWrites acc then 1 else 2)) && n % 64 == 0 && decide (64 ≤ n) && decide (n ≤ 1048576) && asid == w.asid && decide (va < base + n) &&
    decide (base < va + len)

/-- Watchpoint hits wait for the DIP of the accessor's cluster. -/
def State.noteWatch (s : State) (w : Who) (acc va len : Nat) : State :=
  match (List.range 8).find? fun i => (s.watches.toList.getD i Watch.reset).hit w acc va len with
  | some i =>
    { s with hits := s.hits ++ [{ index := i, addr := BitVec.ofNat 64 va, who := w.label, acc := acc, cluster := w.cluster }] }
  | none => s

/-- Add a range of pages to the export ranges of a launch, merging ranges that touch (R446). -/
def Launch.exportRange (l : Launch) (target device start stop : Nat) : Launch :=
  let touches := fun (e : Export) =>
    e.target == target && e.device == device && decide (e.start ≤ stop) && decide (start ≤ e.start + e.len)
  let joined := l.exports.filter touches
  let lo := (joined.map fun e => e.start).foldl min start
  let hi := (joined.map fun e => e.start + e.len).foldl max stop
  let rest := l.exports.filter fun e => !touches e
  if rest.length < 256 then
    { l with exports := rest ++ [{ target := target, device := device, start := lo, len := hi - lo }] }
  else { l with overflow := true }

/-- One page. -/
def Launch.exportPage (l : Launch) (target device page : Nat) : Launch := l.exportRange target device page (page + 4096)

/-- A launch's write beyond the package is tracked (R446). -/
def State.noteExport (s : State) (w : Who) (pa : Nat) : State :=
  match w.launch with
  | some l =>
    match s.launches.get? l, pa / 2 ^ 50 with
    | some x, 1 => { s with launches := s.launches.set l (x.exportPage 2 (bitsAt pa 49 40) (pa % 2 ^ 40 / 4096 * 4096)) }
    | some x, 2 => { s with launches := s.launches.set l (x.exportPage 0 0 (pa % 2 ^ 50 / 4096 * 4096)) }
    | some x, 3 => { s with launches := s.launches.set l (x.exportPage 1 0 (pa % 2 ^ 50 / 4096 * 4096)) }
    | _, _ => s
  | none => s

/-- L2 hits and misses of a home slice: the line was held there or it was filled (R355). -/
def State.countL2 (s : State) (pa home : Nat) : State :=
  match s.directory.get? (pa / 64) with
  | some h => if h.slice == home then s.countSlice home 1 1 else s.countSlice home 2 1
  | none => s.countSlice home 2 1

/-- What an access performed at a physical address changes besides the bytes. Lines of other devices are not held
here, and no slice keeps a record of one (R405), but for those that the weight store has (R292). `more` says that it makes no request of its
own for the line: it found it in L1, or its instruction has asked for it (R289, R355). -/
def State.noted (s : State) (w : Who) (acc va len pa home : Nat) (more : Bool) : State :=
  let near := (linkOf pa).isNone || (s.imageLine pa).isSome
  let s := if near && !more then (s.countL2 pa home).holdLine w va pa home else s
  let s := if accWrites acc then
      ((if near then s.noteWrite w pa len home else s).noteExport w pa).fireMonitors (pa / 64) else s
  s.noteWatch w acc va len

/-! ### Performing -/

/-- The value of len bytes at a place. -/
def State.readAt (s : State) (p : Place) (va len : Nat) : Nat :=
  match p with
  | .spad k => s.spad.readNat k len
  | .mem pa _ => s.readPa pa len
  | .io _ _ => 0
  | .arena c g line =>
    match s.heldLine c g line with
    | some l => l.toNat / 2 ^ (8 * (va % 64)) % 2 ^ (8 * len)
    | none => 0

/-- A line with len bytes replaced. -/
def lineSet (l : LineWord) (off len x : Nat) : LineWord :=
  let n := l.toNat
  BitVec.ofNat 512
    (n / 2 ^ (8 * (off + len)) * 2 ^ (8 * (off + len)) + x % 2 ^ (8 * len) * 2 ^ (8 * off) + n % 2 ^ (8 * off))

/-- Write len bytes at a place. A whole-line write clears the line's poison (R443). -/
def State.writeAt (s : State) (p : Place) (va len x : Nat) (whole : Bool) : State :=
  match p with
  | .spad k =>
    { s with spad := s.spad.writeNat k len x, poison := if whole then s.poison.filter (· != spadLine k) else s.poison }
  | .mem pa _ =>
    { s with mem := s.mem.writeNat pa len x, poison := if whole then s.poison.filter (· != pa / 64) else s.poison }
  | .io port pa => { s with posted := s.posted ++ [{ port := port, addr := pa % 2 ^ 50, data := leBytes len x }] }
  | .arena c g line =>
    match s.chains.get? c with
    | some ch =>
      let put := fun (seg : Segment) => match seg.lines.get? line with
        | some l => { seg with lines := seg.lines.set line (lineSet l (va % 64) len x) }
        | none => seg
      { s with chains := s.chains.set c (ch.mapSeg g put) }
    | none => s

/-- A private line is asked for at the slice that holds it, or comes to be held there (R273). -/
def State.askArena (s : State) (chain seg line : Nat) : State :=
  match s.chains.get? chain with
  | some c =>
    let h := c.holder seg line
    let k := arenaKey seg line
    let counted := s.countL2 (64 * k) h.slice
    if s.directory.get? k = some h then counted else counted.putLine k h
  | none => s

/-- An access to a line of a view: the private lines that it allocates, each filled at its slice, or the one it asks for. -/
def State.readyArena (s : State) (v : View) (line : Nat) (more : Bool) : State :=
  let lines := if (s.heldLine v.chain v.seg line).isSome then (if more then [] else [line]) else v.group line
  lines.foldl (fun s n => s.askArena v.chain v.seg n) (s.touchLine v line)

/-- The state with a place ready: a private line is allocated at its first access, and a translated access leaves its translation
at the slice, unless it makes no request of its own. -/
def State.ready (s : State) (w : Who) (p : Place) (va : Nat) (more : Bool := false) : State :=
  match p with
  | .arena .. =>
    match viewAt w va with
    | some v => s.readyArena v (va / 64) more
    | none => s
  | .spad _ => s
  | .mem .. | .io .. => if more then s else s.noteTranslation (nearSlice w.die va) w.asid va

/-- What a performed access leaves behind, by its place. -/
def State.after (s : State) (w : Who) (acc va len : Nat) (p : Place) (more : Bool := false) : State :=
  match p with
  | .mem pa home => s.noted w acc va len pa home more
  | .io _ pa => (s.noteExport w pa).noteWatch w acc va len
  | _ => s

/-- A read; `more` where it makes no request of its own. -/
def State.load (s : State) (w : Who) (acc va len : Nat) (more : Bool := false) : Except Stop (Nat × State) :=
  match s.locate w acc va len false false with
  | .error e => .error e
  | .ok p =>
    let s := s.ready w p va more
    .ok (s.readAt p va len, s.after w acc va len p more)

/-- A write; `more` where it makes no request of its own. -/
def State.store (s : State) (w : Who) (acc va len x : Nat) (scalar whole : Bool) (more : Bool := false) : Except Stop State :=
  match s.locate w acc va len scalar whole with
  | .error e => .error e
  | .ok p => .ok (((s.ready w p va more).writeAt p va len x whole).after w acc va len p more)

/-- An indivisible read and write (R137): the old value and the state with the new one. -/
def State.modify (s : State) (w : Who) (acc va len : Nat) (f : Nat → Nat) : Except Stop (Nat × State) :=
  match s.locate w acc va len false false with
  | .error e => .error e
  | .ok p =>
    let s := s.ready w p va
    let old := s.readAt p va len
    .ok (old, (s.writeAt p va len (f old) false).after w acc va len p)

end Sys2Proof.Machine
end

