-- ==== Sys2Proof/Machine/Ops.lean ====
section
/-! DEFINITION. The shared operations of an instruction: fault-ring records, taking an upcall and returning from it
(13 R332 to R339), the causes at issue in the order of R88, retirement, and the performance of long-latency work
(02 R50 to R55). -/

namespace Sys2Proof.Machine

/-! ### Device writes and queue records -/

/-- A write of the device itself is dropped once no copy owns its line any more: the line is poisoned and not written whole (R443), or lies in
a retired channel (R434). -/
def State.dropsWrite (s : State) (pa : Nat) (whole : Bool) : Bool :=
  (s.poison.contains (pa / 64) && !whole) || (isLocal pa && (s.channel (channelOf pa)).retired)

/-- A line of physical memory that the device itself may not touch yet: a copy owns it (R320), or an earlier write of the device still
waits for it (DESIGN CHOICE, log 70). -/
def State.heldBack (s : State) (pa : Nat) : Bool :=
  s.owned (outsideWho 0 6001) (pa / 64) ||
    s.owed.any fun x => match x with
      | .bytes p _ => p / 64 == pa / 64
      | _ => false

/-- The device's own writes are no event of an agent that R308 names: after one, a line has no last write (R323, DESIGN CHOICE,
log 70). -/
def State.forgetWrite (s : State) (line : Nat) : State :=
  { s with clusters := s.clusters.map fun c => (c.1, { c.2 with lastWrites := c.2.lastWrites.erase line }) }

/-- Bytes of a line written by the device, in order after what waits there, and once no copy owns the line (R320); all 64 clear its poison
(R443), and monitors on the line see them (R336). A write to a line of an image is refused (R292). -/
def State.deviceBytes (s : State) (pa : Nat) (bs : List Byte) : State :=
  let whole := pa % 64 == 0 && bs.length == 64
  if (s.imageLine pa).isSome then s
  else if s.heldBack pa then { s with owed := s.owed ++ [.bytes pa bs] }
  else if s.dropsWrite pa whole then s
  else
    let s := if whole then { s with poison := s.poison.filter (· != pa / 64) } else s
    ((s.pokeBytes pa bs).fireMonitors (pa / 64)).forgetWrite (pa / 64)

/-- A write of the device itself to part of a line of physical memory. -/
def State.deviceWrite (s : State) (pa n x : Nat) : State := s.deviceBytes pa (leBytes n x)

/-- The address of a queue's descriptor and a field of it (R366). -/
def State.queueDesc (s : State) (q : Nat) : Nat := s.localPa (s.cfg.qtab + 64 * q)
def State.queueField (s : State) (q off n : Nat) : Nat := s.readPa (s.queueDesc q + off) n

/-- Entry i of a ring of 2^log entries whose base a descriptor's field gives (R366). -/
def State.ringSlot (s : State) (q base log i : Nat) : Nat :=
  s.localPa (s.queueField q base 8 + 64 * (i % 2 ^ (s.queueField q log 1 % 32)))

/-- A queue number that names a queue (R366). -/
def queueNumber (q : Nat) : Bool := decide (q < 65534)

/-- An event counted towards the queue's interrupt (R377). -/
def State.queueEvent (s : State) (q : Nat) : State :=
  let x := s.queue q
  s.setQueue q { x with
    events := x.events + 1, oldest := if x.events = 0 then s.stime else x.oldest, latest := s.stime }

/-- The fields of a fault-ring record that the writer chooses (R339, R369). -/
structure Record where
  tid : Word
  path : Word
  pc : Word
  cause : Word
  addr : Word
  asid : Nat
  kind : Nat
deriving DecidableEq, Repr

/-- An event record of a queue, with no task. -/
def Record.event (asid kind : Nat) (pc cause addr : Word) : Record :=
  { tid := 0, path := 0, pc := pc, cause := cause, addr := addr, asid := asid, kind := kind }

/-- A record about a task. -/
def Record.ofTask (d : Ident) (kind : Nat) (pc cause addr : Word) : Record :=
  { tid := d.tid, path := d.path, pc := pc, cause := cause, addr := addr, asid := d.asid, kind := kind }

/-- The 64 bytes of a record (R339). -/
def Record.bytes (r : Record) (stime : Nat) : List Byte :=
  leBytes 8 r.tid.toNat ++ leBytes 8 r.path.toNat ++ leBytes 8 r.pc.toNat ++ leBytes 8 r.cause.toNat ++
    leBytes 8 r.addr.toNat ++ leBytes 8 stime ++ leBytes 2 r.asid ++ leBytes 1 r.kind ++ List.replicate 13 0

/-- A record of the queue has to wait for one before it, or for the descriptor (R320). -/
def State.ringWaits (s : State) (q : Nat) : Bool :=
  s.heldBack (s.queueDesc q) ||
    s.owed.any fun x => match x with
      | .record p _ => p == q
      | _ => false

/-- The bytes of a record with the STIME at which it is written (R369). -/
def stamped (bs : List Byte) (stime : Nat) : List Byte := bs.take 40 ++ leBytes 8 stime ++ bs.drop 48

/-- Write the bytes of a record to the fault ring of a queue: the entry at FWR, with the STIME of the write, then FWR + 1 (R366, R369). It waits
for the descriptor and for its place in the ring (R320). A record whose queue's descriptor cannot be read is lost (R434, DESIGN
CHOICE, log 70). -/
def State.ringRecord (s : State) (q : Nat) (bs : List Byte) : State :=
  let fwr := s.queueField q 40 4
  let slot := s.ringSlot q 48 33 fwr
  let later := { s with owed := s.owed ++ [.record q bs] }
  if !queueNumber q then s
  else if s.ringWaits q then later
  else if s.poisonedAt (s.queueDesc q) then s
  else if s.heldBack slot then later
  else ((s.deviceBytes slot (stamped bs s.stime)).deviceWrite (s.queueDesc q + 40) 4 (fwr + 1)).queueEvent q

/-- Write a record to the fault ring of a queue. -/
def State.postRecord (s : State) (q : Nat) (r : Record) : State := s.ringRecord q (r.bytes s.stime)

/-! ### Causes -/

/-- A cause without an access (ACC 7). -/
def cause (code : Nat) (addr pc : Word) : Trap :=
  { code := code, acc := 7, addr := addr, pc := pc, inner := 0, tag := 0, parked := false, monitor := none, vdone := none }

def ILLEGAL : Nat := 1
def MODE_FAULT : Nat := 2
def LOOKAHEAD : Nat := 3
def ALIGN : Nat := 4
def XLATE : Nat := 5
def PERM : Nat := 6
def WRITER : Nat := 7
def DETERM : Nat := 8
def MIXED : Nat := 9
def MERGE : Nat := 10
def POISON : Nat := 11
def PARAM : Nat := 12
def PENNANT : Nat := 13
def BREAK : Nat := 14

/-- UPC_CAUSE (R333). -/
def Trap.word (c : Trap) (wdone : Nat) : Word :=
  BitVec.ofNat 64 (c.tag % 256 * 2 ^ 40 + c.inner % 256 * 2 ^ 32 + (if c.parked then 2 ^ 31 else 0) +
    wdone % 2 ^ 15 * 2 ^ 16 + c.acc % 16 * 2 ^ 12 + c.code % 256)

/-- Bits [55:2] of an address register (R302, R333). -/
def addrField (a : Word) : Word := a &&& 0x00FFFFFFFFFFFFFC

/-- A parked request of a refused core access: a monitor of its slice, when UPC_SAVE is set, an entry refused the
access and one of the 256 is free (R335). A PERM that no entry caused, as of a line of the weight store, of another device or of a full view
arena, leaves nothing to watch and parks nothing (DESIGN CHOICE, log 103). -/
def State.park (s : State) (core : Nat) (t : Task) (acc : Nat) (scalar : Bool) (code addr slice : Nat)
    (entry : Option (Nat × Nat)) : State × Option (Nat × Nat) :=
  let c := s.cluster slice
  match entry with
  | some (e, lo) =>
    if (code == XLATE || code == PERM) && t.ctl.upcSave != 0 && decide (c.monitors.length < 256) then
      let m : Monitor :=
        { asid := t.ident.asid, va := BitVec.ofNat 64 addr, acc := acc, scalar := scalar, entry := e, lo := lo,
          tid := t.ident.tid, hdr := t.ctl.upcSave, hoist := t.purse.hoist, ident := t.ident, core := core, upc := none,
          fired := false }
      let n := c.monitors.fresh
      ((s.setCluster slice { c with monitors := c.monitors.set n m }).countSlice slice 7 1, some (slice, n))
    else (s, none)
  | none => (s, none)

/-- The cause of a refused core access, with its request parked where R335 parks it. A poisoned node of the walk gives ACC 6
(R333). -/
def State.refusalOf (s : State) (core : Nat) (t : Task) (acc : Nat) (scalar : Bool) (pc : Word) (code addr slice : Nat)
    (entry : Option (Nat × Nat)) : State × Trap :=
  let p := s.park core t acc scalar code addr slice entry
  let acc := if code == POISON && entry.isSome then 6 else acc
  (p.1, { cause code (BitVec.ofNat 64 addr) pc with acc := acc, parked := p.2.isSome, monitor := p.2 })

/-- The same for an access that is a request of its own, which is counted. -/
def State.refusal (s : State) (core : Nat) (t : Task) (acc : Nat) (scalar : Bool) (pc : Word) (code addr slice : Nat)
    (entry : Option (Nat × Nat)) : State × Trap :=
  (s.noteRefused (coreDie core) t.ident.asid code addr slice entry).refusalOf core t acc scalar pc code addr slice entry

/-- A parked request whose cause is not the one taken is dropped without a notice (DEDUCED, log 15). -/
def State.dropMonitor (s : State) (c : Trap) : State :=
  match c.monitor with
  | some (slice, n) =>
    let x := s.cluster slice
    s.setCluster slice { x with monitors := x.monitors.erase n }
  | none => s

/-! ### Upcalls (R332) -/

/-- The parked request learns UPC_PC and UPC_CAUSE when the upcall is taken (R335). -/
def State.tellMonitor (s : State) (c : Trap) (pc w : Word) : State :=
  match c.monitor with
  | some (slice, n) =>
    let x := s.cluster slice
    match x.monitors.get? n with
    | some m => s.setCluster slice { x with monitors := x.monitors.set n { m with upc := some (pc, w) } }
    | none => s
  | none => s

/-- The task after its upcall registers are written (R332, R333). -/
def Task.saveCause (t : Task) (c : Trap) (wdone : Nat) : Task :=
  { t with
    ctl := { t.ctl with
      upcPc := addrField c.pc, upcCause := c.word wdone, upcAddr := c.addr, vdone := c.vdone.getD t.ctl.vdone }
    flow := { t.flow with
      wait := .run, woken := .no, inflight := [], skip := [], trap := none, resumed := false, linkSince := none, issued := false } }

/-- Take an upcall: the three registers, then the handler, or suspension with a fault record where there is no
handler or the context is in one (R332, R339). -/
def State.enterUpcall (s : State) (i : Nat) (t : Task) (c : Trap) (wdone : Nat) : State :=
  let u := t.saveCause c wdone
  let s := s.tellMonitor c u.ctl.upcPc u.ctl.upcCause
  if t.flow.inUpcall || t.ctl.upcVec == 0 then
    let u := { u with regs := { u.regs with pc := u.ctl.upcPc }, flow := { u.flow with suspended := true } }
    (s.setTask i u).postRecord t.ident.queue
      (Record.ofTask t.ident (if t.flow.inUpcall then 1 else 0) u.ctl.upcPc u.ctl.upcCause u.ctl.upcAddr)
  else
    let u := { u with regs := { u.regs with pc := addrField t.ctl.upcVec }, flow := { u.flow with inUpcall := true } }
    (s.setTask i u).countEvent i 13 1

/-- A long-latency instruction of the context has not completed. -/
def Flow.busy (f : Flow) : Bool := f.inflight.any fun o => !o.done

/-! ### The order of accesses in flight (R54, R132, R311, R402, R405) -/

/-- The bytes the memory work of an instruction touches. -/
def LLWork.ranges : LLWork → List (Nat × Nat)
  | .load _ len _ _ ea => [(ea.toNat, len)]
  | .store len _ ea _ => [(ea.toNat, len)]
  | .elems _ _ es _ _ => es.map fun e => (e.addr, e.len)
  | .regs .. => []

/-- A range cut at a page boundary: no access is longer than a page. -/
def pagePieces (a len : Nat) : List (Nat × Nat) :=
  let k := 4096 - a % 4096
  if len ≤ k then [(a, len)] else [(a, k), (a + k, len - k)]

/-- A byte of two lists of ranges. -/
def rangesMeet (xs ys : List (Nat × Nat)) : Bool :=
  xs.any fun p => ys.any fun q => decide (p.1 < q.1 + q.2) && decide (q.1 < p.1 + p.2)

/-- Where a range of a page lands, and whether in an IO page: a physical address, or one above every physical address for a
scratchpad. -/
def State.landing (s : State) (w : Who) (a len : Nat) : Option (Nat × Bool) :=
  if inWindow a then (s.windowAt w a len).map fun k => (2 ^ 52 + k, false)
  else
    match s.translate (nearSlice w.die a) w.asid a with
    | .ok l => some (s.localPa (l.phys a), l.io)
    | .error _ => none

/-- What an instruction in flight accesses: its bytes as it names them and where they land, the devices it reaches over a link,
and whether it stores to an IO page. -/
structure Footprint where
  named : List (Nat × Nat)
  bytes : List (Nat × Nat)
  devices : List Nat
  io : Bool

def State.footprint (s : State) (w : Who) (x : LLWork) : Footprint :=
  let lands := (x.ranges.flatMap fun r => pagePieces r.1 r.2).filterMap fun r =>
    (s.landing w r.1 r.2).map fun p => (p.1, r.2, p.2)
  { named := x.ranges
    bytes := lands.map fun p => (p.1, p.2.1)
    devices := lands.filterMap fun p => if p.1 / 2 ^ 50 == 1 then some (bitsAt p.1 49 40) else none
    io := lands.any fun p => p.2.2 }

def LLWork.acquires : LLWork → Bool
  | .load _ _ _ acq _ => acq
  | _ => false
def LLWork.releases : LLWork → Bool
  | .store _ rel _ _ => rel
  | _ => false

/-- Work that reads memory, and work that writes it. -/
def LLWork.reads : LLWork → Bool
  | .load .. | .elems false .. => true
  | _ => false
def LLWork.writes : LLWork → Bool
  | .store .. | .elems true .. => true
  | _ => false

/-- One access in flight must not complete before an earlier one of its context: they share a byte (R54, R132), the earlier is an
acquire or the later a release (R311), the later stores to an IO page (R402), or both go to one device (R405). -/
def State.follows (s : State) (w : Who) (earlier later : LLWork) : Bool :=
  let x := s.footprint w earlier
  let y := s.footprint w later
  !x.named.isEmpty && !y.named.isEmpty &&
    (rangesMeet x.named y.named || rangesMeet x.bytes y.bytes || earlier.acquires || later.releases || y.io ||
      y.devices.any x.devices.contains)

/-- An access that may yet complete keeps its place before a later one where a fence may make them an acquire or a release (R311): a fence.acq
or fence.sc that follows makes every read before it an acquire, and a fence.rel or fence.sc that came first makes every write after it a
release. A read that fails keeps no place: it counts where it completes (R55, R310). Whether such a fence follows a read is not known yet, so
every read keeps its place (DESIGN CHOICE, log 93). -/
def keepsPlace (fenced : Bool) (earlier later : LLWork) : Bool :=
  !earlier.ranges.isEmpty && !later.ranges.isEmpty && (earlier.reads || (fenced && later.writes))

/-- The instructions in flight that will not complete, of a list in issue order: those that failed, and those that must follow one
of them and are executed again after the upcall (R55). -/
def State.lost (s : State) (w : Who) : List LLOp → List LLOp → List LLOp
  | gone, [] => gone
  | gone, o :: os =>
    if !o.done && (o.failed.isSome || gone.any fun p => s.follows w p.work o.work) then s.lost w (gone ++ [o]) os
    else s.lost w gone os

/-- An instruction of the context in flight has failed, or will not complete for one that has. -/
def State.isLost (s : State) (i : Nat) (t : Task) (o : LLOp) : Bool :=
  (s.lost (taskWho i t) [] t.flow.inflight).any fun p => p.seq == o.seq

/-- Nothing of the context will complete any more: each instruction in flight is done, or lost. -/
def State.drained (s : State) (i : Nat) (t : Task) : Bool := t.flow.inflight.all fun o => o.done || s.isLost i t o

/-- An access of context i has to wait for another of it that is in flight and issued before it. -/
def State.mustFollow (s : State) (i : Nat) (t : Task) (p : LLOp) (work : LLWork) : Bool :=
  !p.done && (s.follows (taskWho i t) p.work work || (!s.isLost i t p && keepsPlace t.flow.fenced p.work work))

/-- A notifying atomic that the task issued before its instruction of a number has left the core and is not performed yet (R140). An access
that comes after it keeps its place behind it, as behind every read (DESIGN CHOICE, log 93). -/
def State.asking (s : State) (t : Task) (seq : Nat) : Bool :=
  s.asks.any fun a => a.2.ident.tid == t.ident.tid && decide (a.2.seq < seq)

/-- An access that is performed as it issues has to wait for one before it. -/
def State.mustWait (s : State) (i : Nat) (t : Task) (work : LLWork) : Bool :=
  s.asking t t.flow.seq || t.flow.inflight.any fun p => s.mustFollow i t p work

/-- An access of the context is not performed yet: a task that its next instruction starts must see it (R307, R315, R319). -/
def State.accessOpen (s : State) (t : Task) : Bool :=
  s.asking t t.flow.seq || t.flow.inflight.any fun o => !o.done && !o.work.ranges.isEmpty

/-- Raise a cause at the context: the upcall is taken at once, or once the window has drained (R52, R55). -/
def State.raise (s : State) (i : Nat) (t : Task) (c : Trap) : State :=
  if t.flow.busy then s.setTask i { t with flow := { t.flow with trap := some c } } else s.enterUpcall i t c 0

/-- Resume at UPC_PC with the skips of WDONE (R55, R151, R339). The instruction at UPC_PC itself is not skipped. -/
def Task.resume (t : Task) : Task :=
  { t with
    regs := { t.regs with pc := addrField t.ctl.upcPc }
    flow := { t.flow with
      inUpcall := false, suspended := false, resumed := true,
      skip := false :: (List.range 15).map fun j => t.ctl.upcCause.getLsbD (16 + j) } }

/-! ### Issue (R45, R50 to R53, R88) -/

/-- What the issue of an instruction depends on: word 0, its length, its guard, whether it ends windows (R53), names
a bank register or needs a bank (R38), the cycles it occupies the array (R48), whether it uses the divider, the
stream registers it reads, the registers it reads or writes, the mode test of R57 and R59, whether VDONE describes
it, the counter event of its class (R347), the cycles for which it writes back through the array, and its results with the
cycles until a dependent instruction may issue (R48), those of an access to memory or not, and whether it orders the accesses before it, so
that a notifying atomic has to be performed first (R140, R311, R315). -/
structure Traits where
  word : Nat
  bytes : Nat := 4
  guard : Nat := 0
  ends : Bool := false
  bank : Task → Bool := fun _ => false
  array : Nat := 0
  divides : Bool := false
  streams : Task → List QReg := fun _ => []
  touched : Task → List Res := fun _ => []
  modeFault : Task → Bool := fun _ => false
  usesVdone : Bool := false
  event : Nat := 0
  writeBack : Nat := 0
  results : List (Option Res × Nat) := []
  memory : Bool := false
  orders : Bool := false

/-- The instruction after a window waits until the window's instruction completes (R50). -/
def Flow.windowClosed (f : Flow) : Bool := f.inflight.any fun o => !o.done && decide (o.last < f.seq)

/-- What holds a context back whatever its instruction is. -/
def Task.held (t : Task) (c : Core) : Bool :=
  t.flow.wait != .run || t.flow.suspended || t.flow.saving || c.halted || c.health.retired || t.flow.trap.isSome ||
    t.flow.inflight.any (fun o => o.failed.isSome) || t.flow.windowClosed

/-- A context waits for a result (R49): one that every instruction waits for (R50, R246), or that of a listed register. -/
def Core.awaits (c : Core) (ctx : Nat) (rs : List Res) : Bool :=
  c.results.any fun e => e.ctx == ctx && decide (c.cycle < e.until_) && e.reg.all fun r => rs.contains r

/-- The array is not there for a context: occupied (R60), or reserved for another (R47). -/
def Core.arrayBusy (c : Core) (ctx : Nat) : Bool := decide (c.cycle < c.arrayUntil) || (c.reserved.isSome && c.reserved != some ctx)

/-- What holds this instruction back: an open window it ends (R53), a result (R49), the array (R60) or the divider (R118). -/
def Task.waits (t : Task) (c : Core) (ctx : Nat) (tr : Traits) : Bool :=
  (tr.ends && t.flow.busy) || c.awaits ctx (tr.touched t) ||
    (tr.array != 0 && c.arrayBusy ctx) ||
    (tr.divides && decide (c.cycle < c.dividerUntil))

/-- The long-latency instruction in whose window this one touches a pending register (R52). An instruction that ends every
window lies in none (R53). -/
def Task.lookahead (t : Task) (tr : Traits) : Option LLOp :=
  if tr.ends then none
  else t.flow.inflight.find? fun o => decide (t.flow.seq ≤ o.last) && (tr.touched t).any fun r => o.pend.contains r

/-- Orders 2 to 4 of R88: no bank or an unbound stream, the mode, the window. At an effective length of zero a vector instruction raises
none of them: R36 and R154 say that it raises no trap, though R38 names no such exception for a task without a bank (DEDUCED,
log 49). -/
def State.issueCause (s : State) (core : Nat) (t : Task) (tr : Traits) : Option Trap :=
  let illegal := cause ILLEGAL (BitVec.ofNat 64 tr.word) t.regs.pc
  match t.bank with
  | none => if tr.bank t then some illegal else (t.lookahead tr).map fun o => cause LOOKAHEAD o.pc t.regs.pc
  | some b =>
    if (tr.streams t).any fun q => !(s.bankOf core b).bound (.q q) then some illegal
    else if tr.modeFault t then some (cause MODE_FAULT 0 t.regs.pc)
    else (t.lookahead tr).map fun o => cause LOOKAHEAD o.pc t.regs.pc

/-- A VDONE that eret left for an instruction it does not describe is cleared (R182). -/
def Task.clearVdone (t : Task) (tr : Traits) : Task :=
  if t.flow.resumed && !tr.usesVdone then { t with ctl := { t.ctl with vdone := 0 } } else t

/-- The instruction counts as issued: the next number, the skip plan advanced, and windows that are over forgotten
(R50, R55). -/
def Task.counted (t : Task) (tr : Traits) : Task :=
  let n := t.flow.seq + 1
  { t with
    flow := { t.flow with
      seq := n, woken := .no, resumed := false, linkSince := none, issued := false, skip := t.flow.skip.drop 1,
      inflight := if tr.ends then [] else t.flow.inflight.filter fun o => !o.done || decide (n ≤ o.last) } }

/-- What an issue changes at the core: occupancy, results to come, the reservation it used, the breakpoint skip, and, unless the instruction
had issued before and waited, parked, the counts (R347). -/
def Core.issued (c : Core) (ctx : Nat) (pc : Word) (tr : Traits) (before : Bool) : Core :=
  let c := { c with
    arrayUntil := if tr.array + tr.writeBack = 0 then c.arrayUntil else c.cycle + tr.array + tr.writeBack
    dividerUntil := if tr.divides then c.cycle + 36 else c.dividerUntil
    reserved := if tr.array != 0 && c.reserved == some ctx then none else c.reserved
    results := (c.results.filter fun (e : Await) => decide (c.cycle < e.until_)) ++
      tr.results.map fun (r : Option Res × Nat) => ({ ctx := ctx, reg := r.1, until_ := c.cycle + r.2, pc := pc, memory := tr.memory } : Await)
    bpSkip := c.bpSkip.filter (· != pc) }
  if before then c
  else
    let c := c.count ctx 2 1
    if tr.event = 0 then c else c.count ctx tr.event 1

/-- The instruction retires: its context goes on at `next` with the registers of t. -/
def State.retireAt (s : State) (tr : Traits) (t : Task) (next : Word) : State :=
  let i := s.focus
  let k := ctxCore i
  let c := s.core k
  let u := t.counted tr
  (s.setCore k (c.issued (ctxNum i) t.regs.pc tr t.flow.issued)).setTask i
    { u with regs := { u.regs with pc := next }, rank := { u.rank with ready := some (c.cycle + 1), waiting := c.cycle + 1, yieldUntil := 0 } }

/-- The address after an instruction. -/
def nextPc (t : Task) (tr : Traits) : Word := t.regs.pc + BitVec.ofNat 64 tr.bytes

/-- The instruction retires and the next one follows it. -/
def State.retire (s : State) (tr : Traits) (t : Task) : State := s.retireAt tr t (nextPc t tr)

/-- Steps over an instruction that completed before the upcall (R55), or whose guard is false (R30): it counts, and
nothing else happens. A skipped instruction takes no cycle of the array. -/
def State.stepOver (s : State) (tr : Traits) (t : Task) : State :=
  s.retire { tr with array := 0, divides := false, event := 0, results := [] } t

/-- One instruction of the context in focus. A context that is held, or an instruction that must wait, leaves the
machine as it is: the instruction issues in a later step. -/
def issue (tr : Traits) (body : State → Task → Out) (s : State) : Out :=
  match s.task? s.focus with
  | none => .fault .noTask
  | some t =>
    let c := s.core (ctxCore s.focus)
    if t.held c || c.awaits (ctxNum s.focus) [] then .next s
    else if t.flow.skip.headD false then .next (s.stepOver tr t)
    else if !t.getP tr.guard then
      if tr.ends && t.flow.busy then .next s else .next (s.stepOver tr (t.clearVdone tr))
    else if t.waits c (ctxNum s.focus) tr || (tr.orders && s.asking t t.flow.seq) then .next s
    else
      let t := t.clearVdone tr
      match s.issueCause (ctxCore s.focus) t tr with
      | some x => .next (s.raise s.focus t x)
      | none => body s t

/-- A cause of order 5 (R88): ILLEGAL of an operand. -/
def State.illegal (s : State) (tr : Traits) (t : Task) : Out :=
  .next (s.raise s.focus t (cause ILLEGAL (BitVec.ofNat 64 tr.word) t.regs.pc))

/-- A cause of order 5 with an address. -/
def State.trapAt (s : State) (t : Task) (code : Nat) (addr : Word) : Out :=
  .next (s.raise s.focus t (cause code addr t.regs.pc))

/-- A cause of an access checked at the core (R130): its kind in ACC. -/
def State.trapAcc (s : State) (t : Task) (code acc : Nat) (addr : Word) : Out :=
  .next (s.raise s.focus t { cause code addr t.regs.pc with acc := acc })

/-- Since when a UALink has held an access of the task: of an instruction in flight, or of the one at the pc (R405). -/
def Task.linkedSince (t : Task) (op : Option Nat) : Option Nat :=
  match op with
  | some seq => (t.flow.inflight.find? fun o => o.seq == seq).bind fun o => o.since
  | none => t.flow.linkSince

/-- The task stalled on a link (R408). The time limit of its access runs from its first stall (R405). -/
def State.stalled (s : State) (t : Task) (l : Link) (va acc : Nat) (op : Option Nat) (vdone : Option Word) : Task :=
  let since := (t.linkedSince op).getD s.stime
  let x : Stall := { link := l, addr := BitVec.ofNat 64 va, acc := acc, op := op, vdone := vdone, since := since }
  { t with
    flow := { t.flow with
      wait := .link x
      linkSince := if op.isNone then some since else t.flow.linkSince
      inflight := t.flow.inflight.map fun o => if some o.seq == op then { o with since := some since } else o } }

/-- An access of the context in focus that was stopped: the cause, with its request parked; a wait; or a stall on a
link (R408). -/
def State.stopped (s : State) (t : Task) (acc : Nat) (scalar : Bool) : Stop → Out
  | .refuse code addr slice entry =>
    let r := s.refusal (ctxCore s.focus) t acc scalar t.regs.pc code addr slice entry
    .next (r.1.raise s.focus t r.2)
  | .link l va => .next (s.setTask s.focus (s.stalled t l va acc none none))
  | z => .next (s.heldAt z)

/-! ### Long-latency work (R50, R132, R181, R184, R196, R207) -/

/-- The result of performing work: done, a cause, or not yet. -/
inductive Did where
  | done (s : State) (t : Task)
  | trap (s : State) (t : Task) (c : Trap)
  | wait (z : Stop)

/-- Extend a loaded value to 64 bits. -/
def extend (signed : Bool) (bits x : Nat) : Word :=
  if signed then BitVec.ofInt 64 (bitsInt true bits x) else BitVec.ofNat 64 x

/-- A loaded element as it enters a register, with its flags (R205). -/
def Conv.apply (c : Conv) (x : Nat) : Res2 Nat :=
  match c with
  | .raw => ⟨x, 0⟩
  | .widen ty => match floatFormat ty with
    | some f => convertFloat f (if ty == .f64 then fmtF64 else fmtF32) .rne x
    | none => ⟨x, 0⟩

/-- The bank after the destinations of a loaded element are written. -/
def Bank.puts (b : Bank) (x : Nat) : List Put → Bank × Flags
  | [] => (b, 0)
  | p :: ps =>
    let r := p.conv.apply (x / 2 ^ p.shift)
    let reg := Fin.ofNat 32 p.reg
    let b := b.setV reg (fieldSet (b.getV reg) p.pos p.width (r.val % 2 ^ p.width))
    let q := b.puts x ps
    (q.1, r.flags ||| q.2)

/-- The store elements that cover a line whole (R443). -/
def coversLine (es : List Elem) (line : Nat) : Bool :=
  (List.range 64).all fun k => es.any fun e => decide (e.addr ≤ 64 * line + k) && decide (64 * line + k < e.addr + e.len)

/-- One element of a vector or tile access: the state, or why it stopped; `more` where it makes no request of its own. -/
def State.elem (s : State) (i : Nat) (w : Who) (store : Bool) (b : Nat) (all : List Elem) (e : Elem) (more : Bool) :
    Except Stop (State × Flags) :=
  if store then
    let whole := !s.poison.isEmpty && coversLine all (e.addr / 64)
    match s.store w 1 e.addr e.len e.data false whole more with
    | .ok s => .ok (s, e.flags)
    | .error x => .error x
  else
    match s.load w 0 e.addr e.len more with
    | .ok (x, s) =>
      let r := (s.bankOf (ctxCore i) b).puts x e.puts
      .ok (s.setBank (ctxCore i) b r.1, r.2)
    | .error x => .error x

/-- What the elements of an access have done so far: the state, flags, groups with a failing element, the first that failed with its
address, the lines accessed, and of these the ones that raised MIXED. -/
structure Progress where
  s : State
  flags : Flags
  bad : List Nat
  first : Option (Nat × Stop)
  lines : List Nat
  mixed : List Nat

/-- An element is refused: its line's request is counted as any refused one, once for the line (R355), and so is a MIXED. -/
def Progress.refused (p : Progress) (w : Who) (line : Nat) (again : Bool) (z : Stop) : Progress :=
  match z with
  | .refuse code addr slice entry =>
    { p with
      s := if !again then p.s.noteRefused w.die w.asid code addr slice entry
        else if p.mixed.contains line then p.s else p.s.countMixed slice code
      mixed := if code == 9 then line :: p.mixed else p.mixed }
  | _ => p

/-- Every element whose checks pass is performed, in order (R181, R183). The elements of a line share one request, and a line found in L1
makes none (R289, R355). -/
def performElems (i : Nat) (w : Who) (store : Bool) (b : Nat) (all : List Elem) : List Elem → Progress → Progress
  | [], p => p
  | e :: es, p =>
    let line := e.addr / 64
    let again := p.lines.contains line && !inWindow e.addr
    let hit := !again && p.s.hitsL1 w (if store then 1 else 0) e.addr e.len
    let p := if again then p else { p with s := p.s.countLine i w e.addr hit, lines := line :: p.lines }
    let p := match p.s.elem i w store b all e (again || hit) with
      | .ok (s, f) => { p with s := s, flags := p.flags ||| f }
      | .error x =>
        { p.refused w line again x with bad := e.grp :: p.bad, first := p.first.orElse fun _ => some (e.addr, x) }
    performElems i w store b all es p

/-- An element that must wait, or stalls on a link, holds the whole instruction. -/
def State.elemsWait (s : State) (w : Who) (store : Bool) (es : List Elem) : Option Stop :=
  es.findSome? fun e =>
    match s.locate w (if store then 1 else 0) e.addr e.len false false with
    | .error (.refuse ..) => none
    | .error z => some z
    | .ok _ => none

/-- The groups of an access that are complete: those already recorded, and those whose elements all passed (R182). A group without an
active element counts as not complete (DESIGN CHOICE, log 62). -/
def groupsDone (old : Word) (es : List Elem) (bad : List Nat) : Word :=
  es.foldl (fun v e => if bad.contains e.grp then v else v ||| (BitVec.ofNat 64 (2 ^ e.grp))) old

/-- The access kind of long-latency work (R333), and the groups VDONE already records. -/
def LLWork.acc : LLWork → Nat
  | .load .. => 0
  | .store .. => 1
  | .elems st _ _ _ _ => if st then 1 else 0
  | .regs .. => 7

/-- The cycles from issue until work with a stated latency completes: a load from the scratchpad or L1, or a product (R48). -/
def LLWork.cycles : LLWork → Nat
  | .load _ _ _ _ ea => if inWindow ea.toNat then 5 else 8
  | .regs _ _ n => n
  | _ => 0

/-- The cycles of the array that a vector or tile load takes to write back: one for each register (R48, R208; for a load from the
scratchpad or L1 too, DEDUCED, log 50). -/
def LLWork.writeBack : LLWork → Nat
  | .elems false _ es _ _ => ((es.flatMap fun e => e.puts.map fun p => p.reg).eraseDups).length
  | _ => 0

def LLWork.groups : LLWork → Option Word
  | .elems _ v _ _ _ => some v
  | _ => none

/-- Perform the work of a long-latency instruction of context i. UPC_ADDR of a vector or tile access is the address of its first failing element,
whatever the cause (R181, R206). -/
def State.perform (s : State) (i : Nat) (t : Task) (pc : Word) : LLWork → Did
  | .load d len signed _ ea =>
    let hit := s.hitsL1 (taskWho i t) 0 ea.toNat len
    match s.load (taskWho i t) 0 ea.toNat len hit with
    | .ok (x, s) => .done (s.countLine i (taskWho i t) ea.toNat hit) (t.setS d (extend signed (8 * len) x))
    | .error (.refuse code addr slice entry) =>
      let r := s.refusal (ctxCore i) t 0 false pc code addr slice entry
      .trap r.1 t r.2
    | .error z => .wait z
  | .store len _ ea data =>
    let hit := s.hitsL1 (taskWho i t) 1 ea.toNat len
    match s.store (taskWho i t) 1 ea.toNat len (data.toNat % 2 ^ (8 * len)) true false hit with
    | .ok s => .done (s.countLine i (taskWho i t) ea.toNat hit) t
    | .error (.refuse code addr slice entry) =>
      let r := s.refusal (ctxCore i) t 1 true pc code addr slice entry
      .trap r.1 t r.2
    | .error z => .wait z
  | .elems store vdone es inc take =>
    let w := taskWho i t
    match s.elemsWait w store es with
    | some z => .wait z
    | none =>
      let p := performElems i w store (t.bank.getD 0) es es
        { s := s, flags := 0, bad := [], first := none, lines := [], mixed := [] }
      let t := t.raiseFlags p.flags
      match p.first with
      | some (addr, .refuse code _ slice entry) =>
        let r := p.s.refusalOf (ctxCore i) t (if store then 1 else 0) false pc code addr slice entry
        .trap r.1 t { r.2 with vdone := some (groupsDone vdone es p.bad) }
      | some (_, z) => .wait z
      | none =>
        let t := match inc with
          | some (a, x) => t.setS a x
          | none => t
        let s := match take with
          | some (q, n, w) =>
            let b := t.bank.getD 0
            p.s.setBank (ctxCore i) b ((p.s.bankOf (ctxCore i) b).take n w (.q q))
          | none => p.s
        .done s { t with ctl := { t.ctl with vdone := if vdone == 0 then t.ctl.vdone else 0 } }
  | .regs writes flags _ =>
    let b := t.bank.getD 0
    let k := writes.foldl (fun (k : Bank) w => k.setV (Fin.ofNat 32 w.1) w.2) (s.bankOf (ctxCore i) b)
    .done (s.setBank (ctxCore i) b k) (t.raiseFlags flags)

/-- The traits of a long-latency instruction that completes as it issues: it writes back, and the next instruction waits for
the cycles of its latency (R48, R50). -/
def Traits.completed (tr : Traits) (work : LLWork) : Traits :=
  { tr with
    writeBack := work.writeBack, results := if work.cycles = 0 then [] else [(none, work.cycles)], memory := work.acc != 7 }

/-- Issue a long-latency instruction: with no window of its own and nothing in flight before it, it completes in its
own step; otherwise it goes in flight with its window and pending set. -/
def State.longOp (s : State) (tr : Traits) (t : Task) (la : Nat) (work : LLWork) (pend : List Res) : Out :=
  let c := s.core (ctxCore s.focus)
  if la = 0 && !t.flow.busy then
    if (work.writeBack != 0 && c.arrayBusy (ctxNum s.focus)) || (!work.ranges.isEmpty && s.asking t t.flow.seq) then .next s
    else
      match s.perform s.focus t t.regs.pc work with
      | .done s t => .next (s.retire (tr.completed work) t)
      | .trap s t c => .next (s.raise s.focus t c)
      | .wait (.link l va) => .next (s.setTask s.focus (s.stalled t l va work.acc none work.groups))
      | .wait z => .next (s.heldAt z)
  else
    let o : LLOp :=
      { seq := t.flow.seq, last := t.flow.seq + la, pc := t.regs.pc, work := work, pend := pend,
        ready := c.cycle + work.cycles, done := false, failed := none, since := none }
    .next (s.retire tr { t with flow := { t.flow with inflight := t.flow.inflight ++ [o] } })

end Sys2Proof.Machine
end

