-- ==== Sys2Proof/Machine/Views.lean ====
section
/-! DEFINITION. Chains of view segments (10 R269 to R278): opening, closing and combining segments, the real tile at
join, and discarding. -/

namespace Sys2Proof.Machine

/-! ### Segments in serial order (R274) -/

/-- A new blank segment. -/
def Segment.blank (id : Nat) (owner : Word) : Segment := { id := id, owner := owner, complete := false, lines := [] }

/-- The place of a segment in its chain. -/
def Chain.indexOf (c : Chain) (seg : Nat) : Option Nat := (List.range c.segs.length).find? fun i =>
  match c.segs[i]? with
  | some g => g.id == seg
  | none => false

/-- A chain without one segment. -/
def Chain.dropSeg (c : Chain) (seg : Nat) : Chain := { c with segs := c.segs.filter fun g => g.id != seg }

/-- Whether a segment has a complete neighbour (R275). -/
def Chain.pairs (c : Chain) (seg : Nat) : Bool :=
  match c.indexOf seg with
  | some i =>
    let done := fun (j : Nat) => match c.segs[j]? with
      | some g => g.complete
      | none => false
    done i && ((0 < i && done (i - 1)) || done (i + 1))
  | none => false

/-- Close a segment that is not complete yet: it is complete, and if a neighbour is complete too the closer owes the combinations (R275,
R277). Every segment of a discarded chain is freed as it completes (R223). -/
def Chain.close (c : Chain) (seg : Nat) (tid : Word) (cluster : Nat) : Chain :=
  if c.discard then c.dropSeg seg
  else if (c.segment? seg).any (·.complete) then c
  else
    let c := c.mapSeg seg fun g => { g with complete := true }
    if c.pairs seg then { c with work := c.work ++ [{ tid := tid, cluster := cluster, seg := seg, right := false }] } else c

/-- The chain when its holder spawns: the child's segment and the holder's next one follow the closed one. -/
def Chain.split (c : Chain) (seg child next : Nat) (tid : Word) (cluster : Nat) : Chain :=
  let at_ := (c.indexOf seg).getD 0
  let c := { c with segs := insertAfter c.segs at_ [Segment.blank child 0, Segment.blank next tid] }
  c.close seg tid cluster

/-- A spawn closes the current segment of every active entry (R216) and gives the child a blank one: the state, the
sender's entries and the child's. -/
def State.splitViews (s : State) (tid : Word) (cluster : Nat) : Tab View → State × Tab View × Tab View
  | [] => (s, [], [])
  | (vid, v) :: vs =>
    let r := s.splitViews tid cluster vs
    let s := r.1
    match s.chains.get? v.chain with
    | some c =>
      let child := s.nextId
      let next := s.nextId + 1
      let s := { s with
        nextId := s.nextId + 2, chains := s.chains.set v.chain (c.split v.seg child next tid cluster) }
      (s, (vid, { v with seg := next }) :: r.2.1, (vid, { v with seg := child, declared := false }) :: r.2.2)
    | none => (s, (vid, v) :: r.2.1, r.2.2)

/-- A chain whose every segment is gone is removed when nobody will use it again. -/
def State.setChain (s : State) (n : Nat) (c : Chain) : State :=
  if c.discard && c.segs.isEmpty then { s with chains := s.chains.erase n } else { s with chains := s.chains.set n c }

/-- Close the current segments of a task's entries, as its halt does (R274). -/
def State.closeViews (s : State) (tid : Word) (cluster : Nat) : Tab View → State
  | [] => s
  | (_, v) :: vs =>
    let s := match s.chains.get? v.chain with
      | some c => s.setChain v.chain (c.close v.seg tid cluster)
      | none => s
    s.closeViews tid cluster vs

/-- A chain after a kill: every segment of the task that has not been combined yet is empty (R262, R274), one that an
earlier spawn closed too (DEDUCED, log 68). -/
def Chain.emptied (c : Chain) (tid : Word) : Chain :=
  let gone := (c.segs.filter fun g => g.owner == tid).map fun g => g.id
  { c with
    segs := c.segs.map fun g => if g.owner == tid then { g with lines := [] } else g
    bad := c.bad.filter fun b => !gone.contains b.1 }

/-- A kill empties every segment of the task and closes those it holds (R223); the combinations it leaves are performed by its
cluster for nobody. -/
def State.emptyViews (s : State) (tid : Word) (cluster : Nat) (views : Tab View) : State :=
  let emptied : State := { s with chains := s.chains.map fun c => (c.1, c.2.emptied tid) }
  emptied.closeViews 0 cluster views

/-- Discard a chain: complete segments are freed now, others as they complete (R223). -/
def State.discardChain (s : State) (n : Nat) : State :=
  match s.chains.get? n with
  | some c => s.setChain n { c with discard := true, work := [], fault := none, since := none, told := false, segs := c.segs.filter fun g => !g.complete }
  | none => s

/-! ### Combining elements (R270, R275) -/

/-- a ⊕ b for one element (R270); sums round with rne and raise no flag (R85). -/
def combineElem (op : ViewOp) (a b : Nat) : Nat :=
  let w := 8 * op.bytes
  let small := bitsInt true w a ≤ bitsInt true w b
  match op with
  | .addF32 => (fmtF32.add .rne a b).val
  | .addI32 | .addI64 | .addBs32 | .addBs64 => (a + b) % 2 ^ w
  | .minI32 | .minI64 => if small then a else b
  | .maxI32 | .maxI64 => if small then b else a
  | .minnN32 | .minnN64 => min a b
  | .maxnN32 | .maxnN64 => max a b
  | .and => a &&& b
  | .or => a ||| b
  | .xor => a ^^^ b

/-- a ⊕ b over `n` elements of a run of bytes. -/
def combineRun (op : ViewOp) (n a b : Nat) : Nat :=
  let w := 8 * op.bytes
  (List.range n).foldl (fun x e =>
    x + combineElem op (a / 2 ^ (w * e) % 2 ^ w) (b / 2 ^ (w * e) % 2 ^ w) * 2 ^ (w * e)) 0

/-- The lines of one step: a line, or the three lines of a 192-byte group under add.bs64 (R276). -/
def Chain.unit (c : Chain) (line : Nat) : List Nat :=
  if c.op == .addBs64 then
    let first := c.base / 64
    let g := first + (line - first) / 3 * 3
    [g, g + 1, g + 2]
  else [line]

/-- The value of lines read as one run of bytes. -/
def joinLines (ls : List LineWord) : Nat := leNat ((ls.map fun l => leBytes 64 l.toNat).flatten)

/-- Line i of a run. -/
def lineOf (x i : Nat) : LineWord := BitVec.ofNat 512 (x / 2 ^ (512 * i))

/-- Elements of a step. -/
def Chain.elements (c : Chain) : Nat := if c.op == .addBs64 then 8 else 64 / c.op.bytes

/-- One combination step between two adjacent complete segments: the lowest line the right one holds moves to the
left one or is combined into it (R275). What the left one holds then is no one task's any more (R223). The right one's line is free from
its own step on, not only once the whole segment has been combined: R273 says that lines are freed when their segment has been
(DESIGN CHOICE, log 109). -/
def combineSegs (c : Chain) (l r : Segment) : Segment × Segment :=
  match r.lines with
  | [] => (l, r)
  | (line, x) :: _ =>
    let unit := c.unit line
    let right := unit.map fun n => r.lines.getD n x
    let run := joinLines right
    let run := match l.lines.get? line with
      | some _ => combineRun c.op c.elements (joinLines (unit.map fun n => l.lines.getD n 0)) run
      | none => run
    let put := fun (t : Tab LineWord) (i : Nat) => t.set (unit.getD i line) (lineOf run i)
    ({ l with owner := 0, lines := (List.range unit.length).foldl put l.lines },
      { r with lines := unit.foldl (fun t n => t.erase n) r.lines })

/-- The neighbour that work combines its segment with, where one is complete: the left one first, then the right one, in turn (R275).
The answer is the place of the left segment of the pair. -/
def Chain.pairOf (c : Chain) (w : MergeWork) : Option Nat :=
  match c.indexOf w.seg with
  | none => none
  | some i =>
    let complete := fun (j : Nat) => match c.segs[j]? with
      | some g => g.complete
      | none => false
    let left := 0 < i && complete (i - 1)
    let right := complete (i + 1)
    if !complete i then none
    else if right && (w.right || !left) then some i
    else if left then some (i - 1)
    else none

/-- The first work of a chain changed. -/
def Chain.mapWork (c : Chain) (f : MergeWork → MergeWork) : Chain :=
  { c with
    work := match c.work with
      | w :: ws => f w :: ws
      | [] => [] }

/-- A segment that holds nothing more has joined its left neighbour, whose lines are then no one task's any more (R223): work that named
it goes on with that one, and the first work turns to its segment's other side (R275). -/
def Chain.absorb (c : Chain) (l r : Segment) (w : MergeWork) : Chain :=
  let goOn := fun (x : MergeWork) => if x.seg == r.id then { x with seg := l.id } else x
  let c : Chain := { (c.dropSeg r.id).mapSeg l.id (fun g => { g with owner := 0 }) with work := c.work.map goOn }
  c.mapWork fun x => { x with right := w.seg == r.id }

/-- A step that takes a line from one of some segments meets a poisoned private line (R278). -/
def Chain.poisoned (c : Chain) (segs : List Nat) (line : Nat) : Bool :=
  (c.unit line).any fun n => segs.any fun g => c.bad.contains (g, n)

/-- The fault of a step that meets one. -/
def arenaFault (line : Nat) : Trap := { cause POISON (BitVec.ofNat 64 (64 * line)) 0 with acc := 4 }

/-- The private lines, with their segments, that the next combination step of a work touches: the right segment's, which it reads, and the
left one's, which it writes (R275). -/
def Chain.stepLines (c : Chain) (w : MergeWork) : List (Nat × Nat) :=
  match (c.pairOf w).bind fun k => (c.segs[k]?).bind fun l => (c.segs[k + 1]?).map fun r => (l, r) with
  | some (l, r) => (r.lines.head?.elim [] fun x => c.unit x.1).flatMap fun n => [(r.id, n), (l.id, n)]
  | none => []

/-- Private lines asked for at the slices that hold them (R273). -/
def State.askLines (s : State) (chain : Nat) (lines : List (Nat × Nat)) : State :=
  lines.foldl (fun s p => s.askArena chain p.1 p.2) s

/-- One step of the first work of a chain, and the lines it combined; none where no neighbour is complete. -/
def Chain.combine (c : Chain) (w : MergeWork) : Option (Chain × Nat) :=
  match c.pairOf w with
  | none => none
  | some k =>
    match c.segs[k]?, c.segs[k + 1]? with
    | some l, some r =>
      match r.lines with
      | [] => some (c.absorb l r w, 0)
      | (line, _) :: _ =>
        if c.poisoned [l.id, r.id] line then some ({ c with fault := some (arenaFault line) }, 0)
        else
          let p := combineSegs c l r
          some (((c.mapSeg l.id fun _ => p.1).mapSeg r.id fun _ => p.2).mapWork fun x => { x with right := l.id == w.seg },
            (c.unit line).length)
    | _, _ => none

/-! ### Join (R222, R276) -/

/-- The engine of a cluster acting for a task (R282). -/
def engineWho (cluster core asid : Nat) (path : Word) (launch req : Option Nat) : Who :=
  { die := clusterDie cluster, core := some core, cluster := some cluster, engine := true, asid := asid,
    path := some path, launch := launch, agent := 2 ^ 18 + cluster, req := req, label := BitVec.ofNat 64 cluster,
    views := [] }

/-- Read the lines of a real-tile step without changing anything, or what refuses it. -/
def State.readLines (s : State) (w : Who) (lines : List Nat) : Except Stop (List LineWord) :=
  match lines with
  | [] => .ok []
  | n :: ns =>
    match s.locate w 5 (64 * n) 64 false false with
    | .error e => .error e
    | .ok p =>
      match s.readLines w ns with
      | .error e => .error e
      | .ok ls => .ok (BitVec.ofNat 512 (s.readAt p (64 * n) 64) :: ls)

/-- Write the lines of a real-tile step, each accepted before the step began. -/
def State.writeLines (s : State) (w : Who) (run : Nat) : List Nat → Nat → State
  | [], _ => s
  | n :: ns, i =>
    let s := match s.store w 5 (64 * n) 64 (lineOf run i).toNat false false with
      | .ok s => s
      | .error _ => s
    s.writeLines w run ns (i + 1)

/-- The real lines that a step reads and writes, as a watchpoint sees them: one read-modify-write each (R354). -/
def State.watchLines (s : State) (w : Who) (lines : List Nat) : State :=
  lines.foldl (fun s n => s.noteWatch w 4 (64 * n) 64) s

/-- One line, or group, of join: real ⊕ segment, all of it or nothing (R276, R278). -/
def State.joinStep (s : State) (w : Who) (c : Chain) (g : Segment) (line : Nat) : Except Stop (State × Segment) :=
  let unit := c.unit line
  match s.readLines w unit with
  | .error e => .error e
  | .ok real =>
    let run := combineRun c.op c.elements (joinLines real) (joinLines (unit.map fun n => g.lines.getD n 0))
    .ok ((s.watchLines w unit).writeLines w run unit 0, { g with lines := unit.foldl (fun t n => t.erase n) g.lines })

end Sys2Proof.Machine
end

