-- ==== Sys2Proof/Machine/Messages.lean ====
section
/-! DEFINITION. Tasks between instructions: hoist records and weight (09 R258 to R268), paths and placement (R252 to
R256, 08 R219), messages on the fabric (R216, R249), and the end of a task (R221, R223). -/

namespace Sys2Proof.Machine

/-! ### Finding tasks -/

/-- The context that holds a task. -/
def State.ctxOf (s : State) (tid : Word) : Option Nat := (s.ctxs.find? fun e => e.2.ident.tid == tid).map fun e => e.1

/-- The saved record of a task. -/
def State.savedOf (s : State) (tid : Word) : Option (Nat × Saved) := s.saved.find? fun e => e.2.task.ident.tid == tid

/-- Change a task wherever it is: in its context or in its saved record (R395). -/
def State.mapTask (s : State) (tid : Word) (f : Task → Task) : State :=
  { s with
    ctxs := s.ctxs.map fun e => (e.1, if e.2.ident.tid == tid then f e.2 else e.2)
    saved := s.saved.map fun e => (e.1, if e.2.task.ident.tid == tid then { e.2 with task := f e.2.task } else e.2) }

/-- The task with an id, in a context or saved. -/
def State.taskOf (s : State) (tid : Word) : Option Task :=
  match s.ctxOf tid with
  | some i => s.task? i
  | none => (s.savedOf tid).map fun e => e.2.task

/-- A send whose message has not been accepted holds its context (R250). -/
def Task.sending (t : Task) : Bool :=
  match t.flow.wait with
  | .accept _ => true
  | _ => false

/-- Nothing of a context will complete any more, no result of it is still to come, be it of a division or of a product without a window (R61,
R351, R391), and no notifying atomic of it is still to be performed. -/
def State.settledAt (s : State) (i : Nat) (t : Task) : Bool :=
  let c := s.core (ctxCore i)
  s.drained i t && !(c.results.any fun e => e.ctx == ctxNum i && decide (c.cycle < e.until_)) && !s.asking t t.flow.seq

/-- The task lives on a core that is powered down, where nothing of it happens any more (R433). -/
def State.stranded (s : State) (tid : Word) : Bool := (s.ctxOf tid).any fun i => (s.core (ctxCore i)).health.retired

/-- Nothing of a task in a context is in flight any more, no send of it included; a saved task has nothing in flight, and what a core
that is powered down had in flight is lost (R433). -/
def State.stopped? (s : State) (tid : Word) (t : Task) : Bool :=
  match s.ctxOf tid with
  | some i => s.stranded tid || (s.settledAt i t && !t.sending)
  | none => true

/-- A saved record is gone, and with it the place that a save was to free for it. -/
def State.eraseSaved (s : State) (key : Nat) : State :=
  { s with
    saved := s.saved.erase key
    cores := s.cores.map fun c => (c.1, { c.2 with due := c.2.due.filter fun x => !(x.saved && x.id == key) }) }

/-- The messages that have not started a task: on the fabric, at a stop, in a mailbox or a spill ring. -/
def State.messages (s : State) : List Msg :=
  s.fabric.vals ++ s.stops ++ (s.cores.map fun c => c.2.mailbox ++ c.2.spill).flatten

/-- The names and views of every task that has not ended, started or not. -/
def State.holders (s : State) : List (Ident × Tab View) :=
  (s.ctxs.map fun e => (e.2.ident, e.2.views)) ++ (s.saved.map fun e => (e.2.task.ident, e.2.task.views)) ++
    (s.messages.map fun m => (m.ident, m.views))

/-- A child of a task, by spawn or spawnc, has not ended (R222). -/
def State.childAlive (s : State) (tid : Word) : Bool := s.holders.any fun h => h.1.parent == some tid

/-- A task other than the declarer holds an entry of a chain (R230). -/
def State.heldBelow (s : State) (chain : Nat) (tid : Word) : Bool :=
  s.holders.any fun h => h.1.tid != tid && h.2.any fun v => v.2.chain == chain

/-- Wake a parked task: its instruction finds the event when it issues again. Under a DIP it stays parked until the release
(R356). -/
def Task.wake (t : Task) (w : Woken) : Task :=
  { t with flow := { t.flow with wait := if t.flow.frozen then t.flow.wait else .run, woken := w } }

/-- The task when the DIP of its core ends: a wake that came meanwhile takes effect. -/
def Task.thaw (t : Task) : Task :=
  { t with flow := { t.flow with frozen := false, wait := if t.flow.woken == .no then t.flow.wait else .run } }

/-! ### Hoist records (R224 to R228, R261) -/

/-- A step at a hoist record, as a request of its sender's die (R289), which a watchpoint records as the sender's (R354). -/
def recordWho (src : Origin) (asid : Nat) : Who :=
  { outsideWho asid 6001 with die := src.die, cluster := src.cluster, label := src.label }

/-- The physical address of a hoist record for a requester of a die, and its home slice (R289). -/
def State.recordAt (s : State) (die asid : Nat) (hoist : Word) : Option (Nat × Nat) :=
  let a := hoist.toNat
  match s.translate (nearSlice die a) asid a with
  | .ok l => some (s.localPa (l.phys a), if l.near then nearSlice die a else farSlice a)
  | .error _ => none

/-- A line that the device may step now: it lies in no image (R292), holds no poison (R434, R443), no link keeps it back (R408), and no copy
owns it (R320). -/
def State.steppable (s : State) (pa : Nat) : Bool :=
  (s.imageLine pa).isNone && !s.poisonedAt pa && !(linkOf pa).any s.noCredit.contains && !s.heldBack pa

/-- The physical address of a hoist record that a requester of a die may step now; otherwise the step waits (DESIGN CHOICE,
log 29). -/
def State.recordPa (s : State) (die asid : Nat) (hoist : Word) : Option Nat :=
  ((s.recordAt die asid hoist).map fun p => p.1).filter s.steppable

/-- A UALink without credit keeps back the step at a hoist record, or the walk to it (R405). -/
def State.recordLinked (s : State) (die asid : Nat) (hoist : Word) : Bool :=
  let dead := fun (l : Link) => match l with
    | .ualink _ => s.noCredit.contains l
    | .port _ => false
  match s.translate (nearSlice die hoist.toNat) asid hoist.toNat with
  | .ok l => (linkOf (s.localPa (l.phys hoist.toNat))).any dead
  | .error (.stalled l) => dead l
  | .error _ => false

/-- The step leaves its translation behind, the line is held at the slice that performs it (R289, R290) unless its page is an IO page or
another device's (R286, R405), and a watchpoint may see it (R354). -/
def State.noteRecord (s : State) (src : Origin) (asid : Nat) (hoist : Word) : State :=
  match s.recordAt src.die asid hoist with
  | some (pa, home) =>
    let a := hoist.toNat
    let w := recordWho src asid
    let cached := !s.uncached w a
    let s := s.noteTranslation (nearSlice src.die a) asid a
    (if cached then (s.countL2 pa home).holdLine w a pa home else s).noteWatch w 2 a 32
  | none => s

/-- The fields of a hoist record in memory (R224). -/
def State.recOutstanding (s : State) (pa : Nat) : Nat := s.readPa pa 8
def State.recMinted (s : State) (pa : Nat) : Nat := s.readPa (pa + 8) 8
def State.recKilled (s : State) (pa : Nat) : Nat := s.readPa (pa + 16) 4
def State.recOpen (s : State) (pa : Nat) : Bool := bitAt (s.readPa (pa + 20) 1) 0
def State.recNeg (s : State) (pa : Nat) : Bool := bitAt (s.readPa (pa + 20) 1) 1
def State.recWaiter (s : State) (pa : Nat) : Nat := s.readPa (pa + 24) 8

/-- STATUS (R224). -/
def statusByte (open_ neg : Bool) : Nat := (if open_ then 1 else 0) + (if neg then 2 else 0)

/-- Write OUTSTANDING, MINTED, KILLED, STATUS and WAITER in one step. -/
def State.setRecord (s : State) (pa out minted killed status waiter : Nat) : State :=
  s.deviceBytes pa (leBytes 8 out ++ leBytes 8 minted ++ leBytes 4 killed ++ leBytes 4 status ++ leBytes 8 waiter)

/-- The step that closes a record at zero and wakes its waiter: a parked waitq, or the front end, which sees the
closed record (R261, R373). -/
def State.wakeWaiter (s : State) (waiter : Nat) : State :=
  s.mapTask (BitVec.ofNat 64 waiter) fun t =>
    let t := { t with purse := { t.purse with quiet := true } }
    if t.flow.wait == .quiet then t.wake .yes else t

/-- A returned amount arrives at a record (R225, R261); a kill counts there (R223). -/
def State.returnStep (s : State) (pa amount : Nat) (kill : Bool) : State :=
  let bad := decide (s.recOutstanding pa < amount) || !s.recOpen pa
  let out := if bad then 0 else s.recOutstanding pa - amount
  let killed := if kill then min (s.recKilled pa + 1) (2 ^ 32 - 1) else s.recKilled pa
  let quiet := s.recOpen pa && out == 0 && s.recWaiter pa != 0
  let w := s.recWaiter pa
  let s := s.setRecord pa out (s.recMinted pa) killed (statusByte (s.recOpen pa && !quiet) (s.recNeg pa || bad)) w
  if quiet then s.wakeWaiter w else s

/-- A borrow at a record (R228): the state and whether it is granted. -/
def State.borrowStep (s : State) (pa : Nat) : State × Bool :=
  if !s.recOpen pa then (s.deviceWrite (pa + 20) 1 (statusByte false true), false)
  else if 2 ^ 63 < s.recMinted pa + 2 ^ 16 then (s, false)
  else
    ((s.deviceWrite pa 8 (s.recOutstanding pa + 2 ^ 16)).deviceWrite (pa + 8) 8 (s.recMinted pa + 2 ^ 16), true)

/-- Send a return of weight on its way from its sender; nothing is sent for zero, though a return of 0 would set NEG at a closed record
(DESIGN CHOICE, log 76). -/
def State.sendReturn (s : State) (src : Origin) (asid : Nat) (hoist : Word) (amount : Nat) (kill : Bool) : State :=
  if amount = 0 && !kill then s
  else
    { s with
      nextId := s.nextId + 1
      returns := s.returns.set s.nextId { src := src, asid := asid, hoist := hoist, amount := amount, kill := kill } }

/-- Send a borrow and stall until its answer (R225, R228). -/
def State.sendBorrow (s : State) (i : Nat) (t : Task) : State :=
  let id := s.nextId
  let s := { s with
    nextId := id + 1
    borrows := s.borrows.set id { src := coreOrigin (ctxCore i) t.ident.tid, tid := t.ident.tid, asid := t.ident.asid, hoist := t.purse.hoist, answer := none, since := none } }
  (s.setTask i { t with flow := { t.flow with wait := .borrow id, woken := .no } }).countEvent i 17 1

/-- The weight an instruction needs before it sends (R225): enough, a borrow to make, a refused one, or one that a UALink has held for 2 ms
(R405). -/
inductive Need where
  | ok
  | borrow
  | refused
  | late
deriving DecidableEq, Repr

def Task.need (t : Task) (least : Nat) : Need :=
  if least ≤ t.purse.weight then .ok
  else match t.flow.woken with
    | .refused => .refused
    | .late => .late
    | _ => .borrow

/-- An instruction whose borrow a UALink has held for 2 ms raises POISON, with the address of the record (R405, DESIGN CHOICE, log 31). -/
def State.borrowLate (s : State) (t : Task) : Out := s.trapAcc t POISON 2 t.purse.hoist

/-- The task after it hands over weight. -/
def Task.give (t : Task) (n : Nat) : Task := { t with purse := { t.purse with weight := t.purse.weight - n } }

/-! ### Paths (R252 to R255) -/

/-- Zero bits below the lowest set bit, by fuel. -/
def ctzFrom (x : Nat) : Nat → Nat
  | 0 => 0
  | n + 1 => if x % 2 == 1 then 0 else 1 + ctzFrom (x / 2) n

/-- The length of a path string (R252). -/
def pathLen (p : Word) : Nat := 63 - ctzFrom p.toNat 63

/-- The path of a child with a spawn index (R253, R254). -/
def childPath (p : Word) (index : Nat) : Word :=
  let l := pathLen p
  let n := index + 1
  let k := 2 * bitLength n - 1
  let str := p.toNat / 2 ^ (64 - l)
  if l + k ≤ 63 then BitVec.ofNat 64 ((str * 2 ^ k + n) * 2 ^ (64 - l - k) + 2 ^ (63 - l - k))
  else
    let t := min l 24
    let low := (mix64 (p ^^^ mix64 (BitVec.ofNat 64 index))).toNat % 2 ^ (63 - t)
    BitVec.ofNat 64 (str / 2 ^ (l - t) * 2 ^ (64 - t) + low * 2 + 1)

/-- The empty path (R255). -/
def emptyPath : Word := 0x8000000000000000

/-- The path of launch task j (R255). -/
def launchPath (j : Nat) : Word := childPath emptyPath j

/-- The next spawn index of a task, consumed. -/
def Task.nextIndex (t : Task) : Task :=
  { t with purse := { t.purse with spawnIx := (t.purse.spawnIx + 1) % 2 ^ 64 } }

/-! ### Placement (R217, R218, R219, R256) -/

/-- A core of a core set (R247). -/
def CoreSet.has (x : CoreSet) (c : Nat) : Bool :=
  match x with
  | .all => true
  | .named cs => cs.contains c

/-- A core that may take a task: in the set, in service, outside the column, not being measured. -/
def State.eligible (s : State) (x : CoreSet) (c : Nat) : Bool := x.has c && s.launchCore c && !(s.core c).health.measuring

/-- A core refused as a target (R218). -/
def State.coreRefused (s : State) (x : CoreSet) (c : Nat) : Bool := !s.launchCore c || !x.has c

/-- Tasks started on a core or waiting in its mailbox (R217). -/
def State.load_ (s : State) (c : Nat) : Nat :=
  (s.ctxs.filter fun e => ctxCore e.1 == c).length + (s.core c).mailbox.length

/-- The core of least load of a list, ties to the lower. -/
def State.leastLoaded (s : State) : List Nat → Option Nat
  | [] => none
  | c :: cs =>
    match s.leastLoaded cs with
    | none => some c
    | some d => if s.load_ c ≤ s.load_ d then some c else some d

/-- The fallback of R256: the lowest eligible core, the sender's die first. -/
def State.fallbackCore (s : State) (x : CoreSet) (die : Nat) : Option Nat :=
  [0, 1, 2, 3].findSome? fun k =>
    (List.range 1280).findSome? fun i =>
      let c := (die + k) % 4 * 1280 + i
      if s.eligible x c then some c else none

/-- The deterministic flag of a launch (R279, R371). -/
def State.determ (s : State) (launch : Option Nat) : Bool :=
  match launch with
  | some l => match s.launches.get? l with
    | some x => (x.record.getD 1 0).getLsbD 7
    | none => false
  | none => false

/-- Where a spawn goes (R217, R256): nowhere only while the whole set is being measured. -/
def State.spawnCore (s : State) (x : CoreSet) (det : Bool) (cluster : Nat) (path : Word) : Option Nat :=
  let cands := ((List.range 8).map fun i => 8 * cluster + i).filter (s.eligible x)
  match cands with
  | [] => s.fallbackCore x (clusterDie cluster)
  | _ => if det then cands[(mix64 path).toNat % cands.length]? else s.leastLoaded cands

/-- Where a callat goes (R219). -/
def State.callatCore (s : State) (x : CoreSet) (det : Bool) (core : Nat) (ea : Word) (path : Word) : Option Nat :=
  let a := ea.toNat
  let n := coreCluster core
  if a / 2 ^ 48 == 0xF0 then some core
  else if a / 2 ^ 48 == 0xF1 && decide (a % 2 ^ 48 < 8 * 2 ^ 20) then
    let c := 8 * n + a % 2 ^ 48 / 2 ^ 20
    if s.eligible x c then some c else s.spawnCore x det n path
  else
    let h := farSlice a
    match (List.range 8).find? fun k => s.eligible x (8 * h + (a / 64 + k) % 8) with
    | some k => some (8 * h + (a / 64 + k) % 8)
    | none => s.spawnCore x det n path

/-! ### Messages (R216, R249) -/

/-- Put a message on the fabric. -/
def State.depart (s : State) (m : Msg) : State :=
  { s with nextId := s.nextId + 1, fabric := s.fabric.set s.nextId { m with id := s.nextId } }

/-- A message of a task. -/
def taskMsg (i : Nat) (t : Task) (dst : Dest) (hdr : Word) (args : Vector Word 4) (weight : Nat) (path : Word)
    (parent : Option Word) (views : Tab View) : Msg :=
  { id := 0, dst := dst, hdr := hdr, args := args, s5 := t.ident.tid, weight := weight, hoist := t.purse.hoist,
    ident := { t.ident with tid := 0, path := path, parent := parent }, views := views, sender := some i,
    senderPath := t.ident.path, launchStart := false, arrived := 0 }

/-- A message enters its core: the mailbox while it has room and the ring is empty, else the ring, else it waits at
the stop (R249, R250). True when it was accepted. -/
def Core.accept (c : Core) (m : Msg) : Option (Core × Bool) :=
  if c.mailbox.length < 64 && c.spill.isEmpty then some ({ c with mailbox := c.mailbox ++ [m] }, false)
  else if c.spill.length < 512 then some ({ c with spill := c.spill ++ [m] }, true)
  else none

/-- The head entries of the ring move into freed mailbox entries (R249). -/
def Core.drain (c : Core) : Core :=
  let n := 64 - c.mailbox.length
  { c with mailbox := c.mailbox ++ c.spill.take n, spill := c.spill.drop n }

/-- The sender of an accepted message goes on (R216, R250). -/
def State.accepted (s : State) (m : Msg) : State :=
  if m.sender.isNone then s
  else s.mapTask m.s5 fun t => if t.flow.wait == .accept m.id then { t with flow := { t.flow with wait := .run } } else t

/-! ### The grid (R56, R58) -/

/-- The context leaves M mode and releases the grid. -/
def Task.leaveGrid (t : Task) : Task := { t with window := 0 }
def Core.releaseGrid (c : Core) (ctx : Nat) : Core := if c.grid == some ctx then { c with grid := none } else c

/-! ### The end of a task (R221, R223, R246) -/

/-- UPC_CAUSE of an engine fault (R338). -/
def Stuck.trap (k : Stuck) (tag : Nat) (parked : Bool) : Trap :=
  { cause k.code (BitVec.ofNat 64 k.addr) 0 with acc := k.acc, tag := tag, parked := parked }

/-- A free engine monitor leaves its slice. -/
def State.dropEngineMonitor (s : State) (k : Stuck) : State :=
  match k.monitor with
  | some n =>
    let c := s.cluster k.slice
    s.setCluster k.slice { c with engineMonitors := c.engineMonitors.erase n }
  | none => s

/-- An abandoned request: its unit returns and a KIND 3 record is written (R338). -/
def State.abandonRequest (s : State) (q : CopyReq) (k : Stuck) : State :=
  ((s.dropEngineMonitor k).sendReturn (engineOrigin (coreCluster q.core)) q.ident.asid q.hoist 1 false).postRecord q.ident.queue
    (Record.ofTask q.ident 3 0 ((k.trap q.tag false).word 0) (BitVec.ofNat 64 k.addr))

/-- The parked requests of a task that ends are abandoned (R338). -/
def State.abandonParked (s : State) (tid : Word) : List CopyReq → State
  | [] => s
  | q :: qs =>
    match q.stuck with
    | some k => if q.tid == tid then (s.abandonRequest q k).abandonParked tid qs else s.abandonParked tid qs
    | none => s.abandonParked tid qs

/-- A request of a task that has ended: it goes on, and stream data are discarded (R237), where a save had paused it too (R391). -/
def CopyReq.forgotten (q : CopyReq) (tid : Word) : CopyReq := if q.tid == tid then { q with buffer := none, paused := false } else q

/-- The engine forgets what it owed a task: pending completions are discarded, stream buffers no longer filled. -/
def Engine.forget (e : Engine) (tid : Word) : Engine :=
  { e with
    done := e.done.filter fun d => d.tid != tid
    active := (e.active.filter fun q => !(q.tid == tid && q.stuck.isSome)).map fun q => q.forgotten tid }

/-- Refused notifying atomics that an ending task has not learnt of leave records of KIND 3 (R140). -/
def State.softRecords (s : State) (t : Task) : State :=
  (t.flow.soft.filter fun c => c.acc == 2).foldl (fun s c => s.postRecord t.ident.queue (Record.ofTask t.ident 3 0 (c.word 0) c.addr)) s

/-- What the engines and the slices owed a task that ends (R140, R237, R301, R338), and its forwarding entry (R395). -/
def State.forgetTask (s : State) (t : Task) : State :=
  let tid := t.ident.tid
  let s := (s.softRecords t).abandonParked tid (s.clusters.map fun c => c.2.engine.active).flatten
  { s with
    clusters := s.clusters.map fun c => (c.1, { c.2 with engine := c.2.engine.forget tid })
    cores := s.cores.map fun e =>
      (e.1, { e.2 with forward := e.2.forward.erase tid.toNat, fifo := e.2.fifo.map fun q => q.forgotten tid }) }

/-- Free the context and bank of context i, to be offered in the next cycle (R221, R246). -/
def State.freeContext (s : State) (i : Nat) (t : Task) : State :=
  let k := ctxCore i
  let c := (s.core k).releaseGrid (ctxNum i)
  let c := { c with
    gridQueue := c.gridQueue.filter (· != ctxNum i)
    freed := c.freed.set (ctxNum i) c.cycle
    reserved := if c.reserved == some (ctxNum i) then none else c.reserved
    grant := if c.grant == some (ctxNum i) then none else c.grant }
  let s := (s.setCore k c).forgetTask t
  { s with ctxs := s.ctxs.erase i }

/-- The weight of a task that ends on a core: the purse to an open inner hoist, then the outer weight (R221, R268). -/
def State.returnPurse (s : State) (core : Nat) (t : Task) (kill : Bool) : State :=
  let src := coreOrigin core t.ident.tid
  match t.purse.outer with
  | some (h, w) =>
    (s.sendReturn src t.ident.asid t.purse.hoist t.purse.weight kill).sendReturn src t.ident.asid h w false
  | none => s.sendReturn src t.ident.asid t.purse.hoist t.purse.weight kill

/-- The chains a task declared. -/
def Task.declaredChains (t : Task) : List Nat := (t.views.filter fun v => v.2.declared).map fun v => v.2.chain

/-- WAITER of a record no longer names a task (R268): a step at the record, which waits where it cannot be made now. -/
def State.clearWaiter (s : State) (src : Origin) (asid : Nat) (hoist tid : Word) : State :=
  match s.recordPa src.die asid hoist with
  | some pa => if s.recWaiter pa = tid.toNat then (s.noteRecord src asid hoist).deviceWrite (pa + 24) 8 0 else s
  | none => { s with owed := s.owed ++ [.waiter src asid hoist tid] }

/-- A task that ends no longer waits at the record of its open hoist (R268), parked or saved in its waitq. -/
def State.forgetWaiter (s : State) (core : Nat) (t : Task) : State :=
  if t.purse.outer.isSome then s.clearWaiter (coreOrigin core t.ident.tid) t.ident.asid t.purse.hoist t.ident.tid else s

/-- A unit of weight returns once the records of a queue that are posted before are written (R406). -/
def State.returnAfter (s : State) (q : Nat) (src : Origin) (asid : Nat) (hoist : Word) (amount : Nat) : State :=
  let waits := s.owed.any fun x => match x with
    | .record p _ => p == q
    | _ => false
  if waits then { s with owed := s.owed ++ [.unit q src asid hoist amount] } else s.sendReturn src asid hoist amount false

/-- A write of the device that has waited is tried again. -/
def State.redo (s : State) (x : Owed) : State :=
  match x with
  | .unit q src asid hoist amount => s.returnAfter q src asid hoist amount
  | .bytes pa bs => s.deviceBytes pa bs
  | .record q bs => s.ringRecord q bs
  | .waiter src asid hoist tid => s.clearWaiter src asid hoist tid

/-- The writes of the device that had to wait, in order. -/
def State.settleOwed (s : State) : State := s.owed.foldl State.redo { s with owed := [] }

/-- A chain's fault is the task's to take: of a combination it owes, or of its join (R278). -/
def Chain.faultOf (c : Chain) (tid : Word) : Bool :=
  c.fault.isSome && (match c.work with
    | w :: _ => w.tid == tid
    | [] => c.joining && c.declarer == tid)

/-- A merge fault that the task has not taken yet. -/
def State.mergeFault (s : State) (tid : Word) : Option (Nat × Trap) :=
  s.chains.findSome? fun c => if c.2.faultOf tid && !c.2.told then c.2.fault.map fun x => (c.1, x) else none

/-- A halt or join of the task is suspended in the upcall of a merge fault. -/
def State.mergeUpcall (s : State) (tid : Word) : Bool := s.chains.any fun c => c.2.faultOf tid && c.2.told

/-- The task runs the handler of that upcall, where it may not change its views, end or spawn (R278). -/
def State.inMergeHandler (s : State) (t : Task) : Bool := t.flow.inUpcall && s.mergeUpcall t.ident.tid

/-- Every chain of a list meets a condition. -/
def State.chainsAll (s : State) (ds : List Nat) (f : Chain → Bool) : Bool :=
  ds.all fun d => (s.chains.get? d).elim true f

/-- A kill of the task does nothing: it is halting, or a merge fault has suspended its halt or join (R223, R278). A halt whose declared
chains have not gone on to their real tiles yet has not begun its merge, and a kill ends it (R222, R244, DEDUCED, log 75). -/
def State.unkillable (s : State) (t : Task) : Bool :=
  (t.flow.halting && s.chainsAll t.declaredChains (·.joining)) || s.mergeUpcall t.ident.tid

/-- The step that faulted is made again once the task has returned from the upcall (R278). -/
def State.resumeMerge (s : State) (tid : Word) : State :=
  { s with chains := s.chains.map fun c => (c.1, if c.2.faultOf tid && c.2.told then { c.2 with fault := none, told := false } else c.2) }

/-- The effect of a kill on a task, in a context or saved (R223): its segments close empty, its own chains are
discarded, its weight returns and KILLED counts, and its context and bank are freed. -/
def State.killTask (s : State) (tid : Word) : State :=
  match s.ctxOf tid, s.savedOf tid with
  | some i, _ =>
    match s.task? i with
    | some t =>
      let s := s.emptyViews tid (coreCluster (ctxCore i)) t.views
      let s := t.declaredChains.foldl State.discardChain s
      ((s.forgetWaiter (ctxCore i) t).returnPurse (ctxCore i) t true).freeContext i t
    | none => s
  | none, some (n, r) =>
    let s := s.emptyViews tid (coreCluster r.core) r.task.views
    let s := r.task.declaredChains.foldl State.discardChain s
    let s := ((s.forgetWaiter r.core r.task).returnPurse r.core r.task true).forgetTask r.task
    s.eraseSaved n
  | none, none => s

end Sys2Proof.Machine
end

