-- ==== Sys2Proof/Machine/Scalar.lean ====
section
/-! DEFINITION. Scalar arithmetic, bits, immediates, constants, compares, predicates and select (05 R117 to R128). -/

namespace Sys2Proof.Machine

/-! ### Shared shapes -/

/-- The word of an instruction, for its traits. -/
def traits (i : Instr) : Traits := { word := word0 i }

/-- An s register as a pending register; s0 holds nothing (R33, R51). -/
def sRes (r : SReg) : List Res := if r = 0 then [] else [.s r.val]

/-- A predicate as a pending register. -/
def pRes (p : Nat) : List Res := if p = 0 then [] else [.p p]

/-- The traits of an instruction whose results in the listed registers come after n cycles (R48). -/
def Traits.after (tr : Traits) (n : Nat) (rs : List Res) : Traits := { tr with results := rs.map fun r => (some r, n) }

/-- An instruction whose whole effect is on its own context's registers. -/
def scalarOp (tr : Traits) (f : Task → Task) (s : State) : Out :=
  issue tr (fun s t => .next (s.retire tr (f t))) s

/-- The traits of a 32-bit word with a destination, sources and a guard. -/
def regTraits (i : Instr) (g : Nat) (regs : List SReg) : Traits :=
  { traits i with guard := g, touched := fun _ => (regs.map sRes).flatten ++ pRes g }

/-- The traits of a long form. -/
def longTraits (i : Instr) (g : Nat) (regs : List SReg) : Traits := { regTraits i g regs with bytes := 8 }

/-! ### Register arithmetic and logic (R117, R118) -/

/-- The high half of a product of two 64-bit integers. -/
def highHalf (x y : Int) : Word := BitVec.ofInt 64 ((x * y) / 2 ^ 64)

/-- Quotient and remainder (R118). -/
def divSigned (x y : Word) : Word × Word :=
  if y = 0 then (BitVec.allOnes 64, x)
  else if x = BitVec.ofInt 64 (-(2 ^ 63)) ∧ y = BitVec.allOnes 64 then (x, 0)
  else (BitVec.ofInt 64 (x.toInt.tdiv y.toInt), BitVec.ofInt 64 (x.toInt.tmod y.toInt))
def divUnsigned (x y : Word) : Word × Word :=
  if y = 0 then (BitVec.allOnes 64, x) else (BitVec.ofNat 64 (x.toNat / y.toNat), BitVec.ofNat 64 (x.toNat % y.toNat))

/-- A shift amount: bits [5:0] of a register (R117). -/
def amount (x : Word) : Nat := x.toNat % 64

/-- add: the sum (R117). -/
def execAdd (d a b : SReg) (g : PReg) (s : State) : Out :=
  scalarOp (regTraits (.add d a b g) g [d, a, b]) (fun t => t.setS d (t.getS a + t.getS b)) s

/-- sub: the difference (R117). -/
def execSub (d a b : SReg) (g : PReg) (s : State) : Out :=
  scalarOp (regTraits (.sub d a b g) g [d, a, b]) (fun t => t.setS d (t.getS a - t.getS b)) s

/-- mul: the low half of the product (R117). -/
def execMul (d a b : SReg) (g : PReg) (s : State) : Out :=
  scalarOp ((regTraits (.mul d a b g) g [d, a, b]).after 4 (sRes d)) (fun t => t.setS d (t.getS a * t.getS b)) s

/-- mulh: the high half of the signed product (R117). -/
def execMulh (d a b : SReg) (g : PReg) (s : State) : Out :=
  scalarOp ((regTraits (.mulh d a b g) g [d, a, b]).after 4 (sRes d)) (fun t => t.setS d (highHalf (t.getS a).toInt (t.getS b).toInt)) s

/-- mulhn: the high half of the unsigned product (R117). -/
def execMulhn (d a b : SReg) (g : PReg) (s : State) : Out :=
  scalarOp ((regTraits (.mulhn d a b g) g [d, a, b]).after 4 (sRes d)) (fun t => t.setS d (highHalf (t.getS a).toNat (t.getS b).toNat)) s

/-- div: the signed quotient (R118). -/
def execDiv (d a b : SReg) (g : PReg) (s : State) : Out :=
  scalarOp (({ regTraits (.div d a b g) g [d, a, b] with divides := true } : Traits).after 36 (sRes d)) (fun t => t.setS d ((divSigned (t.getS a) (t.getS b)).1)) s

/-- divn: the unsigned quotient (R118). -/
def execDivn (d a b : SReg) (g : PReg) (s : State) : Out :=
  scalarOp (({ regTraits (.divn d a b g) g [d, a, b] with divides := true } : Traits).after 36 (sRes d)) (fun t => t.setS d ((divUnsigned (t.getS a) (t.getS b)).1)) s

/-- rem: the signed remainder (R118). -/
def execRem (d a b : SReg) (g : PReg) (s : State) : Out :=
  scalarOp (({ regTraits (.rem d a b g) g [d, a, b] with divides := true } : Traits).after 36 (sRes d)) (fun t => t.setS d ((divSigned (t.getS a) (t.getS b)).2)) s

/-- remn: the unsigned remainder (R118). -/
def execRemn (d a b : SReg) (g : PReg) (s : State) : Out :=
  scalarOp (({ regTraits (.remn d a b g) g [d, a, b] with divides := true } : Traits).after 36 (sRes d)) (fun t => t.setS d ((divUnsigned (t.getS a) (t.getS b)).2)) s

/-- and (R117). -/
def execAnd (d a b : SReg) (g : PReg) (s : State) : Out :=
  scalarOp (regTraits (.and d a b g) g [d, a, b]) (fun t => t.setS d (t.getS a &&& t.getS b)) s

/-- or (R117). -/
def execOr (d a b : SReg) (g : PReg) (s : State) : Out :=
  scalarOp (regTraits (.or d a b g) g [d, a, b]) (fun t => t.setS d (t.getS a ||| t.getS b)) s

/-- xor (R117). -/
def execXor (d a b : SReg) (g : PReg) (s : State) : Out :=
  scalarOp (regTraits (.xor d a b g) g [d, a, b]) (fun t => t.setS d (t.getS a ^^^ t.getS b)) s

/-- shl: left by s[b][5:0] (R117). -/
def execShl (d a b : SReg) (g : PReg) (s : State) : Out :=
  scalarOp (regTraits (.shl d a b g) g [d, a, b]) (fun t => t.setS d (t.getS a <<< amount (t.getS b))) s

/-- shr: right with zeros by s[b][5:0] (R117). -/
def execShr (d a b : SReg) (g : PReg) (s : State) : Out :=
  scalarOp (regTraits (.shr d a b g) g [d, a, b]) (fun t => t.setS d (t.getS a >>> amount (t.getS b))) s

/-- sha: right with the sign by s[b][5:0] (R117). -/
def execSha (d a b : SReg) (g : PReg) (s : State) : Out :=
  scalarOp (regTraits (.sha d a b g) g [d, a, b]) (fun t => t.setS d ((t.getS a).sshiftRight (amount (t.getS b)))) s

/-- rot: rotated right by s[b][5:0] (R117). -/
def execRot (d a b : SReg) (g : PReg) (s : State) : Out :=
  scalarOp (regTraits (.rot d a b g) g [d, a, b]) (fun t => t.setS d ((t.getS a).rotateRight (amount (t.getS b)))) s

/-- min, signed (R117). -/
def execMin (d a b : SReg) (g : PReg) (s : State) : Out :=
  scalarOp (regTraits (.min d a b g) g [d, a, b]) (fun t => t.setS d (if (t.getS a).sle (t.getS b) then t.getS a else t.getS b)) s

/-- max, signed (R117). -/
def execMax (d a b : SReg) (g : PReg) (s : State) : Out :=
  scalarOp (regTraits (.max d a b g) g [d, a, b]) (fun t => t.setS d (if (t.getS a).sle (t.getS b) then t.getS b else t.getS a)) s

/-- minn, unsigned (R117). -/
def execMinn (d a b : SReg) (g : PReg) (s : State) : Out :=
  scalarOp (regTraits (.minn d a b g) g [d, a, b]) (fun t => t.setS d (if (t.getS a).ule (t.getS b) then t.getS a else t.getS b)) s

/-- maxn, unsigned (R117). -/
def execMaxn (d a b : SReg) (g : PReg) (s : State) : Out :=
  scalarOp (regTraits (.maxn d a b g) g [d, a, b]) (fun t => t.setS d (if (t.getS a).ule (t.getS b) then t.getS b else t.getS a)) s

/-- lea: s[a] + (s[b] << sh) (R117, R124). -/
def execLea (d a b : SReg) (sh : Fin 4) (g : PReg) (s : State) : Out :=
  scalarOp (regTraits (.lea d a b sh g) g [d, a, b]) (fun t => t.setS d (t.getS a + t.getS b <<< sh.val)) s

/-! ### Bit operations (R120, R121) -/

/-- The bit order reversed. -/
def reverseBits (x : Word) : Word := BitVec.ofNat 64 ((List.range 64).foldl (fun n i => 2 * n + (x.getLsbD i).toNat) 0)

/-- The number of set bits. -/
def countBits (x : Word) : Nat := (List.range 64).foldl (fun n i => if x.getLsbD i then n + 1 else n) 0

/-- Zero bits below the lowest set bit of 64. -/
def trailingZeros (x : Word) : Nat := ((List.range 64).find? fun i => x.getLsbD i).getD 64

/-- Zero bits above the highest set bit of 64. -/
def leadingZeros (x : Word) : Nat := ((List.range 64).find? fun i => x.getLsbD (63 - i)).getD 64

/-- clz (R120). -/
def execClz (d a : SReg) (g : PReg) (s : State) : Out :=
  scalarOp (regTraits (.clz d a g) g [d, a]) (fun t => t.setS d (BitVec.ofNat 64 (leadingZeros (t.getS a)))) s

/-- ctz (R120). -/
def execCtz (d a : SReg) (g : PReg) (s : State) : Out :=
  scalarOp (regTraits (.ctz d a g) g [d, a]) (fun t => t.setS d (BitVec.ofNat 64 (trailingZeros (t.getS a)))) s

/-- popc (R120). -/
def execPopc (d a : SReg) (g : PReg) (s : State) : Out :=
  scalarOp (regTraits (.popc d a g) g [d, a]) (fun t => t.setS d (BitVec.ofNat 64 (countBits (t.getS a)))) s

/-- brev (R120). -/
def execBrev (d a : SReg) (g : PReg) (s : State) : Out :=
  scalarOp (regTraits (.brev d a g) g [d, a]) (fun t => t.setS d (reverseBits (t.getS a))) s

/-- Position and length of a field descriptor (R121). -/
def fieldPos (x : Word) : Nat := x.toNat % 64
def fieldLen (x : Word) : Nat := min (bitsAt x.toNat 14 8) 64

/-- The ones of a field of `len` bits. -/
def fieldMask (len : Nat) : Word := BitVec.ofNat 64 (2 ^ len - 1)

/-- bext (R121). -/
def execBext (d a b : SReg) (g : PReg) (s : State) : Out :=
  scalarOp (regTraits (.bext d a b g) g [d, a, b])
    (fun t => t.setS d ((t.getS a >>> fieldPos (t.getS b)) &&& fieldMask (fieldLen (t.getS b)))) s

/-- bins: reads s[d] as well; bits above bit 63 are dropped (R121). -/
def execBins (d a b : SReg) (g : PReg) (s : State) : Out :=
  scalarOp (regTraits (.bins d a b g) g [d, a, b])
    (fun t =>
      let m := fieldMask (fieldLen (t.getS b)) <<< fieldPos (t.getS b)
      t.setS d ((t.getS d &&& ~~~m) ||| ((t.getS a <<< fieldPos (t.getS b)) &&& m))) s

/-! ### Immediates, constants and addresses (R119, R122, R123) -/

/-- addi (R119). -/
def execAddi (d a : SReg) (imm : BitVec 11) (g : PReg) (s : State) : Out :=
  scalarOp (regTraits (.addi d a imm g) g [d, a]) (fun t => t.setS d (t.getS a + sext imm)) s

/-- andi (R119). -/
def execAndi (d a : SReg) (imm : BitVec 11) (g : PReg) (s : State) : Out :=
  scalarOp (regTraits (.andi d a imm g) g [d, a]) (fun t => t.setS d (t.getS a &&& sext imm)) s

/-- ori (R119). -/
def execOri (d a : SReg) (imm : BitVec 11) (g : PReg) (s : State) : Out :=
  scalarOp (regTraits (.ori d a imm g) g [d, a]) (fun t => t.setS d (t.getS a ||| sext imm)) s

/-- xori (R119). -/
def execXori (d a : SReg) (imm : BitVec 11) (g : PReg) (s : State) : Out :=
  scalarOp (regTraits (.xori d a imm g) g [d, a]) (fun t => t.setS d (t.getS a ^^^ sext imm)) s

/-- shli (R119). -/
def execShli (d a : SReg) (n : Fin 64) (g : PReg) (s : State) : Out :=
  scalarOp (regTraits (.shli d a n g) g [d, a]) (fun t => t.setS d (t.getS a <<< n.val)) s

/-- shri (R119). -/
def execShri (d a : SReg) (n : Fin 64) (g : PReg) (s : State) : Out :=
  scalarOp (regTraits (.shri d a n g) g [d, a]) (fun t => t.setS d (t.getS a >>> n.val)) s

/-- shai (R119). -/
def execShai (d a : SReg) (n : Fin 64) (g : PReg) (s : State) : Out :=
  scalarOp (regTraits (.shai d a n g) g [d, a]) (fun t => t.setS d ((t.getS a).sshiftRight n.val)) s

/-- roti (R119). -/
def execRoti (d a : SReg) (n : Fin 64) (g : PReg) (s : State) : Out :=
  scalarOp (regTraits (.roti d a n g) g [d, a]) (fun t => t.setS d ((t.getS a).rotateRight n.val)) s

/-- addi with imm32 (R119). -/
def execAddiLong (d a : SReg) (imm : BitVec 32) (g : GReg) (s : State) : Out :=
  scalarOp (longTraits (.addiLong d a imm g) g [d, a]) (fun t => t.setS d (t.getS a + sext imm)) s

/-- andi with imm32 (R119). -/
def execAndiLong (d a : SReg) (imm : BitVec 32) (g : GReg) (s : State) : Out :=
  scalarOp (longTraits (.andiLong d a imm g) g [d, a]) (fun t => t.setS d (t.getS a &&& sext imm)) s

/-- ori with imm32 (R119). -/
def execOriLong (d a : SReg) (imm : BitVec 32) (g : GReg) (s : State) : Out :=
  scalarOp (longTraits (.oriLong d a imm g) g [d, a]) (fun t => t.setS d (t.getS a ||| sext imm)) s

/-- xori with imm32 (R119). -/
def execXoriLong (d a : SReg) (imm : BitVec 32) (g : GReg) (s : State) : Out :=
  scalarOp (longTraits (.xoriLong d a imm g) g [d, a]) (fun t => t.setS d (t.getS a ^^^ sext imm)) s

/-- lih: Sext(imm17) << 11 (R122). -/
def execLih (d : SReg) (imm : BitVec 17) (g : PReg) (s : State) : Out :=
  scalarOp (regTraits (.lih d imm g) g [d]) (fun t => t.setS d (sext imm <<< 11)) s

/-- movi: Sext(imm32) (R122). -/
def execMovi (d : SReg) (imm : BitVec 32) (g : GReg) (s : State) : Out :=
  scalarOp (longTraits (.movi d imm g) g [d]) (fun t => t.setS d (sext imm)) s

/-- addpc: the address of the instruction plus Sext(imm17) x 4 (R123). -/
def execAddpc (d : SReg) (imm : BitVec 17) (g : PReg) (s : State) : Out :=
  scalarOp (regTraits (.addpc d imm g) g [d]) (fun t => t.setS d (t.regs.pc + sext imm <<< 2)) s

/-! ### Compares, predicates and select (R125 to R128) -/

/-- cmp (R125). -/
def execCmp (cc : Cc) (pd : PReg) (a b : SReg) (g : PReg) (s : State) : Out :=
  let tr := regTraits (.cmp cc pd a b g) g [a, b]
  scalarOp { tr with touched := fun t => tr.touched t ++ pRes pd } (fun t => t.setP pd (cc.holds (t.getS a) (t.getS b))) s

/-- cmpi (R126). -/
def execCmpi (cc : Cc) (pd : PReg) (a : SReg) (imm : BitVec 11) (g : PReg) (s : State) : Out :=
  let tr := regTraits (.cmpi cc pd a imm g) g [a]
  scalarOp { tr with touched := fun t => tr.touched t ++ pRes pd } (fun t => t.setP pd (cc.holds (t.getS a) (sext imm))) s

/-- cmpi with imm32 (R126). -/
def execCmpiLong (cc : Cc) (pd : PReg) (a : SReg) (imm : BitVec 32) (g : GReg) (s : State) : Out :=
  let tr := longTraits (.cmpiLong cc pd a imm g) g [a]
  scalarOp { tr with touched := fun t => tr.touched t ++ pRes pd } (fun t => t.setP pd (cc.holds (t.getS a) (sext imm))) s

/-- The bit of a truth table that two predicates select (R127). -/
def truthBit (pa pb : Bool) : Nat := 2 * pa.toNat + pb.toNat

/-- plog: bit (2 p[pa] + p[pb]) of the truth table (R127). -/
def execPlog (pd pa pb : PReg) (tt : BitVec 4) (g : PReg) (s : State) : Out :=
  let tr := traits (.plog pd pa pb tt g)
  scalarOp { tr with guard := g, touched := fun _ => pRes pd ++ pRes pa ++ pRes pb ++ pRes g }
    (fun t => t.setP pd (tt.getLsbD (truthBit (t.getP pa) (t.getP pb)))) s

/-- sel: never suppressed (R128). -/
def execSel (d a b : SReg) (pc : PReg) (s : State) : Out :=
  let tr := regTraits (.sel d a b pc) 0 [d, a, b]
  scalarOp { tr with touched := fun t => tr.touched t ++ pRes pc }
    (fun t => t.setS d (if t.getP pc then t.getS a else t.getS b)) s

end Sys2Proof.Machine
end

