-- ==== Sys2Proof/Machine/ScalarMem.lean ====
section
/-! DEFINITION. Scalar loads and stores and parameter windows (05 R129 to R135). An acquire completes before later accesses of its
context, and a release after earlier ones, in whatever scope (12 R311); the accesses of all agents are performed one after
another (log 14). -/

namespace Sys2Proof

/-- Bytes and extension of a long-form size (R115, R129). -/
def MemSize.len : MemSize → Nat
  | .b | .bn => 1
  | .h | .hn => 2
  | .w | .wn => 4
  | .d => 8
def MemSize.signed : MemSize → Bool
  | .b | .h | .w => true
  | _ => false

/-- The ordering of an SM word (R93): an acquire of a load, a release of a store. -/
def SmOrd.orders (o : SmOrd) : Bool := o != .rlx

/-- The orderings of a long form that make a load an acquire and a store a release (R311). -/
def MemOrd.acquires (o : MemOrd) : Bool := o == .acq || o == .acqrel || o == .sc
def MemOrd.releases (o : MemOrd) : Bool := o == .rel || o == .acqrel || o == .sc

end Sys2Proof

namespace Sys2Proof.Machine

/-- The checks of R130 at the core: alignment, then bits [63:56]. -/
def eaCause (ea : Word) (len : Nat) : Option Nat :=
  if ea.toNat % len != 0 then some ALIGN else if !addrOk ea then some XLATE else none

/-- The address of an SM form: the offset is scaled by the size (R130). -/
def smAddr (t : Task) (a : SReg) (off : BitVec 8) (len : Nat) : Word := t.getS a + sext off * BitVec.ofNat 64 len

/-- A scalar load: s[d] from len bytes at an address computed at issue (R130, R132). -/
def loadOp (tr : Traits) (d : SReg) (len : Nat) (signed acq : Bool) (la : Nat) (ea : Task → Word) (s : State) : Out :=
  issue tr (fun s t =>
    match eaCause (ea t) len with
    | some code => s.trapAcc t code 0 (ea t)
    | none => s.longOp tr t la (.load d len signed acq (ea t)) (sRes d)) s

/-- A scalar store: s[d] is read at issue, and nothing is pending (R130, R132). -/
def storeOp (tr : Traits) (d : SReg) (len : Nat) (rel : Bool) (la : Nat) (ea : Task → Word) (s : State) : Out :=
  issue tr (fun s t =>
    match eaCause (ea t) len with
    | some code => s.trapAcc t code 1 (ea t)
    | none => s.longOp tr t la (.store len rel (ea t) (t.getS d)) []) s

/-- ld.d (R129, R130). -/
def execLdD (d a : SReg) (off : BitVec 8) (la : Fin 16) (ord : SmOrd) (s : State) : Out :=
  loadOp (regTraits (.ldD d a off la ord) 0 [d, a]) d 8 false ord.orders la.val (fun t => smAddr t a off 8) s

/-- ld.w, sign-extended (R129, R130). -/
def execLdW (d a : SReg) (off : BitVec 8) (la : Fin 16) (ord : SmOrd) (s : State) : Out :=
  loadOp (regTraits (.ldW d a off la ord) 0 [d, a]) d 4 true ord.orders la.val (fun t => smAddr t a off 4) s

/-- ld.wn, zero-extended (R129, R130). -/
def execLdWn (d a : SReg) (off : BitVec 8) (la : Fin 16) (ord : SmOrd) (s : State) : Out :=
  loadOp (regTraits (.ldWn d a off la ord) 0 [d, a]) d 4 false ord.orders la.val (fun t => smAddr t a off 4) s

/-- st.d (R129, R130). -/
def execStD (d a : SReg) (off : BitVec 8) (la : Fin 16) (ord : SmOrd) (s : State) : Out :=
  storeOp (regTraits (.stD d a off la ord) 0 [d, a]) d 8 ord.orders la.val (fun t => smAddr t a off 8) s

/-- st.w (R129, R130). -/
def execStW (d a : SReg) (off : BitVec 8) (la : Fin 16) (ord : SmOrd) (s : State) : Out :=
  storeOp (regTraits (.stW d a off la ord) 0 [d, a]) d 4 ord.orders la.val (fun t => smAddr t a off 4) s

/-- ldx.b: at s[a] + s[b], with lookahead 0 (R130, R132). -/
def execLdxB (d a b : SReg) (g : PReg) (s : State) : Out :=
  loadOp (regTraits (.ldxB d a b g) g [d, a, b]) d 1 true false 0 (fun t => t.getS a + t.getS b) s

/-- ldx.bn: at s[a] + s[b], with lookahead 0 (R130, R132). -/
def execLdxBn (d a b : SReg) (g : PReg) (s : State) : Out :=
  loadOp (regTraits (.ldxBn d a b g) g [d, a, b]) d 1 false false 0 (fun t => t.getS a + t.getS b) s

/-- ldx.h: at s[a] + s[b], with lookahead 0 (R130, R132). -/
def execLdxH (d a b : SReg) (g : PReg) (s : State) : Out :=
  loadOp (regTraits (.ldxH d a b g) g [d, a, b]) d 2 true false 0 (fun t => t.getS a + t.getS b) s

/-- ldx.hn: at s[a] + s[b], with lookahead 0 (R130, R132). -/
def execLdxHn (d a b : SReg) (g : PReg) (s : State) : Out :=
  loadOp (regTraits (.ldxHn d a b g) g [d, a, b]) d 2 false false 0 (fun t => t.getS a + t.getS b) s

/-- ldx.w: at s[a] + s[b], with lookahead 0 (R130, R132). -/
def execLdxW (d a b : SReg) (g : PReg) (s : State) : Out :=
  loadOp (regTraits (.ldxW d a b g) g [d, a, b]) d 4 true false 0 (fun t => t.getS a + t.getS b) s

/-- ldx.wn: at s[a] + s[b], with lookahead 0 (R130, R132). -/
def execLdxWn (d a b : SReg) (g : PReg) (s : State) : Out :=
  loadOp (regTraits (.ldxWn d a b g) g [d, a, b]) d 4 false false 0 (fun t => t.getS a + t.getS b) s

/-- ldx.d: at s[a] + s[b], with lookahead 0 (R130, R132). -/
def execLdxD (d a b : SReg) (g : PReg) (s : State) : Out :=
  loadOp (regTraits (.ldxD d a b g) g [d, a, b]) d 8 false false 0 (fun t => t.getS a + t.getS b) s

/-- The long load: a byte offset, any size (R129, R130). -/
def execLdLong (size : MemSize) (d a : SReg) (off : BitVec 19) (la : Fin 16) (sc : Scope) (ord : MemOrd) (g : GReg)
    (s : State) : Out :=
  loadOp (longTraits (.ldLong size d a off la sc ord g) g [d, a]) d size.len size.signed ord.acquires la.val
    (fun t => t.getS a + sext off) s

/-- The long store (R129, R130). -/
def execStLong (size : MemSize) (d a : SReg) (off : BitVec 19) (la : Fin 16) (sc : Scope) (ord : MemOrd) (g : GReg)
    (s : State) : Out :=
  storeOp (longTraits (.stLong size d a off la sc ord g) g [d, a]) d size.len ord.releases la.val (fun t => t.getS a + sext off) s

/-! ### Parameter windows (R134, R135) -/

/-- The bytes of a task's parameter window; an empty one is unbound (R372). -/
def State.window (s : State) (t : Task) (n : Nat) : List Byte :=
  match t.ident.launch with
  | some l => match s.launches.get? l with
    | some x => x.windows.getD n []
    | none => []
  | none => []

/-- PARAM_STAT after an access out of bound (R135). -/
def outOfBound (stat : Word) (n : Nat) : Word := stat ||| 1 ||| BitVec.ofNat 64 (2 ^ (n + 1))

/-- ldp: eight bytes of a window; out of bound reads 0 and is recorded; an unbound window raises PARAM, and the result is there after 8 cycles
(R134). -/
def execLdp (d : SReg) (w : Fin 4) (a : SReg) (imm : BitVec 32) (g : GReg) (s : State) : Out :=
  let tr := (longTraits (.ldp d w a imm g) g [d, a]).after 8 (sRes d)
  issue tr (fun s t =>
    let o := (t.getS a + sext imm).toNat
    let bytes := s.window t w
    if bytes.isEmpty then s.trapAt t PARAM (BitVec.ofNat 64 w)
    else if bytes.length < o + 8 then
      .next (s.retire tr { t.setS d 0 with ctl := { t.ctl with paramStat := outOfBound t.ctl.paramStat w } })
    else .next (s.retire tr (t.setS d (BitVec.ofNat 64 (leNat ((bytes.drop o).take 8)))))) s

end Sys2Proof.Machine
end

