-- ==== Sys2Proof/Machine/Atomics.lean ====
section
/-! DEFINITION. Atomics, notifying atomics and trigger lines (05 R136 to R144). -/

namespace Sys2Proof.Machine

/-- The value an atomic stores (R137): x the operand, e the compare value, m the old value, all of w bits. -/
def amoValue (op : AmoOp) (w x e m : Nat) : Nat :=
  let low := bitsInt true w m ≤ bitsInt true w x
  match op with
  | .add => (m + x) % 2 ^ w
  | .and => m &&& x
  | .or => m ||| x
  | .xor => m ^^^ x
  | .min => if low then m else x
  | .max => if low then x else m
  | .minn => min m x
  | .maxn => max m x
  | .swp => x
  | .cas => if m = e then x else m
  | .fadd => ((if w = 64 then fmtF64 else fmtF32).add .rne m x).val
  | .trig => m

/-- The old value as s[d] or a notification receives it (R138): 32-bit forms sign-extend but for minn, maxn and
fadd. -/
def amoOld (op : AmoOp) (w m : Nat) : Word :=
  extend (w = 32 && op != .minn && op != .maxn && op != .fadd) w m

/-- The window an address lies in, or no window, for the instructions that refuse one (R141, R226, R232). -/
def stepCause (ea : Word) (align : Nat) : Option Nat :=
  match eaCause ea align with
  | some c => some c
  | none => if inWindow ea.toNat then some PERM else none

/-- An atomic at its home (R137), in a window too (R50); `rel` says that it is a release (R311). It waits for the accesses in flight that it
must follow (R54, R311). -/
def amoOp (tr : Traits) (op : AmoOp) (len : Nat) (rel : Bool) (d a b : SReg) (s : State) : Out :=
  issue tr (fun s t =>
    let ea := t.getS a
    match eaCause ea len with
    | some code => s.trapAcc t code 2 ea
    | none =>
      if s.mustWait s.focus t (.store len rel ea 0) then .next s
      else
        let w := 8 * len
        let x := (t.getS b).toNat % 2 ^ w
        let e := (t.getS d).toNat % 2 ^ w
        match s.modify (taskWho s.focus t) 2 ea.toNat len (amoValue op w x e) with
        | .error z => s.stopped t 2 false z
        | .ok (m, s) => .next ((s.countAtomic s.focus ea.toNat).retire tr (t.setS d (amoOld op w m)))) s

/-! ### Trigger lines (R142 to R144) -/

/-- A word of a trigger line. -/
def trigWord (line i : Nat) : Nat := line / 2 ^ (64 * i) % 2 ^ 64

/-- STATE bits (R142). -/
def trigFired : Nat := 1
def trigUnder : Nat := 2
def trigBadt : Nat := 4

/-- The count after a decrement, exact (R143). -/
def trigCrosses (line : Nat) (x : Word) : Bool :=
  let old := bitsInt true 64 (trigWord line 0)
  decide (0 < old) && decide (old - x.toInt ≤ 0)

/-- The core a fired handler runs on, and whether TARGET was bad (R142, R143). -/
def State.trigTarget (s : State) (i : Nat) (t : Task) (line : Nat) (path : Word) : Option (Nat × Bool) :=
  let target := trigWord line 2 % 65536
  let near := s.spawnCore t.ident.coreSet (s.determ t.ident.launch) (coreCluster (ctxCore i)) path
  if target = 0xFFFF then near.map fun c => (c, false)
  else if s.coreRefused t.ident.coreSet target then near.map fun c => (c, true)
  else some (target, false)

/-- The line after the step: COUNT lowered, STATE marked when it fires or was already empty (R143). -/
def trigLine (line : Nat) (x : Word) (bad : Bool) : Nat :=
  let old := trigWord line 0
  let count := (BitVec.ofNat 64 old - x).toNat
  let bits := if trigCrosses line x then trigFired + (if bad then trigBadt else 0)
    else if bitsInt true 64 old ≤ 0 then trigUnder else 0
  let state := if bits = 0 then trigWord line 7 else (trigWord line 7 % 8) ||| bits
  line % 2 ^ 448 / 2 ^ 64 * 2 ^ 64 + count + state * 2 ^ 448

/-- The message of a fired handler: in the issuer's hoist, with weight 1 and no views (R143, R247). -/
def trigMsg (t : Task) (core line : Nat) (path : Word) : Msg :=
  let arg := fun (i : Nat) => BitVec.ofNat 64 (trigWord line i)
  { id := 0, dst := .core core, hdr := arg 1, args := #v[arg 3, arg 4, arg 5, arg 6], s5 := t.ident.tid, weight := 1,
    hoist := t.purse.hoist, ident := { t.ident with tid := 0, path := path, parent := none }, views := [],
    sender := none, senderPath := t.ident.path, launchStart := false, arrived := 0 }

/-- The step at the home slice: the unit passes to the handler, or returns to the record (R143). A step that would fire a handler
for which no core is eligible waits whole, where R256 delays the placement (DESIGN CHOICE, log 69). The step accesses the whole line, for
MIXED, WRITER and the last-write record too, and one that the slice refuses takes neither weight nor spawn index and is made again after
the upcall (DESIGN CHOICE, log 85). A first access to a private line finds the identity there (R271). -/
def trigStep (tr : Traits) (d : SReg) (x : Word) (ea : Word) (t : Task) (s : State) : Out :=
  let i := s.focus
  let w := taskWho i t
  match s.locate w 2 ea.toNat 64 false false with
  | .error z => s.stopped t 2 false z
  | .ok p =>
    let line := (s.ready w p ea.toNat).readAt p ea.toNat 64
    let path := childPath t.ident.path t.purse.spawnIx
    match (if trigCrosses line x then s.trigTarget i t line path else some (0, false)) with
    | none => .next s
    | some (core, bad) =>
      match s.modify w 2 ea.toNat 64 fun m => trigLine m x bad with
      | .error z => s.stopped t 2 false z
      | .ok (m, s) =>
        let s := if trigCrosses m x then s.depart (trigMsg t core m path)
          else s.sendReturn (coreOrigin (ctxCore i) t.ident.tid) t.ident.asid t.purse.hoist 1 false
        .next ((s.countAtomic i ea.toNat).retire tr (((t.give 1).nextIndex).setS d (BitVec.ofNat 64 (trigWord m 0))))

/-- amo.trig: ALIGN before any weight is taken, PERM for a window, then one unit, then the step (R141, R143). The handler it may start sees
every access before it (R315). -/
def trigOp (tr : Traits) (d a b : SReg) (s : State) : Out :=
  issue tr (fun s t =>
    let ea := t.getS a
    match stepCause ea 64 with
    | some code => s.trapAcc t code 2 ea
    | none =>
      if s.accessOpen t then .next s
      else
        match t.need 1 with
        | .borrow => .next (s.sendBorrow s.focus t)
        | .late => s.borrowLate t
        | .refused => s.trapAt t PENNANT 0
        | .ok => trigStep tr d (t.getS b) ea t s) s

/-! ### Notifying atomics (R140) -/

/-- The message of a notification task: in the issuer's hoist, with one unit, on the issuing core. -/
def noteMsg (i : Nat) (t : Task) (hdr ea old x : Word) (path : Word) : Msg :=
  { id := 0, dst := .core (ctxCore i), hdr := hdr, args := #v[ea, old, x, 0], s5 := t.ident.tid, weight := 1,
    hoist := t.purse.hoist, ident := { t.ident with tid := 0, path := path, parent := none }, views := [],
    sender := none, senderPath := t.ident.path, launchStart := false, arrived := 0 }

/-- The request of a notifying atomic: the access it makes, and the message that it leaves. -/
def noteReq (i : Nat) (op : AmoOp) (len : Nat) (hdr x ea : Word) (t : Task) : NoteReq :=
  let path := childPath t.ident.path t.purse.spawnIx
  { who := taskWho i t, ident := t.ident, hoist := t.purse.hoist, op := op, len := len, x := x.toNat % 2 ^ (8 * len), ea := ea,
    msg := noteMsg i t hdr ea 0 x path, seq := t.flow.seq, since := none }

/-- The access of a request, made (R137): the old value, or what stops it. -/
def State.askStep (s : State) (q : NoteReq) : Except Stop (Nat × State) :=
  s.modify q.who 2 q.ea.toNat q.len (amoValue q.op (8 * q.len) q.x 0)

/-- A request is performed: it leaves its message, with the old value in s2 (R140). -/
def State.askDone (s : State) (q : NoteReq) (old : Nat) : State :=
  let m := { q.msg with id := s.nextId, args := q.msg.args.set 1 (amoOld q.op (8 * q.len) old) }
  ({ s with nextId := s.nextId + 1, notes := s.notes.set s.nextId m }).countAtomic q.who.agent q.ea.toNat

/-- The slice refuses a request: its unit returns to the hoist, and nothing is parked (R140). -/
def State.askRefused (s : State) (q : NoteReq) (code addr slice : Nat) (entry : Option (Nat × Nat)) : State :=
  (s.noteRefused q.who.die q.ident.asid code addr slice entry).sendReturn (coreOrigin (ctxCore q.who.agent) q.ident.tid) q.ident.asid
    q.hoist 1 false

/-- The cause that the issuing context learns at a boundary (R140). -/
def NoteReq.trap (q : NoteReq) (code : Nat) : Trap := { cause code q.ea 0 with acc := 2 }

/-- The request leaves the core, and the instruction is complete (R140): performed at once, it leaves a notification to start; refused, the
context learns the cause at a boundary; and where a copy owns its line it waits on its own (R320). An XLATE of a scratchpad window, which no
slice decides, is learnt in the same way (DESIGN CHOICE, log 56). A link without credit holds the request in the core (R408). -/
def noteStep (tr : Traits) (op : AmoOp) (len : Nat) (hdr x ea : Word) (t : Task) (s : State) : Out :=
  let q := noteReq s.focus op len hdr x ea t
  let u := (t.give 1).nextIndex
  match s.askStep q with
  | .error (.refuse code addr slice entry) =>
    .next ((s.askRefused q code addr slice entry).retire tr { u with flow := { u.flow with soft := u.flow.soft ++ [q.trap code] } })
  | .error .hold => .next ({ s with nextId := s.nextId + 1, asks := s.asks.set s.nextId q }.retire tr u)
  | .error z => s.stopped t 2 false z
  | .ok (m, s) => .next ((s.askDone q m).retire tr u)

/-- A request that waits is made again: performed, or refused, also by a UALink that has held it for 2 ms (R405). The issuing task, if it has
ended by then, leaves a record (R140, R369). -/
def State.retryAsk (s : State) (id : Nat) : State :=
  match s.asks.get? id with
  | none => s
  | some q =>
    let gone := { s with asks := s.asks.erase id }
    let tell := fun (s : State) (code : Nat) =>
      if (s.taskOf q.ident.tid).isSome then
        s.mapTask q.ident.tid fun t => { t with flow := { t.flow with soft := t.flow.soft ++ [q.trap code] } }
      else s.postRecord q.ident.queue (Record.ofTask q.ident 3 0 ((q.trap code).word 0) q.ea)
    match s.askStep q with
    | .ok (m, s) => { s with asks := s.asks.erase id }.askDone q m
    | .error (.refuse code addr slice entry) => tell (gone.askRefused q code addr slice entry) code
    | .error (.link (.ualink _) _) =>
      if overdue q.since s.stime then tell (gone.sendReturn (coreOrigin (ctxCore q.who.agent) q.ident.tid) q.ident.asid q.hoist 1 false) POISON
      else if q.since.isSome then s
      else { s with asks := s.asks.set id { q with since := some s.stime } }
    | .error _ => s

/-- The notifying atomics that wait, in the order in which they left their cores. -/
def State.settleAsks (s : State) : State := (Tab.keys s.asks).foldl State.retryAsk s

/-- A notifying atomic takes one unit before it leaves; the task it starts sees every access before it (R315). -/
def noteOp (tr : Traits) (op : AmoOp) (len : Nat) (d a b : SReg) (s : State) : Out :=
  issue tr (fun s t =>
    let ea := t.getS a
    match eaCause ea len with
    | some code => s.trapAcc t code 2 ea
    | none =>
      if s.accessOpen t then .next s
      else
        match t.need 1 with
        | .borrow => .next (s.sendBorrow s.focus t)
        | .late => s.borrowLate t
        | .refused => s.trapAt t PENNANT 0
        | .ok => noteStep tr op len (t.getS d) (t.getS b) ea t s) s

/-! ### The forms (R136) -/

/-- amo.add.d (R137). -/
def execAmoAddD (d a b : SReg) (g : PReg) (s : State) : Out :=
  amoOp (regTraits (.amoAddD d a b g) g [d, a, b]) .add 8 false d a b s

/-- amo.and.d (R137). -/
def execAmoAndD (d a b : SReg) (g : PReg) (s : State) : Out :=
  amoOp (regTraits (.amoAndD d a b g) g [d, a, b]) .and 8 false d a b s

/-- amo.or.d (R137). -/
def execAmoOrD (d a b : SReg) (g : PReg) (s : State) : Out :=
  amoOp (regTraits (.amoOrD d a b g) g [d, a, b]) .or 8 false d a b s

/-- amo.xor.d (R137). -/
def execAmoXorD (d a b : SReg) (g : PReg) (s : State) : Out :=
  amoOp (regTraits (.amoXorD d a b g) g [d, a, b]) .xor 8 false d a b s

/-- amo.min.d (R137). -/
def execAmoMinD (d a b : SReg) (g : PReg) (s : State) : Out :=
  amoOp (regTraits (.amoMinD d a b g) g [d, a, b]) .min 8 false d a b s

/-- amo.max.d (R137). -/
def execAmoMaxD (d a b : SReg) (g : PReg) (s : State) : Out :=
  amoOp (regTraits (.amoMaxD d a b g) g [d, a, b]) .max 8 false d a b s

/-- amo.minn.d (R137). -/
def execAmoMinnD (d a b : SReg) (g : PReg) (s : State) : Out :=
  amoOp (regTraits (.amoMinnD d a b g) g [d, a, b]) .minn 8 false d a b s

/-- amo.maxn.d (R137). -/
def execAmoMaxnD (d a b : SReg) (g : PReg) (s : State) : Out :=
  amoOp (regTraits (.amoMaxnD d a b g) g [d, a, b]) .maxn 8 false d a b s

/-- amo.swp.d (R137). -/
def execAmoSwpD (d a b : SReg) (g : PReg) (s : State) : Out :=
  amoOp (regTraits (.amoSwpD d a b g) g [d, a, b]) .swp 8 false d a b s

/-- amo.cas.d (R137). -/
def execAmoCasD (d a b : SReg) (g : PReg) (s : State) : Out :=
  amoOp (regTraits (.amoCasD d a b g) g [d, a, b]) .cas 8 false d a b s

/-- amo.fadd.f64 (R139). -/
def execAmoFaddF64 (d a b : SReg) (g : PReg) (s : State) : Out :=
  amoOp (regTraits (.amoFaddF64 d a b g) g [d, a, b]) .fadd 8 false d a b s

/-- amo.add.w (R137). -/
def execAmoAddW (d a b : SReg) (g : PReg) (s : State) : Out :=
  amoOp (regTraits (.amoAddW d a b g) g [d, a, b]) .add 4 false d a b s

/-- amo.and.w (R137). -/
def execAmoAndW (d a b : SReg) (g : PReg) (s : State) : Out :=
  amoOp (regTraits (.amoAndW d a b g) g [d, a, b]) .and 4 false d a b s

/-- amo.or.w (R137). -/
def execAmoOrW (d a b : SReg) (g : PReg) (s : State) : Out :=
  amoOp (regTraits (.amoOrW d a b g) g [d, a, b]) .or 4 false d a b s

/-- amo.xor.w (R137). -/
def execAmoXorW (d a b : SReg) (g : PReg) (s : State) : Out :=
  amoOp (regTraits (.amoXorW d a b g) g [d, a, b]) .xor 4 false d a b s

/-- amo.min.w (R137). -/
def execAmoMinW (d a b : SReg) (g : PReg) (s : State) : Out :=
  amoOp (regTraits (.amoMinW d a b g) g [d, a, b]) .min 4 false d a b s

/-- amo.max.w (R137). -/
def execAmoMaxW (d a b : SReg) (g : PReg) (s : State) : Out :=
  amoOp (regTraits (.amoMaxW d a b g) g [d, a, b]) .max 4 false d a b s

/-- amo.minn.w (R137). -/
def execAmoMinnW (d a b : SReg) (g : PReg) (s : State) : Out :=
  amoOp (regTraits (.amoMinnW d a b g) g [d, a, b]) .minn 4 false d a b s

/-- amo.maxn.w (R137). -/
def execAmoMaxnW (d a b : SReg) (g : PReg) (s : State) : Out :=
  amoOp (regTraits (.amoMaxnW d a b g) g [d, a, b]) .maxn 4 false d a b s

/-- amo.swp.w (R137). -/
def execAmoSwpW (d a b : SReg) (g : PReg) (s : State) : Out :=
  amoOp (regTraits (.amoSwpW d a b g) g [d, a, b]) .swp 4 false d a b s

/-- amo.cas.w (R137). -/
def execAmoCasW (d a b : SReg) (g : PReg) (s : State) : Out :=
  amoOp (regTraits (.amoCasW d a b g) g [d, a, b]) .cas 4 false d a b s

/-- amo.fadd.f32 (R139). -/
def execAmoFaddF32 (d a b : SReg) (g : PReg) (s : State) : Out :=
  amoOp (regTraits (.amoFaddF32 d a b g) g [d, a, b]) .fadd 4 false d a b s

/-- amo.trig.d (R143). -/
def execAmoTrigD (d a b : SReg) (g : PReg) (s : State) : Out :=
  trigOp (regTraits (.amoTrigD d a b g) g [d, a, b]) d a b s

/-- The long atomic, at any ordering and scope (R136). -/
def execAmoLong (op : AmoOp) (half : Bool) (d a b : SReg) (sc : Scope) (ord : MemOrd) (g : GReg) (s : State) : Out :=
  let tr := longTraits (.amoLong op half d a b sc ord g) g [d, a, b]
  if op == .trig then trigOp tr d a b s else amoOp tr op (if half then 4 else 8) ord.releases d a b s

/-- The notifying atomic: s[d] supplies the header (R140). -/
def execAmoNtf (op : AmoOp) (half : Bool) (d a b : SReg) (sc : Scope) (ord : MemOrd) (g : GReg) (s : State) : Out :=
  noteOp (longTraits (.amoNtf op half d a b sc ord g) g [d, a, b]) op (if half then 4 else 8) d a b s

end Sys2Proof.Machine
end

