-- ==== Sys2Proof/Machine/Hoists.lean ====
section
/-! DEFINITION. Hoists and weight as instructions (08 R224 to R228): hoist.open, waitq and pborrow. -/

namespace Sys2Proof.Machine

/-- The step of a task at a hoist record, barrier or signal: it acts at the line's home slice, so views do not redirect
it (DEDUCED, log 17). -/
def stepWho (i : Nat) (t : Task) : Who := { taskWho i t with views := [] }

/-- Bytes of a line replaced by a little-endian value. -/
def lineField (line off len x : Nat) : Nat := (lineSet (BitVec.ofNat 512 line) off len x).toNat

/-- A field of a line. -/
def fieldOf (line off len : Nat) : Nat := line / 2 ^ (8 * off) % 2 ^ (8 * len)

/-- The record hoist.open writes, bytes 32 to 63 zero (R224, R226). -/
def openedRecord : Nat := 2 ^ 31 + 2 ^ 31 * 2 ^ 64 + statusByte true false * 2 ^ 160

/-- hoist.open (R226). -/
def execHoistOpen (a : SReg) (s : State) : Out :=
  let tr := { regTraits (.hoistOpen a) 0 [a] with ends := true, orders := true }
  issue tr (fun s t =>
    let r := t.getS a
    let w := stepWho s.focus t
    match stepCause r 64 with
    | some code => s.trapAcc t code 2 r
    | none =>
      match s.locate w 2 r.toNat 64 false false with
      | .error z => s.stopped t 2 false z
      | .ok p =>
        if t.purse.outer.isSome then s.trapAt t PENNANT 2
        else if bitAt (fieldOf (s.readAt p r.toNat 64) 20 1) 0 then s.trapAt t PENNANT 3
        else
          match s.modify w 2 r.toNat 64 fun _ => openedRecord with
          | .error z => s.stopped t 2 false z
          | .ok (_, s) =>
            .next (s.retire tr { t with
              purse := { t.purse with hoist := r, weight := 2 ^ 31, outer := some (t.purse.hoist, t.purse.weight), quiet := false } })) s

/-- The purse returns to the record and the record is left quiet, closed, or with a waiter (R225, R227). -/
def waitqRecord (tid : Word) (purse line : Nat) : Nat :=
  let isOpen := bitAt (fieldOf line 20 1) 0
  let bad := !isOpen || decide (fieldOf line 0 8 < purse)
  let out := if bad then 0 else fieldOf line 0 8 - purse
  let neg := bitAt (fieldOf line 20 1) 1 || bad
  let line := lineField line 0 8 out
  let line := lineField line 20 4 (statusByte (isOpen && out != 0) neg)
  lineField line 24 8 (if isOpen && out != 0 then tid.toNat else 0)

/-- The status word of waitq (R227). -/
def waitqStatus (line : Nat) : Word :=
  BitVec.ofNat 64 (fieldOf line 16 4 * 2 ^ 32 + (bitAt (fieldOf line 20 1) 1).toNat)

/-- waitq returns: the record is closed, the status word written, and the outer pair restored (R227). -/
def State.waitqReturn (s : State) (tr : Traits) (t : Task) (a : SReg) (line : Nat) : Out :=
  match t.purse.outer with
  | some (h, w) =>
    .next (s.retire tr ({ t with
      purse := { t.purse with hoist := h, weight := w, outer := none, quiet := false } }.setS a (waitqStatus line)))
  | none => .next s

/-- waitq (R227). The purse returns in the first step; woken, it finds the record closed. -/
def execWaitq (a : SReg) (s : State) : Out :=
  let tr := { regTraits (.waitq a) 0 [a] with ends := true, orders := true }
  issue tr (fun s t =>
    if t.purse.outer.isNone then s.trapAt t PENNANT 4
    else
      let r := t.purse.hoist.toNat
      let closed := fun (line : Nat) =>
        lineField (lineField line 20 1 (statusByte false (bitAt (fieldOf line 20 1) 1))) 24 8 0
      let step := if t.purse.quiet then closed else waitqRecord t.ident.tid t.purse.weight
      match s.modify (stepWho s.focus t) 2 r 64 step with
      | .error z => s.stopped t 2 false z
      | .ok (old, s) =>
        let line := step old
        if bitAt (fieldOf line 20 1) 0 then
          .next (s.setTask s.focus { t with
            purse := { t.purse with weight := 0 }, flow := { t.flow with wait := .quiet, woken := .no } })
        else s.waitqReturn tr t a line) s

/-- pborrow (R228): the grant has been added to WEIGHT when the instruction issues again. -/
def execPborrow (s : State) : Out :=
  let tr := { traits .pborrow with ends := true }
  issue tr (fun s t =>
    match t.flow.woken with
    | .yes => .next (s.retire tr t)
    | .refused => s.trapAt t PENNANT 0
    | .late => s.borrowLate t
    | .no => if 2 ^ 32 - 1 - 2 ^ 16 < t.purse.weight then s.trapAt t PENNANT 1 else .next (s.sendBorrow s.focus t)) s

end Sys2Proof.Machine
end

