-- ==== Sys2Proof/Machine/Log.lean ====
section
/-! DEFINITION. The state-change log and the halts of the cluster debug module, as instructions and events share them
(14 R340 to R343, R351, R352, R356, R357). -/

namespace Sys2Proof.Machine

/-! ### LOG_CTL (R345) -/

def Core.logging (c : Core) : Bool := c.logCtl.getLsbD 0
def Core.period (c : Core) : Nat := bitsAt c.logCtl.toNat 20 16

/-! ### Records and lines (R341, R342) -/

/-- A log record. -/
def logRecord (st ctx delta : Nat) : BitVec 32 := BitVec.ofNat 32 (st % 4 * 2 ^ 30 + ctx % 16 * 2 ^ 26 + delta % 2 ^ 26)

/-- The padding of a line written early. -/
def logPadding : BitVec 32 := 0xFFFFFFFF

/-- The eight words of a line. -/
def LogLine.words (l : LogLine) : List Word :=
  let r := fun (i : Nat) => (l.records.getD i logPadding).toNat
  l.header :: (List.range 7).map fun i => BitVec.ofNat 64 (r (2 * i) + r (2 * i + 1) * 2 ^ 32)

/-- Write a core's line to its cluster's log ring, if it holds a record (R342, R343). -/
def State.flushLine (s : State) (k : Nat) : State :=
  let c := s.core k
  if c.log.records.isEmpty then s
  else
    let n := coreCluster k
    let x := s.cluster n
    let w := x.dbg.logWptr
    let s := s.setCluster n { x with
      logRing := x.logRing.set (w.toNat % 4096) c.log.words, dbg := { x.dbg with logWptr := w + 1 } }
    s.setCore k { c with log := { c.log with records := [] } }

/-- Add a record of a core; a full line is written. -/
def State.addRecord (s : State) (k st ctx delta : Nat) : State :=
  let c := s.core k
  let header := if c.log.records.isEmpty then BitVec.ofNat 64 (k % 8 * 2 ^ 61 + c.cycle % 2 ^ 61) else c.log.header
  let l := { c.log with
    records := c.log.records ++ [logRecord st ctx delta], header := header
    lastCycle := if c.log.started then c.log.lastCycle + delta else c.cycle, started := true }
  let s := s.setCore k { c with log := l }
  if l.records.length < 14 then s else s.flushLine k

/-- DELTA of the next record: cycles since the last, 0 for the first after EN was set. A record in the cycle of the last one counts
as one cycle later, since DELTA is at least 1 (DEDUCED, log 53). -/
def Core.delta (c : Core) : Nat := if c.log.started then max 1 (c.cycle - c.log.lastCycle) else 0

/-- The core is in a state: a record while EN is 1 and the state changes, and the first one after EN was set. -/
def State.enterState (s : State) (k st ctx : Nat) : State :=
  let c := s.core k
  if !c.logging then s
  else
    let s := if c.log.started && c.log.st == st then s else s.addRecord k st ctx c.delta
    let c := s.core k
    s.setCore k { c with log := { c.log with st := st, ctx := ctx } }

/-- A marker (R341). -/
def State.marker (s : State) (k ctx : Nat) : State :=
  let c := s.core k
  if c.logging then s.addRecord k 3 ctx c.delta else s

/-- A cluster's rings are freed, and their contents lost, when no core of it logs or samples (R343). -/
def State.freeRings (s : State) (n : Nat) : State :=
  if (List.range 8).any fun i => (s.core (8 * n + i)).logging || (s.core (8 * n + i)).period != 0 then s
  else s.setCluster n { s.cluster n with logRing := [], sampleRing := [] }

/-- Write LOG_CTL: EN cleared writes the line, EN set begins a new log (R341, R342). The rings of a slice take their place from its L2
(R291). -/
def State.writeLogCtl (s : State) (k : Nat) (x : Word) : State :=
  let s := if (s.core k).logging && !x.getLsbD 0 then s.flushLine k else s
  let c := s.core k
  let log := if !c.logging && x.getLsbD 0 then LogLine.reset else c.log
  ((s.setCore k { c with logCtl := x, log := log }).freeRings (coreCluster k)).fitSlice (coreCluster k) 0 0

/-! ### Halts (R351, R352, R356) -/

/-- A core stops issuing. -/
def State.haltCore (s : State) (k : Nat) : State :=
  let n := coreCluster k
  let x := s.cluster n
  let s := s.setCluster n { x with dbg := { x.dbg with halted := x.dbg.halted ||| BitVec.twoPow 8 (k % 8) } }
  s.setCore k { s.core k with halted := true }

/-- The contexts of a core stay parked while a DIP holds it (R356). -/
def State.freezeTasks (s : State) (k : Nat) : State :=
  { s with
    ctxs := s.ctxs.map fun e =>
      if ctxCore e.1 == k then (e.1, { e.2 with flow := { e.2.flow with frozen := true } }) else e }

/-- A core stops under a DIP: a marker and its log line are written (R341, R342). -/
def State.dipCore (s : State) (k : Nat) : State :=
  let s := (((s.marker k 12).flushLine k).haltCore k).freezeTasks k
  s.setCore k { s.core k with dip := true }

/-- The cross-trigger group of a cluster (R350). -/
def State.group (s : State) (n : Nat) : Nat := bitsAt (s.cluster n).dbg.ctl.toNat 15 12

/-- The clusters of a group other than n (R357). -/
def State.groupOf (s : State) (n : Nat) : List Nat :=
  (s.clusters.keys).filter fun m => m != n && s.group m != 0 && s.group m == s.group n

/-- A further cause of the cycle in which the cluster halted: the lowest code is reported, and of breakpoints that of the lowest
core (R351). -/
def Debug.alsoCaused (d : Debug) (why bpi core now : Nat) : Debug :=
  if d.dipAt == now && (decide (why < d.cause) || (why == d.cause && why == 2 && decide (core < d.bpCore))) then
    { d with cause := why, bpi := if why == 2 then bpi else 0, bpCore := core }
  else d

/-- DIP: the eight cores stop, the engine freezes, and the first cause is kept; a later DIP on a halted cluster changes
nothing. It is relayed to its group, but a relay is not (R351, R356, R357). -/
def State.dipNow (s : State) (n why bpi core : Nat) : State :=
  if (s.cluster n).dbg.cause != 0 then
    s.setCluster n { s.cluster n with dbg := (s.cluster n).dbg.alsoCaused why bpi core s.stime }
  else
    let s := (List.range 8).foldl (fun s i => s.dipCore (8 * n + i)) s
    let x := s.cluster n
    let s := s.setCluster n { x with
      engine := { x.engine with frozen := true }, dbg := { x.dbg with
        cause := why, bpi := bpi, bpCore := core, dipAt := s.stime, engf := true } }
    if why == 5 then s else { s with relays := s.relays ++ (s.groupOf n).filter fun m => !s.relays.contains m }

end Sys2Proof.Machine
end

