-- ==== Sys2Proof/Machine/Barriers.lean ====
section
/-! DEFINITION. Barriers and signals (08 R231 to R234, 11 R304, R305). -/

namespace Sys2Proof.Machine

/-! ### One arrival -/

/-- A named barrier's line after an arrival, and its generation before it (R232). -/
def arrivedLine (stime line : Nat) : Nat :=
  let count := fieldOf line 8 8 + 1
  let line := if fieldOf line 8 8 = 0 then lineField line 24 8 stime else line
  if fieldOf line 0 8 ≤ count then
    lineField (lineField (lineField line 8 8 0) 32 8 stime) 16 8 (fieldOf line 16 8 + 1)
  else lineField line 8 8 count

/-- The physical line of an address of an address space, as die 0 translates it. -/
def State.lineOfVa (s : State) (asid va : Nat) : Option Nat :=
  match s.translate (nearSlice 0 va) asid va with
  | .ok l => some (s.localPa (l.phys va) / 64)
  | .error _ => none

/-- A task parked on a barrier at a line. -/
def State.waitsOnLine (s : State) (line : Nat) (t : Task) : Bool :=
  match t.flow.wait with
  | .bar addr _ => addr != 0 && s.lineOfVa t.ident.asid addr.toNat == some line
  | _ => false

/-- Wake every task a condition names, in its context or saved. -/
def State.wakeWhere (s : State) (p : Task → Bool) : State :=
  let f := fun (t : Task) => if p t then t.wake .yes else t
  { s with
    ctxs := s.ctxs.map fun e => (e.1, f e.2)
    saved := s.saved.map fun e => (e.1, { e.2 with task := f e.2.task }) }

/-- The waiters of a named barrier whose generation moved are woken; a plain store wakes nobody (R305). -/
def State.wakeBarrier (s : State) (asid va old new : Nat) : State :=
  if fieldOf old 16 8 = fieldOf new 16 8 then s
  else
    match s.lineOfVa asid va with
    | some line => s.wakeWhere (s.waitsOnLine line)
    | none => s

/-- An arrival at a named barrier by any agent: the generation before it (R232). -/
def State.arrive (s : State) (w : Who) (acc va : Nat) : Except Stop (Nat × State) :=
  match s.modify w acc va 64 (arrivedLine s.stime) with
  | .error z => .error z
  | .ok (old, s') => .ok (fieldOf old 16 8, s'.wakeBarrier w.asid va old (arrivedLine s.stime old))

/-- A cluster after a wired arrival, and whether it completed a generation. -/
def Cluster.arriveWired (c : Cluster) (stime : Nat) : Cluster × Bool :=
  let first := if c.arrived = 0 then BitVec.ofNat 64 stime else c.first
  if c.expect ≤ c.arrived + 1 then
    ({ c with arrived := 0, first := first, last := BitVec.ofNat 64 stime, gen := c.gen + 1 }, true)
  else ({ c with arrived := c.arrived + 1, first := first }, false)

/-- An arrival at a wired barrier; its waiters are the cluster's tasks (R304). -/
def State.arriveWired (s : State) (n : Nat) : State × Bool :=
  let r := (s.cluster n).arriveWired s.stime
  let s := s.setCluster n r.1
  let waits := fun (e : Nat × Task) => match e.2.flow.wait with
    | .bar addr _ => addr == 0 && coreCluster (ctxCore e.1) == n
    | _ => false
  (if r.2 then { s with ctxs := s.ctxs.map fun e => (e.1, if waits e then e.2.wake .yes else e.2) } else s, r.2)

/-! ### Instructions -/

/-- The checks of a barrier address: 0 names the wired barrier (R231, R232). -/
def barCause (a : Word) : Option Nat := if a = 0 then none else stepCause a 64

/-- bar.init (R232). -/
def execBarInit (a b : SReg) (s : State) : Out :=
  let tr := { regTraits (.barInit a b) 0 [a, b] with ends := true, orders := true }
  issue tr (fun s t =>
    let x := t.getS a
    let n := (t.getS b).toNat
    let cl := coreCluster (ctxCore s.focus)
    match barCause x with
    | some code => s.trapAcc t code 2 x
    | none =>
      if n = 0 || (if x = 0 then 128 else 2 ^ 63 - 1) < n then s.illegal tr t
      else if x = 0 then
        .next ((s.setCluster cl { s.cluster cl with expect := n, arrived := 0, first := 0 }).retire tr t)
      else
        let init := fun (line : Nat) =>
          lineField (lineField (lineField (lineField line 0 8 n) 8 8 0) 24 8 0) 40 24 0
        match s.modify (stepWho s.focus t) 2 x.toNat 64 init with
        | .error z => s.stopped t 2 false z
        | .ok (_, s) => .next (s.retire tr t)) s

/-- bar.arv (R232); a wired arrival leaves a marker in the core's log (R304, R341). -/
def execBarArv (a : SReg) (s : State) : Out :=
  let tr := { regTraits (.barArv a) 0 [a] with ends := true, orders := true }
  issue tr (fun s t =>
    let x := t.getS a
    let k := ctxCore s.focus
    match barCause x with
    | some code => s.trapAcc t code 2 x
    | none =>
      if x = 0 then
        let g := (s.cluster (coreCluster k)).gen
        let r := s.arriveWired (coreCluster k)
        .next ((r.1.marker k (if r.2 then 13 else 14)).retire tr { t with token := some (0, g) })
      else
        match s.arrive (stepWho s.focus t) 2 x.toNat with
        | .error z => s.stopped t 2 false z
        | .ok (g, s) => .next (s.retire tr { t with token := some (x, BitVec.ofNat 64 g) })) s

/-- bar.wait once the present generation is known: it returns when the token's generation has passed, and parks with
its token otherwise (R232, R243). -/
def State.barWaitAt (s : State) (tr : Traits) (t : Task) (x gen : Word) : Out :=
  let g := match t.token with
    | some (y, g) => if y = x then g else gen
    | none => gen
  if g != gen then .next (s.retire tr { t with token := none })
  else
    .next (s.setTask s.focus { t with token := some (x, g), flow := { t.flow with wait := .bar x g, woken := .no } })

/-- bar.wait (R232). -/
def execBarWait (a : SReg) (s : State) : Out :=
  let tr := { regTraits (.barWait a) 0 [a] with ends := true, orders := true }
  issue tr (fun s t =>
    let x := t.getS a
    let k := ctxCore s.focus
    match barCause x with
    | some code => s.trapAcc t code 0 x
    | none =>
      if x = 0 then s.barWaitAt tr t 0 (s.cluster (coreCluster k)).gen
      else
        match s.load (stepWho s.focus t) 0 x.toNat 64 with
        | .error z => s.stopped t 0 false z
        | .ok (line, s) => s.barWaitAt tr t x (BitVec.ofNat 64 (fieldOf line 16 8))) s

/-- The saturating sum of a signal, and whether it left the range (R233). -/
def sigSum (x : Word) (m : Nat) : Nat × Bool :=
  let v := bitsInt true 64 m + x.toInt
  if intMax true 64 < v then (intBits 64 (intMax true 64), true)
  else if v < intMin true 64 then (intBits 64 (intMin true 64), true)
  else (intBits 64 v, false)

/-- sig.add (R233): an overflow posts SIG_OVERFLOW (R369). -/
def execSigAdd (a b : SReg) (s : State) : Out :=
  let tr := { regTraits (.sigAdd a b) 0 [a, b] with ends := true, orders := true }
  issue tr (fun s t =>
    let x := t.getS a
    match stepCause x 8 with
    | some code => s.trapAcc t code 2 x
    | none =>
      match s.modify (stepWho s.focus t) 2 x.toNat 8 fun m => (sigSum (t.getS b) m).1 with
      | .error z => s.stopped t 2 false z
      | .ok (m, s) =>
        let s := if (sigSum (t.getS b) m).2 then s.postRecord t.ident.queue (Record.ofTask t.ident 4 0 0 x) else s
        .next (s.retire tr t)) s

/-- sig.wait (R234): tested at issue and, while parked, after every write to the line; a wait that was met returns. -/
def execSigWait (cc : Cc) (a b : SReg) (s : State) : Out :=
  let tr := { regTraits (.sigWait cc a b) 0 [a, b] with ends := true, orders := true }
  issue tr (fun s t =>
    let x := t.getS a
    match stepCause x 8 with
    | some code => s.trapAcc t code 0 x
    | none =>
      match s.load (stepWho s.focus t) 0 x.toNat 8 with
      | .error z => s.stopped t 0 false z
      | .ok (m, s) =>
        if t.flow.woken == .yes || cc.holds (BitVec.ofNat 64 m) (t.getS b) then .next (s.retire tr t)
        else
          .next (s.setTask s.focus
            { t with flow := { t.flow with wait := .sig x cc (t.getS b), woken := .no } })) s

end Sys2Proof.Machine
end

