-- ==== Sys2Proof/Machine/Control.lean ====
section
/-! DEFINITION. Branches and jumps (05 R145, R146). Each ends every open window, taken or not (R53). -/

namespace Sys2Proof.Machine

/-- The target of a branch: its address plus Sext(off) x 4 (R145). -/
def branchTarget (t : Task) (off : BitVec 22) : Word := t.regs.pc + sext off <<< 2

/-- br, or br with the condition inverted (R145). -/
def execBr (g : PReg) (inv : Bool) (off : BitVec 22) (s : State) : Out :=
  let tr := { traits (.br g inv off) with ends := true }
  issue tr (fun s t => .next (if t.getP g != inv then s.retireAt tr t (branchTarget t off) else s.retire tr t)) s

/-- j (R145). -/
def execJ (off : BitVec 22) (s : State) : Out :=
  let tr := { traits (.j off) with ends := true }
  issue tr (fun s t => .next (s.retireAt tr t (branchTarget t off))) s

/-- jal: s63 takes the return address (R145). -/
def execJal (off : BitVec 22) (s : State) : Out :=
  let tr := { regTraits (.jal off) 0 [63] with ends := true }
  issue tr (fun s t => .next (s.retireAt tr (t.setS 63 (t.regs.pc + 4)) (branchTarget t off))) s

/-- A jump to a register: a target off a word boundary raises ALIGN at the jump (R86, R146). -/
def jumpTo (tr : Traits) (t : Task) (s : State) (target : Word) (link : Task → Task) : Out :=
  if target.toNat % 4 != 0 then s.trapAt t ALIGN target else .next (s.retireAt tr (link t) target)

/-- jr (R146). -/
def execJr (a : SReg) (g : PReg) (s : State) : Out :=
  let tr := { regTraits (.jr a g) g [a] with ends := true }
  issue tr (fun s t => jumpTo tr t s (t.getS a) id) s

/-- jalr: s[a] is read before the link is written (R146). -/
def execJalr (d a : SReg) (g : PReg) (s : State) : Out :=
  let tr := { regTraits (.jalr d a g) g [d, a] with ends := true }
  issue tr (fun s t => jumpTo tr t s (t.getS a) fun t => t.setS d (t.regs.pc + 4)) s

end Sys2Proof.Machine
end

