-- ==== Sys2Proof/Machine/Copies.lean ====
section
/-! DEFINITION. Copy requests and prefetches as instructions (08 R235 to R239): acopy, acopy.nb, apf and abind. -/

namespace Sys2Proof.Machine

/-- One gibibyte, the most a request moves (R236, R239). -/
def gib : Nat := 2 ^ 30

/-- The request words (R235). -/
def reqKind (w0 : Word) : Nat := bitsAt w0.toNat 63 60
def reqDone (w0 : Word) : Nat := bitsAt w0.toNat 59 58
def reqEsz (w0 : Word) : Nat := bitsAt w0.toNat 57 56

/-- The bytes a request of KIND 0 to 2 moves; of KIND 3 and 4 the parameter block gives them (R236). -/
def reqBytes (w0 w2 : Word) : Nat :=
  let n1 := bitsAt w2.toNat 63 32
  let n0 := bitsAt w2.toNat 31 0
  match reqKind w0 with
  | 0 => n0
  | 1 => n1 * n0
  | 2 => n1 * 2 ^ reqEsz w0
  | _ => 1

/-- The request is one that R235 and R236 admit. PB that is no multiple of 64, for which R235 names no cause, is ILLEGAL as its other
requirements are (DEDUCED, log 88). -/
def reqOk (w0 w1 w2 w3 : Word) : Bool :=
  let kind := reqKind w0
  let done := reqDone w0
  let n1 := bitsAt w2.toNat 63 32
  let n0 := bitsAt w2.toNat 31 0
  decide (kind ≤ 4) && done != 3 && (done != 2 || w1.toNat % 2 ^ 56 == 0) && w3.toNat % 64 == 0 &&
    (kind != 0 || n1 == 0) && (kind != 2 || n0 == 0) &&
    (kind < 3 || (n0 == 0 && n1 == 0)) && ((kind == 0 && done != 1) || w3 != 0) && reqBytes w0 w2 != 0 &&
    decide (reqBytes w0 w2 ≤ gib)

/-- A block not yet read. -/
def Block.blank : Block := { sstride := 0, dstride := 0, idx := 0, handler := 0, wl := 0, hl := 0 }

/-- A request of a task, without its words. -/
def emptyReq (id : Nat) (core : Nat) (t : Task) : CopyReq :=
  { id := id, core := core, tid := t.ident.tid, ident := t.ident, hoist := t.purse.hoist, bank := t.bank, pf := none,
    kind := 0, done := 0, esz := 0, src := 0, dst := 0, n1 := 0, n0 := 0, pb := 0, tag := 0, taken := false, block := Block.blank,
    turn := 0, pos := 0, own := [], unmapped := [], since := none, buffer := none, stuck := none, told := false, paused := false }

/-- The copy request of four words. -/
def copyReq (id core : Nat) (t : Task) (w0 w1 w2 w3 : Word) : CopyReq :=
  { emptyReq id core t with
    kind := reqKind w0, done := reqDone w0, esz := reqEsz w0, src := w0.toNat % 2 ^ 56, dst := w1.toNat % 2 ^ 56,
    n1 := bitsAt w2.toNat 63 32, n0 := bitsAt w2.toNat 31 0, pb := w3.toNat, tag := bitsAt w1.toNat 63 56 }

/-- A prefetch: its range and completion (R239). -/
def prefetchReq (id core : Nat) (t : Task) (start len : Word) (kind : Nat) (bar : Word) : CopyReq :=
  { emptyReq id core t with src := start.toNat, n0 := len.toNat, pf := some (kind, bar) }

/-- The FIFO of a core has room (R237). -/
def Core.fifoRoom (c : Core) : Bool := decide (c.fifo.length < 8)

/-- A request enters the FIFO with its unit of weight; `last` finishes the task. -/
def State.submit (s : State) (tr : Traits) (t : Task) (make : Nat → CopyReq) (last : Task → Task) : Out :=
  match t.need 1 with
  | .borrow => .next (s.sendBorrow s.focus t)
  | .late => s.borrowLate t
  | .refused => s.trapAt t PENNANT 0
  | .ok =>
    let k := ctxCore s.focus
    let id := s.nextId
    let s := { s with nextId := id + 1 }.setCore k { s.core k with fifo := (s.core k).fifo ++ [make id] }
    .next ((s.countEvent s.focus 18 1).retire tr (last (t.give 1)))

/-- A full FIFO parks acopy and apf before they take weight (R237, R243). -/
def State.submitOrPark (s : State) (tr : Traits) (t : Task) (make : Nat → CopyReq) : Out :=
  if (s.core (ctxCore s.focus)).fifoRoom then s.submit tr t make id
  else .next (s.setTask s.focus { t with flow := { t.flow with wait := .fifo, woken := .no } })

/-- The four registers a copy reads. -/
def reqRegs (a : SReg) : List SReg := (List.range 4).map fun j => Fin.ofNat 64 (a.val + j)

/-- A copy whose words pass the checks; one that fills a stream needs a bank (R235, R237). -/
def copyOp (tr : Traits) (a : SReg) (go : State → Task → (Nat → CopyReq) → Out) (s : State) : Out :=
  issue tr (fun s t =>
    let w := fun (j : Nat) => t.sAt (a.val + j)
    if !reqOk (w 0) (w 1) (w 2) (w 3) || (reqDone (w 0) == 2 && t.bank.isNone) then s.illegal tr t
    else go s t fun id => copyReq id (ctxCore s.focus) t (w 0) (w 1) (w 2) (w 3)) s

/-- acopy (R237). -/
def execAcopy (a : SReg) (s : State) : Out :=
  let tr := { regTraits (.acopy a) 0 (reqRegs a) with ends := true, orders := true }
  copyOp tr a (fun s t make => s.submitOrPark tr t make) s

/-- acopy.nb: s[b] tells whether the request was queued (R237). -/
def execAcopyNb (b a : SReg) (s : State) : Out :=
  let tr := { regTraits (.acopyNb b a) 0 (b :: reqRegs a) with ends := true, orders := true }
  copyOp tr a (fun s t make =>
    if (s.core (ctxCore s.focus)).fifoRoom then s.submit tr t make fun t => t.setS b 0
    else .next (s.retire tr (t.setS b 1))) s

/-- apf (R239): a named barrier is checked at issue. One of length 0 goes through the FIFO like any other and completes as the engine takes it
(DEDUCED, log 89). -/
def execApf (a b : SReg) (c : Fin 3) (s : State) : Out :=
  let bar := if c.val = 2 then [Fin.ofNat 64 (b.val + 1)] else []
  let tr := { regTraits (.apf a b c) 0 ([a, b] ++ bar) with ends := true, orders := true }
  issue tr (fun s t =>
    let x := t.sAt (b.val + 1)
    let at_ := if c.val = 2 then x else 0
    if gib < (t.getS b).toNat then s.illegal tr t
    else
      match (if c.val = 2 then stepCause x 64 else none) with
      | some code => s.trapAcc t code 2 x
      | none => s.submitOrPark tr t fun id => prefetchReq id (ctxCore s.focus) t (t.getS a) (t.getS b) c.val at_) s

/-- The DONE = 2 requests of a task with a tag, queued, active or in a buffer, by identity (R238). -/
def State.streamRequests (s : State) (k : Nat) (t : Task) (tag : Nat) : List Nat :=
  let want := fun (q : CopyReq) => q.tid == t.ident.tid && q.pf.isNone && q.done == 2 && q.tag == tag
  let queued := ((s.cores.map fun c => c.2.fifo).flatten.filter want).map fun q => q.id
  let active := ((s.clusters.map fun c => c.2.engine.active).flatten.filter want).map fun q => q.id
  let held := (s.bankOf k (t.bank.getD 0)).buf.toList.filterMap fun b => match b with
    | some x => if x.tag = tag then some x.req else none
    | none => none
  queued ++ active ++ held

/-- The least of a list. -/
def leastOf : List Nat → Option Nat
  | [] => none
  | a :: as => some (as.foldl min a)

/-- abind (R238): the oldest such request that no stream register holds. -/
def execAbind (q : QReg) (a : SReg) (s : State) : Out :=
  let tr := { regTraits (.abind q a) 0 [a] with ends := true, bank := fun _ => true }
  issue tr (fun s t =>
    let k := ctxCore s.focus
    let b := s.bankOf k (t.bank.getD 0)
    let free := (s.streamRequests k t ((t.getS a).toNat % 256)).filter fun r => !b.q.toList.contains (some r)
    if b.q[q].isSome then s.illegal tr t
    else
      match leastOf free with
      | some r => .next ((s.setBank k (t.bank.getD 0) { b with q := b.q.set q (some r) }).retire tr t)
      | none => s.illegal tr t) s

end Sys2Proof.Machine
end

