-- ==== Sys2Proof/Machine/Waiting.lean ====
section
/-! DEFINITION. Which waiting task a core takes next, and the ranking of launches (09 R245, 18 R387, R388, R394). -/

namespace Sys2Proof.Machine

/-- The context index of a context of a core, where there is one. -/
def ctxIndex (core ctx : Nat) : Option Nat := if core < 5120 && ctx < 16 then some (16 * core + ctx) else none

/-- The task in a context of a core. -/
def State.taskAt (s : State) (core ctx : Nat) : Option (Nat × Task) :=
  match ctxIndex core ctx with
  | some i => (s.task? i).map fun t => (i, t)
  | none => none

/-- The task in a context of a core that is not powered down (R433). -/
def State.liveAt (s : State) (core ctx : Nat) : Option (Nat × Task) :=
  if (s.core core).health.retired then none else s.taskAt core ctx

/-! ### Ranks (R387) -/

/-- Lexicographic order. -/
def lexLt : List Nat → List Nat → Bool
  | a :: as, b :: bs => decide (a < b) || (a == b && lexLt as bs)
  | _, _ => false

/-- PRIO and DEADLINE of a launch record (R371). -/
def recordPrio (r : List Word) : Nat := (r.getD 1 0).toNat % 8
def recordDeadline (r : List Word) : Nat := if r.getD 4 0 = 0 then 2 ^ 64 else (r.getD 4 0).toNat

/-- The keys of R387, a lower list ranking higher. A task of no launch ranks after every launch (DESIGN CHOICE, log 18). -/
def State.rankKeys (s : State) (launch : Option Nat) : List Nat :=
  match launch.bind s.launches.get? with
  | some l => [7 - recordPrio l.record, recordDeadline l.record, l.service, l.order]
  | none => [8, 2 ^ 64, 0, 0]

/-- One launch ranks above another. -/
def State.outranks (s : State) (a b : Option Nat) : Bool := lexLt (s.rankKeys a) (s.rankKeys b)

/-! ### Waiting tasks (R245, R388) -/

/-- A task that waits for a context: an entry of the mailbox or spill ring, or a saved record. -/
inductive Waiting where
  | msg (index : Nat) (m : Msg)
  | saved (key : Nat) (r : Saved)

/-- Its header asks for a bank (R213). -/
def Msg.bank (m : Msg) : Bool := m.hdr.getLsbD 63

def Waiting.bank : Waiting → Bool
  | .msg _ m => m.bank
  | .saved _ r => r.bank.isSome
def Waiting.since : Waiting → Nat
  | .msg _ m => m.arrived
  | .saved _ r => r.savedAt
def Waiting.launch : Waiting → Option Nat
  | .msg _ m => m.ident.launch
  | .saved _ r => r.task.ident.launch

/-- Longer than 8 quanta (R388). -/
def State.starved (s : State) (w : Waiting) : Bool :=
  decide (8 * (s.control.quantumLen * 1000) < s.stime - w.since)

/-- The entries of a list with their places. -/
def placed (ms : List Msg) : List Waiting := (ms.zip (List.range ms.length)).map fun e => .msg e.2 e.1

/-- The saved records of a core. -/
def State.savedHere (s : State) (core : Nat) : List Waiting :=
  (s.saved.filter fun e => e.2.core == core).map fun e => .saved e.1 e.2

/-- A context and a bank of a core are free. A context that a halt or kill frees is offered in the next cycle (R246). -/
def State.ctxFree (s : State) (core n : Nat) : Bool :=
  (s.task? (16 * core + n)).isNone && (s.core core).freed.get? n != some (s.core core).cycle
def State.bankFree (s : State) (core b : Nat) : Bool := !s.ctxs.any fun e => ctxCore e.1 == core && e.2.bank == some b

/-- A place is meant for a waiting task (R390). -/
def Seat.meant (x : Seat) (w : Waiting) : Bool :=
  match w with
  | .msg _ m => !x.saved && x.id == m.id
  | .saved k _ => x.saved && x.id == k

/-- A place that was to be freed is free, its context and its bank, or a save will free it yet. -/
def State.seatOpens (s : State) (core : Nat) (x : Seat) : Bool :=
  ((s.task? (16 * core + x.ctx)).all fun t => t.flow.saving) &&
    s.ctxs.all fun e => ctxCore e.1 != core || e.2.bank.isNone || e.2.bank != x.bank || e.2.flow.saving

/-- A core that no task of its contexts will leave by itself: all are suspended. -/
def State.allSuspended (s : State) (core : Nat) : Bool :=
  (s.ctxs.filter fun e => ctxCore e.1 == core).all fun e => e.2.flow.suspended

/-- The places of a core that are meant for others of its waiting tasks: of an entry of the spill ring too, unless the mailbox before it
waits for a place and nothing else would free one (R390, DESIGN CHOICE, log 74). -/
def State.seatsOfOthers (s : State) (core : Nat) (w : Waiting) : List Seat :=
  let c := s.core core
  let ring := if s.allSuspended core then [] else placed c.spill
  c.due.filter fun x => !x.meant w && s.seatOpens core x && (placed c.mailbox ++ ring ++ s.savedHere core).any x.meant

/-- The place that a save has freed for a waiting task (R390). -/
def State.seatOf (s : State) (core : Nat) (w : Waiting) : Option Seat :=
  (s.core core).due.find? fun x => x.meant w && s.ctxFree core x.ctx && (!w.bank || x.bank.any (s.bankFree core))

/-- The context and bank a waiting task takes: those that a save has freed for it (R390), else the lowest free ones that are meant for
no other (R245). -/
def State.placeFor (s : State) (core : Nat) (w : Waiting) : Option (Nat × Option Nat) :=
  let others := s.seatsOfOthers core w
  match s.seatOf core w with
  | some x => some (x.ctx, if w.bank then x.bank else none)
  | none =>
    ((List.range 16).find? fun n => s.ctxFree core n && !others.any fun x => x.ctx == n).bind fun ctx =>
      if w.bank then
        ((List.range 4).find? fun b => s.bankFree core b && !others.any fun x => x.bank == some b).map fun b => (ctx, some b)
      else some (ctx, none)

/-- What a waiting task needs is free. -/
def State.fits (s : State) (core : Nat) (w : Waiting) : Bool := (s.placeFor core w).isSome

/-- One waiting task goes before another (R245): starved ones by age, then by rank, then by age within a launch. -/
def State.before (s : State) (a b : Waiting) : Bool :=
  if s.starved a != s.starved b then s.starved a
  else if s.starved a || a.launch == b.launch then decide (a.since < b.since)
  else s.outranks a.launch b.launch

/-- The first of a list in that order; of two of which neither goes before the other, the one that stands first, a mailbox entry before a
saved record (DESIGN CHOICE, log 74). -/
def State.firstOf (s : State) : List Waiting → Option Waiting
  | [] => none
  | w :: ws =>
    match s.firstOf ws with
    | some x => if s.before x w then some x else some w
    | none => some w

/-- The speed a snapshot takes: that of a trial in force, else the published one (R382, R409). -/
def Health.speed (h : Health) : Nat := h.trial.getD h.curve.su

/-- A core takes tasks: it is not halted (R356), being measured (R427) or retired (R433), and has started or restored none in
this cycle (R245). -/
def Core.takes (c : Core) : Bool :=
  !c.halted && !c.health.measuring && !c.health.retired && c.started != some c.cycle

/-- The task a core takes next (R245). -/
def State.choice (s : State) (core : Nat) : Option Waiting :=
  let c := s.core core
  if c.takes then s.firstOf ((placed c.mailbox ++ s.savedHere core).filter (s.fits core)) else none

/-- The core when a waiting task takes a context: one start or restore in this cycle, a place that was meant for it used up, and what an
earlier task of the context waited for forgotten. -/
def Core.seats (c : Core) (w : Waiting) (ctx : Nat) : Core :=
  { c with
    started := some c.cycle, due := c.due.filter fun x => !x.meant w, freed := c.freed.erase ctx, results := c.results.filter fun e => e.ctx != ctx }

/-- Every waiting task of a core that what it needs is not free for (R388). -/
def State.waiters (s : State) (core : Nat) : List Waiting :=
  let c := s.core core
  (placed c.mailbox ++ placed c.spill ++ s.savedHere core).filter fun w => !s.fits core w

/-- SPAD and DIV of a launch record (R371). -/
def recordSpad (r : List Word) : Nat := bitsAt (r.getD 1 0).toNat 17 9
def recordDiv (r : List Word) : Nat := bitsAt (r.getD 1 0).toNat 4 3

/-- The snapshot speed of a core in a launch (R382). -/
def Launch.speedOf (l : Launch) (core : Nat) : Nat := ((l.set.zip l.snap).find? fun e => e.1 == core).elim 0 fun e => e.2

/-- A record may be restored on a core (R394): its own, or another of its cluster and set that the rules allow. -/
def State.mayRestore (s : State) (core : Nat) (r : Saved) : Bool :=
  r.core == core ||
    (coreCluster r.core == coreCluster core && s.launchCore core && r.task.ident.coreSet.has core &&
      match r.task.ident.launch.bind s.launches.get? with
      | some l =>
        recordSpad l.record == 0 &&
          (recordDiv l.record != 1 || decide (l.speedOf (r.task.ident.tid.toNat % 2 ^ 13) ≤ l.speedOf core))
      | none => true)

end Sys2Proof.Machine
end

