-- ==== Sys2Proof/Machine/EvMsg.lean ====
section
/-! DEFINITION. Events of messages and weight: arrival (09 R249, R250), borrows and returns at hoist records (08 R225,
R228, 09 R262), notifications (05 R140), handovers (10 R283), queue messages (08 R218, R220) and Ultra Ethernet
transfers (19 R406). -/

namespace Sys2Proof.Machine

/-! ### Arrival at a core (R249, R250) -/

/-- A message that its core has accepted. -/
def State.enter (s : State) (k : Nat) (c : Core) (spilled : Bool) (m : Msg) : State :=
  ((s.setCore k (if spilled then c.count 0 16 1 else c)).accepted m)

/-- An earlier message of the same context to the same core has not been accepted yet (R251). -/
def State.behind (s : State) (m : Msg) : Bool :=
  m.sender.isSome && (s.fabric.vals ++ s.stops).any fun x => decide (x.id < m.id) && x.sender == m.sender && x.dst == m.dst

/-- MESSAGE_ARRIVAL (R249): into the mailbox, else the spill ring, else it waits at the stop (R250); messages of one context to one
core enter in order (R251). -/
def execMessageArrival (msg : Nat) (s : State) : Out :=
  match s.fabric.get? msg with
  | none => .next s
  | some m =>
    match m.dst with
    | .core k =>
      if s.behind m then .next s
      else
        let s := { s with fabric := s.fabric.erase msg }
        match (s.core k).accept { m with arrived := s.stime } with
        | some (c, spilled) => .next (s.enter k c spilled m)
        | none => .next { s with stops := s.stops ++ [m] }
    | _ => .next s

/-- FABRIC_STOP_ACCEPT (R250). -/
def execFabricStopAccept (msg : Nat) (s : State) : Out :=
  match s.stops.find? fun m => m.id == msg with
  | none => .next s
  | some m =>
    match m.dst with
    | .core k =>
      match (s.core k).accept { m with arrived := s.stime } with
      | some (c, spilled) => .next ({ s with stops := s.stops.filter fun x => x.id != msg }.enter k c spilled m)
      | none => .next s
    | _ => .next s

/-! ### Borrows and returns (R225, R228, R262) -/

/-- A borrow that a UALink keeps from its record: since when, and after 2 ms the borrow is over, and its task learns it (R405). -/
def State.borrowHeld (s : State) (id : Nat) (b : Borrow) : State :=
  if !s.recordLinked b.src.die b.asid b.hoist then s
  else if overdue b.since s.stime then
    { s with borrows := s.borrows.erase id }.mapTask b.tid fun t => if t.flow.wait == Wait.borrow id then t.wake .late else t
  else if b.since.isSome then s
  else { s with borrows := s.borrows.set id { b with since := some s.stime } }

/-- BORROW_STEP (R228): the record's step; the answer then travels back. A record that cannot be stepped keeps the borrow
waiting (DESIGN CHOICE, log 29), where a UALink does for 2 ms (R405). -/
def execBorrowStep (id : Nat) (s : State) : Out :=
  match s.borrows.get? id with
  | none => .next s
  | some b =>
    match b.answer, s.recordPa b.src.die b.asid b.hoist with
    | none, some pa =>
      let r := (s.noteRecord b.src b.asid b.hoist).borrowStep pa
      .next { r.1 with borrows := r.1.borrows.set id { b with answer := some r.2 } }
    | none, none => .next (s.borrowHeld id b)
    | some _, _ => .next s

/-- The grant of R228. -/
def grantSize : Nat := 2 ^ 16

/-- BORROW_GRANT_ARRIVAL (R262): the grant joins WEIGHT, or the refusal is learnt; a grant whose task has ended goes
back to the record. -/
def execBorrowGrantArrival (id : Nat) (s : State) : Out :=
  match s.borrows.get? id with
  | none => .next s
  | some b =>
    match b.answer with
    | none => .next s
    | some granted =>
      let s := { s with borrows := s.borrows.erase id }
      if (s.taskOf b.tid).isNone then .next (if granted then s.sendReturn b.src b.asid b.hoist grantSize false else s)
      else
        .next (s.mapTask b.tid fun t =>
          let t := if granted then { t with purse := { t.purse with weight := t.purse.weight + grantSize } } else t
          if t.flow.wait == .borrow id then t.wake (if granted then .yes else .refused) else t)

/-- WEIGHT_RETURN (R225): the amount reaches its record. -/
def execWeightReturn (id : Nat) (s : State) : Out :=
  match s.returns.get? id with
  | none => .next s
  | some r =>
    match s.recordPa r.src.die r.asid r.hoist with
    | some pa => .next (({ s with returns := s.returns.erase id }.noteRecord r.src r.asid r.hoist).returnStep pa r.amount r.kill)
    | none => .next s

/-- NOTIFICATION_TASK (R140): the performed atomic's message sets out for the issuing core. -/
def execNotificationTask (id : Nat) (s : State) : Out :=
  match s.notes.get? id with
  | none => .next s
  | some m => .next ({ s with notes := s.notes.erase id }.depart m)

/-! ### Handovers (R283) -/

/-- The region with a new writer. -/
def Region.handed (r : Region) (h : Handover) : Region :=
  if r.index == h.region then { r with writer := h.writer, engine := h.engine, prefixLen := h.prefixLen } else r

/-- Word 3 of a region table entry (R281). -/
def regionFlags (engine : Bool) (prefixLen : Nat) : Nat := 1 + engine.toNat * 2 + prefixLen % 128 * 256

/-- HANDOVER_ARRIVAL (R283): WRITER, KIND and L change in the table and at the slices, and the unit returns; it waits while a copy owns
the line of the table (R320). Where the descriptor that names the table cannot be read, the slices alone learn of it (R434, DESIGN
CHOICE, log 54). -/
def execHandoverArrival (id : Nat) (s : State) : Out :=
  match s.handovers.get? id with
  | none => .next s
  | some h =>
    let entry := s.localPa ((s.readDesc h.asid).regions + 32 * h.region)
    let lost := s.poisonedAt (s.descPa h.asid)
    let table := (s.regions.getD h.asid []).map fun r => r.handed h
    if !lost && s.heldBack entry then .next s
    else
      let s := { s with handovers := s.handovers.erase id, regions := s.regions.set h.asid table }
      let s := if lost then s
        else (s.deviceWrite (entry + 16) 8 h.writer.toNat).deviceWrite (entry + 24) 8 (regionFlags h.engine h.prefixLen)
      .next (s.sendReturn h.src h.asid h.hoist 1 false)

/-! ### Messages to queues (R218, R220) -/

/-- A queue number exists: its descriptor is enabled (R218, R366), and can be read (DESIGN CHOICE, log 57). -/
def State.queueExists (s : State) (q : Nat) : Bool := queueNumber q && !s.poisonedAt (s.queueDesc q) && bitAt (s.queueField q 9 1) 0

/-- The descriptor of a queue (R212). -/
def queueDescriptor (q : Nat) : Word := BitVec.ofNat 64 (2 ^ 63 + q)

/-- A record about the sender of a message. -/
def Msg.record (m : Msg) (kind : Nat) (cause addr : Word) : Record :=
  { tid := m.s5, path := m.senderPath, pc := 0, cause := cause, addr := addr, asid := m.ident.asid, kind := kind }

/-- A message leaves the fabric at the firmware column: its sender goes on, its unit returns. -/
def State.consume (s : State) (msg : Nat) (m : Msg) : State :=
  ({ s with fabric := s.fabric.erase msg }.accepted m).sendReturn frontOrigin m.ident.asid m.hoist m.weight false

/-- The same where it leaves a record, after which its unit returns (R218, R406). -/
def State.consumeWith (s : State) (msg : Nat) (m : Msg) (r : Record) : State :=
  (({ s with fabric := s.fabric.erase msg }.accepted m).postRecord m.ident.queue r).returnAfter m.ident.queue frontOrigin m.ident.asid m.hoist
    m.weight

/-- The entry of a message ring: header, arguments, 24 zero bytes (R366). -/
def ringEntry (m : Msg) : List Byte :=
  leBytes 8 m.hdr.toNat ++ (m.args.toList.map fun a => leBytes 8 a.toNat).flatten ++ List.replicate 24 0

/-- QUEUE_MESSAGE_DELIVERY (R220): a ring entry, or a KIND 8 record where the queue does not exist (R218), whose ADDR is the descriptor with the
bits that it ignores, [62:32], zero (DESIGN CHOICE, log 105). The message waits while the device may not touch the descriptor or the entry (R320). -/
def execQueueMessageDelivery (msg : Nat) (s : State) : Out :=
  match s.fabric.get? msg with
  | none => .next s
  | some m =>
    match m.dst with
    | .queue q =>
      if s.queueExists q then
        let mwr := s.queueField q 36 4
        let slot := s.ringSlot q 24 32 mwr
        if s.heldBack slot || s.heldBack (s.queueDesc q) then .next s
        else
          let s := (s.deviceBytes slot (ringEntry m)).deviceWrite (s.queueDesc q + 36) 4 (mwr + 1)
          .next ((s.queueEvent q).consume msg m)
      else .next (s.consumeWith msg m (m.record 8 0 (queueDescriptor q)))
    | _ => .next s

/-! ### Ultra Ethernet (R406) -/

/-- The pieces of a byte range that lie in one line each: address and length. -/
def linePieces (va n : Nat) : List (Nat × Nat) :=
  (List.range (n / 64 + 2)).filterMap fun i =>
    let lo := max va (va / 64 * 64 + 64 * i)
    let hi := min (va + n) (va / 64 * 64 + 64 * (i + 1))
    if lo < hi then some (lo, hi - lo) else none

/-- What an outside read returned. -/
def State.reply (s : State) (x : Reply) : State := { s with control := { s.control with hostRead := some x } }
def State.replyNat (s : State) (x : Nat) : State := s.reply (.data (BitVec.ofNat 512 x))

/-- A range that has to wait for a line or a link; a UALink only until it has kept it for 2 ms (R405). -/
def State.rangeWaits (s : State) (w : Who) (acc va n : Nat) (late : Bool) : Bool :=
  (linePieces va n).any fun p =>
    match s.locate w acc p.1 p.2 false false with
    | .error (.refuse ..) => false
    | .error (.link (.ualink _) _) => !late
    | .error _ => true
    | .ok _ => false

/-- A range under a key has to wait, and of one that a UALink keeps the time is noted. -/
def State.holdRange (s : State) (key : Nat) (w : Who) (acc va n : Nat) : State :=
  (linePieces va n).foldl (fun s p =>
    match s.locate w acc p.1 p.2 false false with
    | .error (.link l va) => s.holdLink key (.link l va)
    | _ => s) s

/-- Read a range line by line: the state, the bytes before the first refusal, and the refusal, which is POISON for a line that a UALink has
kept too long (R405). -/
def State.readRange (s : State) (w : Who) : List (Nat × Nat) → State × List Byte × Option (Nat × Nat)
  | [] => (s, [], none)
  | p :: ps =>
    match s.load w 4 p.1 p.2 with
    | .ok (x, s) =>
      let r := s.readRange w ps
      (r.1, leBytes p.2 x ++ r.2.1, r.2.2)
    | .error (.refuse code addr slice entry) => (s.noteRefused w.die w.asid code addr slice entry, [], some (code, addr))
    | .error (.link _ va) => (s, [], some (POISON, va))
    | .error _ => (s, [], none)

/-- Write a range line by line; lines before a refused one stay written, and a whole line clears its poison (DEDUCED,
log 32). A line that a UALink has kept too long counts as refused, with POISON (R405). -/
def State.writeRange (s : State) (w : Who) (va : Nat) (bytes : List Byte) : List (Nat × Nat) → State × Option (Nat × Nat)
  | [] => (s, none)
  | p :: ps =>
    let data := leNat ((bytes.drop (p.1 - va)).take p.2)
    match s.store w 5 p.1 p.2 data false (p.2 == 64) with
    | .ok s => s.writeRange w va bytes ps
    | .error (.refuse code addr slice entry) => (s.noteRefused w.die w.asid code addr slice entry, some (code, addr))
    | .error (.link _ va) => (s, some (POISON, va))
    | .error _ => (s, none)

/-- Another device as an agent in an address space, by its scale-out number (R308, R406). -/
def deviceWho (asid device : Nat) : Who := outsideWho asid (2 ^ 20 + device)

/-- The fields of a transfer message are inside their ranges; others are handled as a bad kind is (DESIGN CHOICE, log 19). -/
def transferOk (m : Msg) : Bool :=
  let kind := m.hdr.toNat % 256
  let len := (m.args.toList.getD 3 0).toNat
  (kind == 1 || kind == 2) && decide ((m.args.toList.getD 1 0).toNat ≤ 524287) && decide (1 ≤ len) && decide (len ≤ 2 ^ 30)

/-- UE_TRANSFER (R406): the transfer starts; a bad one leaves a KIND 9 record. -/
def execUeTransfer (msg : Nat) (s : State) : Out :=
  match s.fabric.get? msg with
  | none => .next s
  | some m =>
    match m.dst with
    | .transfer port =>
      let arg := fun (i : Nat) => (m.args.toList.getD i 0).toNat
      if transferOk m then
        let x : Transfer :=
          { port := port, write := m.hdr.toNat % 256 == 1, localVa := arg 0, device := arg 1, remoteVa := arg 2, len := arg 3,
            msg := m }
        .next ({ s with
          fabric := s.fabric.erase msg, nextId := s.nextId + 1, transfers := s.transfers.set s.nextId x }.accepted m)
      else
        .next (s.consumeWith msg m (m.record 9 (BitVec.ofNat 64 (m.hdr.toNat % 256)) (BitVec.ofNat 64 (arg 0))))
    | _ => .next s

/-- The cause of a KIND 10 record: CODE, and ACC 0 for a read or 1 for a write (R369). -/
def windowCause (code : Nat) (write : Bool) : Word := BitVec.ofNat 64 (code + write.toNat * 2 ^ 12)

/-- The remote pages that the first n bytes of a launch's transfer have written are tracked (R446). -/
def State.exportTransfer (s : State) (x : Transfer) (n : Nat) : State :=
  match x.msg.ident.launch.bind fun id => (s.launches.get? id).map fun l => (id, l) with
  | some (id, l) =>
    let lo := x.remoteVa / 4096 * 4096
    let hi := (x.remoteVa + n + 4095) / 4096 * 4096
    if n = 0 then s else { s with launches := s.launches.set id (l.exportRange 3 x.device lo hi) }
  | none => s

/-- Bytes leave for the remote device of a transfer. -/
def State.sendBytes (s : State) (x : Transfer) (bs : List Byte) : State :=
  { s with sent := if bs.isEmpty then s.sent else s.sent ++ [{ port := x.port, device := x.device, va := x.remoteVa, data := bs }] }

/-- The transfer is over: a refusal leaves its record, and then the unit returns (R406). -/
def State.endTransfer (s : State) (id : Nat) (x : Transfer) (bad : Option (Nat × Nat × Bool)) : State :=
  let s := { s with transfers := s.transfers.erase id }.unlink (transferKey id)
  let s := match bad with
    | some (code, addr, write) => s.postRecord x.msg.ident.queue (x.msg.record 10 (windowCause code write) (BitVec.ofNat 64 addr))
    | none => s
  if bad.isSome then s.returnAfter x.msg.ident.queue frontOrigin x.msg.ident.asid x.msg.hoist x.msg.weight
  else s.sendReturn frontOrigin x.msg.ident.asid x.msg.hoist x.msg.weight false

/-- UE_TRANSFER_COMPLETE (R406): the local side is performed in the sender's address space; `data` holds the bytes of a read.
`denied` says that the remote device refused: of a read after the bytes of `data`, of a write after as many as `data` has. A remote
refusal is recorded as PERM (DESIGN CHOICE, log 19). -/
def execUeTransferComplete (id : Nat) (denied : Bool) (data : List Byte) (s : State) : Out :=
  match s.transfers.get? id with
  | none => .next s
  | some x =>
    let w := deviceWho x.msg.ident.asid x.device
    let n := if denied then min data.length x.len else x.len
    let pieces := linePieces x.localVa n
    let far := if denied then some (PERM, x.remoteVa + n, x.write) else none
    let acc := if x.write then 4 else 5
    if !x.write && data.length != n then .next s
    else if s.rangeWaits w acc x.localVa n (s.lateLink (transferKey id)) then .next (s.holdRange (transferKey id) w acc x.localVa n)
    else if x.write then
      let r := s.readRange w pieces
      let bad := (r.2.2.map fun e => (e.1, e.2, false)).orElse fun _ => far
      .next (((r.1.sendBytes x r.2.1).exportTransfer x r.2.1.length).endTransfer id x bad)
    else
      let r := s.writeRange w x.localVa data pieces
      .next (r.1.endTransfer id x ((r.2.map fun e => (e.1, e.2, true)).orElse fun _ => far))

/-- Incoming transfers are enabled and name a valid address space (R406), whose descriptor can be read (R434, DESIGN CHOICE, log 54). -/
def State.xasidOk (s : State) : Option Nat :=
  let x := s.control.xasid.toNat
  let asid := x % 65536
  if bitAt x 63 && asid != 0 && !s.poisonedAt (s.descPa asid) && (s.readDesc asid).valid then some asid else none

/-- INCOMING_TRANSFER (R406) from a device: performed in the address space that XASID names; the bytes of a read, or a refusal, go back to the
sender. Lines before a refused one stay written. -/
def execIncomingTransfer (source : RemoteAddr) (len : Nat) (data : Option (List Byte)) (s : State) : Out :=
  match s.xasidOk with
  | none => .next (s.reply .denied)
  | some asid =>
    let w := deviceWho asid source.device
    let va := source.va
    match data with
    | some bytes =>
      if bytes.length != len then .next s
      else if s.rangeWaits w 5 va len (s.lateLink incomingKey) then .next (s.holdRange incomingKey w 5 va len)
      else
        let s := s.unlink incomingKey
        let r := s.writeRange w va bytes (linePieces va len)
        .next (r.1.reply (if r.2.isSome then .denied else .bytes []))
    | none =>
      if s.rangeWaits w 4 va len (s.lateLink incomingKey) then .next (s.holdRange incomingKey w 4 va len)
      else
        let s := s.unlink incomingKey
        let r := s.readRange w (linePieces va len)
        .next (r.1.reply (if r.2.2.isSome then .denied else .bytes r.2.1))

end Sys2Proof.Machine
end

