-- ==== Sys2Proof/Machine/EvEngine.lean ====
section
/-! DEFINITION. The cluster copy engine (08 R235 to R239, 11 R298 to R303, 12 R320, 13 R338) and its merge queue (10
R275 to R278): taking a request, moving one line, completion, faults and retries. -/

namespace Sys2Proof.Machine

/-! ### Geometry (R236) -/

/-- Interleave the low k bits of two coordinates, with the rest of the longer one above (R236). -/
def mortonIndex (wl hl x y : Nat) : Nat :=
  let k := min wl hl
  let low := ((List.range k).map fun i =>
    (if bitAt x i then 2 ^ (2 * i) else 0) + (if bitAt y i then 2 ^ (2 * i + 1) else 0)).sum
  low + (x / 2 ^ k + y / 2 ^ k) * 2 ^ (2 * k)

/-- The coordinates of a Morton index. -/
def mortonPlace (wl hl m : Nat) : Nat × Nat :=
  let k := min wl hl
  let bitsOf := fun (o : Nat) => ((List.range k).map fun i => if bitAt m (2 * i + o) then 2 ^ i else 0).sum
  let high := m / 2 ^ (2 * k) * 2 ^ k
  (bitsOf 0 + (if hl < wl then high else 0), bitsOf 1 + (if hl < wl then 0 else high))

/-- The block of KIND 3 and 4 names a tile R236 admits; one that does not moves nothing (DESIGN CHOICE, log 20). -/
def CopyReq.tileOk (q : CopyReq) : Bool := decide (q.block.wl + q.block.hl ≤ 24)

/-- Rows of the destination, and bytes of each. -/
def CopyReq.rows (q : CopyReq) : Nat :=
  match q.kind with
  | 1 => q.n1
  | 4 => 2 ^ q.block.hl
  | _ => 1
def CopyReq.rowBytes (q : CopyReq) : Nat :=
  match q.kind with
  | 0 | 1 => q.n0
  | 2 => q.n1 * 2 ^ q.esz
  | 3 => if q.tileOk then 2 ^ (q.block.wl + q.block.hl) * 2 ^ q.esz else 0
  | _ => if q.tileOk then 2 ^ q.block.wl * 2 ^ q.esz else 0

/-- The positions a request passes through: its bytes, and for a prefetch one more for its arrival (R239). -/
def CopyReq.total (q : CopyReq) : Nat :=
  match q.pf with
  | some (kind, _) => q.n0 + (if kind = 0 then 0 else 1)
  | none => q.rows * q.rowBytes

/-- An address with a signed offset, modulo 2^64. -/
def addrPlus (a : Nat) (d : Int) : Nat := ((a + d) % 2 ^ 64).toNat

/-- Where a row of the destination begins. -/
def CopyReq.rowStart (q : CopyReq) (row : Nat) : Nat := if row = 0 then q.dst else addrPlus q.dst (row * q.block.dstride)

/-- The destination of the next chunk, the rest of one line of its row, and its length. -/
def CopyReq.chunk (q : CopyReq) : Nat × Nat :=
  let row := q.pos / q.rowBytes
  let col := q.pos % q.rowBytes
  let a := addrPlus (q.rowStart row) col
  (a, min (q.rowBytes - col) (64 - a % 64))

/-- The part of a row that lies in a line: its position in the row, and its length. -/
def CopyReq.rowPart (q : CopyReq) (row line : Nat) : Option (Nat × Nat) :=
  let start := q.rowStart row
  let col := (64 * line + 2 ^ 64 - start) % 2 ^ 64
  if start / 64 = line then some (0, min q.rowBytes (64 - start % 64))
  else if col < q.rowBytes then some (col, min 64 (q.rowBytes - col))
  else none

/-- A part of a copy: its position in the request, its destination, and its length. -/
structure Part where
  pos : Nat
  dst : Nat
  len : Nat
deriving DecidableEq, Repr

/-- What the next step of a request moves: the next chunk, and of a destination line every later row's part too, so that the request
writes the whole of its part of the line at once (R308, R321). A stream has no destination line. -/
def CopyReq.parts (q : CopyReq) : List Part :=
  let p := q.chunk
  let row := q.pos / q.rowBytes
  let later := if q.done == 2 then [] else (List.range (q.rows - row - 1)).filterMap fun i =>
    let r := row + 1 + i
    (q.rowPart r (p.1 / 64)).map fun x => ({ pos := r * q.rowBytes + x.1, dst := addrPlus (q.rowStart r) x.1, len := x.2 } : Part)
  { pos := q.pos, dst := p.1, len := p.2 } :: later

/-- The first position from pos on whose line is still to be written: a line that an earlier row has a part of was written with it. -/
def CopyReq.nextPos (q : CopyReq) : Nat → Nat → Nat
  | 0, pos => pos
  | fuel + 1, pos =>
    let p := { q with pos := pos }.chunk
    if decide (pos < q.total) && (List.range (pos / q.rowBytes)).any fun r => (q.rowPart r (p.1 / 64)).isSome then
      q.nextPos fuel (pos + p.2)
    else pos

/-- The pieces of a list that lie in a line, as one range: its first byte, and its length. -/
def hullOf (pieces : List (Nat × Nat)) (line : Nat) : Nat × Nat :=
  let here := pieces.filter fun p => p.1 / 64 == line
  let lo := (here.map fun p => p.1).foldl min (64 * line + 64)
  (lo, (here.map fun p => p.1 + p.2).foldl max lo - lo)

/-- Read the range that a list of pieces needs of each line, once (R308): the bytes read, with their addresses. -/
def State.fetchLines (s : State) (w : Who) (pieces : List (Nat × Nat)) : List Nat → Except Stop (List (Nat × List Byte) × State)
  | [] => .ok ([], s)
  | line :: lines =>
    let h := hullOf pieces line
    match s.load w 4 h.1 h.2 with
    | .error z => .error z
    | .ok (x, s) =>
      match s.fetchLines w pieces lines with
      | .error z => .error z
      | .ok (bs, s) => .ok ((h.1, leBytes h.2 x) :: bs, s)

/-- The bytes of a piece of a line that has been read. -/
def pieceBytes (read : List (Nat × List Byte)) (p : Nat × Nat) : List Byte :=
  match read.find? fun r => r.1 / 64 == p.1 / 64 with
  | some r => (r.2.drop (p.1 - r.1)).take p.2
  | none => []

/-- Read runs of source bytes. The accesses of a step are one event for each line (R308), which reads from the first byte to the last that
the step needs of the line (DESIGN CHOICE, log 106). -/
def State.readRuns (s : State) (w : Who) (runs : List (Nat × Nat)) : Except Stop (List Byte × State) :=
  let pieces := runs.flatMap fun r => linePieces r.1 r.2
  match s.fetchLines w pieces (pieces.map fun p => p.1 / 64).eraseDups with
  | .error z => .error z
  | .ok (read, s) => .ok (pieces.flatMap (pieceBytes read), s)

/-- The source runs of a part whose elements first to last have the addresses that `source` gives. -/
def CopyReq.elemRuns (q : CopyReq) (pos len : Nat) (source : Nat → Nat) (es : List Nat) : List (Nat × Nat) :=
  let size := 2 ^ q.esz
  es.map fun e =>
    let lo := max pos (e * size)
    (source e + (lo - e * size), min (pos + len) ((e + 1) * size) - lo)

/-- The source runs of a part, in destination order; a gather reads the index list for it (R236). -/
def State.sourceRuns (s : State) (w : Who) (q : CopyReq) (p : Part) : Except Stop (List (Nat × Nat) × State) :=
  let size := 2 ^ q.esz
  let first := p.pos / size
  let count := (p.pos + p.len - 1) / size + 1 - first
  let runs := fun (source : Nat → Nat) => q.elemRuns p.pos p.len source ((List.range count).map fun i => first + i)
  match q.kind with
  | 0 => .ok ([(q.src + p.pos, p.len)], s)
  | 1 => .ok ([(addrPlus q.src ((p.pos / q.rowBytes) * q.block.sstride + (p.pos % q.rowBytes : Nat)), p.len)], s)
  | 2 =>
    match s.readRuns w [(q.block.idx + 8 * first, 8 * count)] with
    | .error z => .error z
    | .ok (bs, s) => .ok (runs fun e => addrPlus q.src (bitsInt true 64 (leNat ((bs.drop (8 * (e - first))).take 8))), s)
  | 3 =>
    let source := fun (e : Nat) =>
      let c := mortonPlace q.block.wl q.block.hl e
      addrPlus q.src (c.2 * q.block.sstride + c.1 * size)
    .ok (runs source, s)
  | _ =>
    .ok (runs fun e => q.src + mortonIndex q.block.wl q.block.hl (e % 2 ^ q.block.wl) (e / 2 ^ q.block.wl) * size, s)

/-- The source runs of the parts of a step. -/
def State.partRuns (s : State) (w : Who) (q : CopyReq) : List Part → Except Stop (List (Nat × Nat) × State)
  | [] => .ok ([], s)
  | p :: ps =>
    match s.sourceRuns w q p with
    | .error z => .error z
    | .ok (rs, s) =>
      match s.partRuns w q ps with
      | .error z => .error z
      | .ok (more, s) => .ok (rs ++ more, s)

/-- The bytes of the next step of a copy, part by part. -/
def State.readParts (s : State) (w : Who) (q : CopyReq) : Except Stop (List Byte × State) :=
  match s.partRuns w q q.parts with
  | .error z => .error z
  | .ok (runs, s) => s.readRuns w runs

/-- Bytes from an address on with those of the parts in their place, a later row's over an earlier one's. -/
def overlay (base : Nat) : List Part → List Byte → List Byte → List Byte
  | [], _, old => old
  | p :: ps, new, old =>
    overlay base ps (new.drop p.len) (old.take (p.dst - base) ++ new.take p.len ++ old.drop (p.dst - base + p.len))

/-- The parts of a step cover their range of the line whole. -/
def coverRange (parts : List Part) (lo n : Nat) : Bool :=
  (List.range n).all fun k => parts.any fun p => decide (p.dst ≤ lo + k) && decide (lo + k < p.dst + p.len)

/-- The write of a step: one event for the line (R308), over the range from the first byte to the last that the request has in it. Bytes
of the range that are none of the request's stay as they are, and where rows overlap the later row's stand (DESIGN CHOICE,
log 106). -/
def State.writeParts (s : State) (w : Who) (parts : List Part) (bs : List Byte) : Except Stop State :=
  let h := hullOf (parts.map fun p => (p.dst, p.len)) ((parts.head?.map fun p => p.dst / 64).getD 0)
  if coverRange parts h.1 h.2 then
    s.store w 5 h.1 h.2 (leNat (overlay h.1 parts bs (List.replicate h.2 0))) false (h.2 == 64)
  else
    match s.modify w 5 h.1 h.2 fun old => leNat (overlay h.1 parts bs (leBytes h.2 old)) with
    | .error z => .error z
    | .ok (_, s) => .ok s

/-! ### Taking a request (R298, R299, R303, R320) -/

/-- The engine acting for a request. -/
def CopyReq.who (q : CopyReq) (cluster : Nat) : Who :=
  engineWho cluster q.core q.ident.asid q.ident.path q.ident.launch (some q.id)

/-- The key under which a destination line is owned: its scratchpad or physical line, where it has one. -/
def State.lineKey (s : State) (w : Who) (va : Nat) : Option Nat :=
  if inWindow va then (s.windowAt w va 1).map spadLine
  else
    match s.translate (nearSlice w.die va) w.asid va with
    | .ok l => some (s.localPa (l.phys va) / 64)
    | .error _ => none

/-- The lines a run of bytes covers. -/
def linesOf (a n : Nat) : List Nat :=
  if n = 0 then [] else (List.range ((a + n - 1) / 64 + 1 - a / 64)).map fun i => a / 64 + i

/-- The destination lines of a request, by line number; a stream and a prefetch have none. -/
def CopyReq.destLines (q : CopyReq) : List Nat :=
  if q.pf.isSome || q.done == 2 then []
  else ((List.range q.rows).map fun r => linesOf (q.rowStart r) q.rowBytes).flatten.eraseDups

/-- A request reads a parameter block when its KIND or its DONE uses one (R236). -/
def CopyReq.usesBlock (q : CopyReq) : Bool := q.pf.isNone && (q.kind != 0 || q.done == 1)

/-- The fields of a parameter block (R235). The spec says that its last 24 bytes and the other bits of GEOM are zero and HANDLER aligned to 4,
and nothing of a block where they are not: those bits then have no effect (DESIGN CHOICE, log 107). -/
def blockOf (x : Nat) : Block :=
  { sstride := bitsInt true 64 (fieldOf x 0 8), dstride := bitsInt true 64 (fieldOf x 8 8), idx := fieldOf x 16 8,
    handler := BitVec.ofNat 64 (fieldOf x 24 8), wl := fieldOf x 32 1, hl := fieldOf x 33 1 }

/-- Another active request of the address space has taken a line by its VA. -/
def State.ownedVa (s : State) (w : Who) (line : Nat) : Bool :=
  s.clusters.any fun c => c.2.engine.active.any fun q => w.req != some q.id && q.ident.asid == w.asid && q.unmapped.contains line

/-- The engine reads the block of a request and takes its lines, all at one instant; a line another agent owns makes it
wait (R299, R320). A line that no page maps yet is taken by its VA (DESIGN CHOICE, log 70). -/
def State.takeBlock (s : State) (cluster : Nat) (q : CopyReq) : Except Stop (State × CopyReq) :=
  let w := q.who cluster
  let r := if q.usesBlock then s.load w 4 q.pb 64 else .ok (0, s)
  match r with
  | .error z => .error z
  | .ok (x, s) =>
    let q := { q with block := blockOf x, taken := true, turn := s.nextId }
    let keys := q.destLines.filterMap fun n => s.lineKey w (64 * n)
    let unmapped := q.destLines.filter fun n => (s.lineKey w (64 * n)).isNone && !inWindow (64 * n)
    if keys.any (s.owned w) || unmapped.any (s.ownedVa w) then .error .hold
    else .ok ({ s with nextId := s.nextId + 1 }, { q with own := keys, unmapped := unmapped })

/-- A request of a cluster's engine. -/
def Engine.request (e : Engine) (id : Nat) : Option CopyReq := e.active.find? fun q => q.id == id

/-- A request of an engine replaced. -/
def Engine.put (e : Engine) (q : CopyReq) : Engine := { e with active := e.active.map fun x => if x.id == q.id then q else x }
def State.putReq (s : State) (cluster : Nat) (q : CopyReq) : State :=
  let c := s.cluster cluster
  s.setCluster cluster { c with engine := c.engine.put q }

/-- The free stream buffer of a bank. -/
def Bank.freeBuffer (b : Bank) : Option Nat := (List.range 4).find? fun i => match b.buf[i]? with
  | some none => true
  | _ => false

/-- The places of the pending list that are spoken for: its completions, and the active requests that will leave one (R300, DEDUCED,
log 79). -/
def Engine.pending (e : Engine) : Nat := e.done.length + (e.active.filter fun q => q.pf.isNone && q.done == 1).length

/-- The head of a FIFO may be taken: a DONE = 1 request needs room in the pending list, a DONE = 2 request of a live task
a free buffer of the bank it runs with (R300, R303, R391). -/
def State.mayTake (s : State) (e : Engine) (q : CopyReq) : Bool :=
  if q.pf.isSome || q.done == 0 then true
  else if q.done == 1 then decide (e.pending < 64)
  else if (s.taskOf q.tid).isNone then true
  else
    match q.bank with
    | some b => !q.paused && (s.bankOf q.core b).freeBuffer.isSome
    | none => false

/-- A request of a core has left its FIFO and has not started, since its take has to wait (R320): the FIFO waits behind it (R298). -/
def Engine.starting (e : Engine) (core : Nat) : Bool := e.active.any fun q => q.core == core && !q.taken && q.stuck.isNone

/-- The core whose FIFO is served next, starting after the source served last (R298). Only a take counts as serving a source: neither a
line moved nor a merge step changes who comes next (DESIGN CHOICE, log 80). -/
def State.nextSource (s : State) (cluster : Nat) (e : Engine) : Option (Nat × CopyReq) :=
  (List.range 9).findSome? fun i =>
    let c := (e.last + 1 + i) % 9
    if c = 8 then none
    else
      match (s.core (8 * cluster + c)).fifo with
      | q :: _ => if s.mayTake e q && !e.starting (8 * cluster + c) then some (c, q) else none
      | [] => none

/-- The stream buffer a taken DONE = 2 request of a live task fills (R303). -/
def State.giveBuffer (s : State) (q : CopyReq) : State × CopyReq :=
  match q.bank with
  | some b =>
    let k := s.bankOf q.core b
    if q.pf.isSome || q.done != 2 || (s.taskOf q.tid).isNone then (s, q)
    else
      match k.freeBuffer with
      | some i =>
        let x : Stream := { req := q.id, tag := q.tag, data := [], done := false }
        (s.setBank q.core b { k with buf := k.buf.set! i (some x) }, { q with buffer := some i })
      | none => (s, q)
  | none => (s, q)

/-- A task waiting for room in a core's FIFO goes on (R237, R243). -/
def State.wakeFifo (s : State) (core : Nat) : State :=
  { s with
    ctxs := s.ctxs.map fun e =>
      (e.1, if ctxCore e.1 == core && e.2.flow.wait == .fifo then e.2.wake .no else e.2) }

/-- ENGINE_TAKE_REQUEST (R298): up to four requests are active. -/
def execEngineTakeRequest (cluster : Nat) (s : State) : Out :=
  let e := (s.cluster cluster).engine
  if e.frozen || 4 ≤ e.active.length || 640 ≤ cluster then .next s
  else
    match s.nextSource cluster e with
    | none => .next s
    | some (c, q) =>
      let k := 8 * cluster + c
      let s := (s.setCore k { s.core k with fifo := (s.core k).fifo.drop 1 }).wakeFifo k
      let r := s.giveBuffer q
      let x := r.1.cluster cluster
      let s := r.1.setCluster cluster { x with engine := { x.engine with active := x.engine.active ++ [r.2], last := c } }
      match s.takeBlock cluster r.2 with
      | .ok (s, q) => .next (s.putReq cluster q)
      | .error _ => .next s

/-! ### One line (R236, R239) -/

/-- The request after a step has written a line: it owns the line no more (R320). -/
def State.released (s : State) (w : Who) (q : CopyReq) (a len : Nat) : CopyReq :=
  let pos := q.nextPos q.total (q.pos + len)
  let own := match s.lineKey w a with
    | some k => q.own.filter (· != k)
    | none => q.own
  { q with
    pos := pos, own := if pos < q.total then own else []
    unmapped := if pos < q.total then q.unmapped.filter (· != a / 64) else [] }

/-- Bytes enter the stream buffer of a request; without one they are discarded (R237, R303). -/
def State.fillStream (s : State) (q : CopyReq) (bs : List Byte) (last : Bool) : State :=
  match q.bank, q.buffer with
  | some b, some i =>
    let k := s.bankOf q.core b
    match k.buf[i]? with
    | some (some x) => s.setBank q.core b { k with buf := k.buf.set! i (some { x with data := x.data ++ bs, done := last }) }
    | _ => s
  | _, _ => s

/-- The stream buffer has room for a chunk (R303). -/
def State.streamRoom (s : State) (q : CopyReq) (len : Nat) : Bool :=
  match q.bank, q.buffer with
  | some b, some i =>
    match (s.bankOf q.core b).buf[i]? with
    | some (some x) => decide (x.data.length + len ≤ 4096)
    | _ => true
  | _, _ => true

/-- One step of a copy: read its source, write its destination line or its stream, in one step (DESIGN CHOICE, log 40). -/
def State.copyLine (s : State) (cluster : Nat) (q : CopyReq) : Except Stop (State × CopyReq) :=
  let w := q.who cluster
  let p := q.chunk
  if q.done == 2 && (q.paused || !s.streamRoom q p.2) then .error .hold
  else
    match s.readParts w q with
    | .error z => .error z
    | .ok (bs, s) =>
      if q.done == 2 then
        let q' := { q with pos := q.pos + p.2 }
        .ok (s.fillStream q bs (q'.pos == q.total), q')
      else
        match s.writeParts w q.parts bs with
        | .error z => .error z
        | .ok s => .ok (s, s.released w q p.1 p.2)

/-- One line of a prefetch: fetched, or skipped where it is refused, an IO page or a weight-store line (R239, R297). -/
def State.prefetchLine (s : State) (cluster : Nat) (q : CopyReq) : Except Stop (State × CopyReq) :=
  let w := q.who cluster
  let a := q.src + q.pos
  let len := min (q.n0 - q.pos) (64 - a % 64)
  let q' := { q with pos := q.pos + len }
  let stored := match s.lineKey w a with
    | some k => (s.wsImage.bind fun im => im.lines.get? k).isSome
    | none => false
  if stored then .ok (s, q')
  else
    match s.load w 4 a len with
    | .ok (_, s) => .ok (s, q')
    | .error (.refuse code addr slice entry) => .ok (s.noteRefused w.die w.asid code addr slice entry, q')
    | .error (.link ..) => .ok (s, q')
    | .error z => .error z

/-- The arrival of a prefetch, after its last line (R239). Its barrier address names a line, 0 too: an engine arrives at the wired barrier by
c = 1 only (R304, DESIGN CHOICE, log 96). -/
def State.prefetchArrive (s : State) (cluster : Nat) (q : CopyReq) (kind : Nat) (bar : Word) :
    Except Stop (State × CopyReq) :=
  let q' := { q with pos := q.total }
  if kind = 1 then .ok ((s.arriveWired cluster).1, q')
  else
    match s.arrive (q.who cluster) 5 bar.toNat with
    | .error z => .error z
    | .ok (_, s) => .ok (s, q')

/-- The next step of an active request: its take while its block is unread, a line, or a prefetch's arrival. -/
def State.engineStep (s : State) (cluster : Nat) (q : CopyReq) : Except Stop (State × CopyReq) :=
  if !q.taken then s.takeBlock cluster q
  else
    match q.pf with
    | some (kind, bar) =>
      if q.pos < q.n0 then s.prefetchLine cluster q else s.prefetchArrive cluster q kind bar
    | none => s.copyLine cluster q

/-- A request still has steps to make. -/
def CopyReq.moving (q : CopyReq) : Bool := q.stuck.isNone && (!q.taken || decide (q.pos < q.total))

/-! ### Merge work beside it (R277, R298) -/

/-- The cluster that joins a chain: that of its declarer. -/
def State.joinCluster (s : State) (c : Chain) : Option Nat :=
  match s.ctxOf c.declarer with
  | some i => some (coreCluster (ctxCore i))
  | none => (s.savedOf c.declarer).map fun r => coreCluster r.2.core

/-- The cluster whose engine owes a chain its next step. -/
def State.mergeCluster (s : State) (c : Chain) : Option Nat :=
  if c.fault.isSome then none
  else
    match c.work with
    | w :: _ => some w.cluster
    | [] => if c.joining && c.segs.any (fun g => !g.lines.isEmpty) then s.joinCluster c else none

/-- The next step of a request moves a line: it is neither its take nor a prefetch's arrival (R298). -/
def CopyReq.movesLine (q : CopyReq) : Bool := q.moving && q.taken && (q.pf.isNone || decide (q.pos < q.n0))

/-- An engine can move a line of a request. -/
def State.linesWait (s : State) (cluster : Nat) : Bool :=
  (s.cluster cluster).engine.active.any fun q => q.movesLine && match s.engineStep cluster q with
    | .ok _ => true
    | .error _ => false

/-- A request has moved a line: the next is the merge queue's, once the requests have moved the lines due to them (R298). -/
def State.lineMoved (s : State) (cluster : Nat) : State :=
  let x := s.cluster cluster
  let e := x.engine
  s.setCluster cluster { x with engine := { e with mergeTurn := decide (e.owed ≤ 1), owed := max 1 (e.owed - 1) } }

/-- The merge queue has moved n lines: as many of the requests come before its next (R298). -/
def State.linesMerged (s : State) (cluster n : Nat) : State :=
  let x := s.cluster cluster
  s.setCluster cluster { x with engine := { x.engine with mergeTurn := false, owed := n } }

/-- The slice that performs a line of join: the home of the line; where nothing maps it, the bookkeeping slice. -/
def State.joinSlice (s : State) (w : Who) (c : Chain) (line : Nat) : Nat :=
  match s.locate w 5 (64 * line) 64 false false with
  | .ok (.mem _ home) => home
  | _ => c.slice

/-- The merge step's effect, with the lines it combined and the slice that performed it: a combination, or a line of join, which touch
their private lines at the slices that hold these (R273, DESIGN CHOICE, log 101), whose
fault is kept for the performer; nothing while its line is another agent's, or while a UALink holds it, for 2 ms at most (R275, R276,
R278, R405). -/
def State.mergeStep (s : State) (n cluster : Nat) (c : Chain) : Option (State × Nat × Nat) :=
  match c.work with
  | w :: ws =>
    match c.combine w with
    | some (c', lines) =>
      some ({ s.askLines n (if lines = 0 then [] else c.stepLines w) with chains := s.chains.set n c' }, lines, c.slice)
    | none => some ({ s with chains := s.chains.set n { c with work := ws } }, 0, c.slice)
  | [] =>
    match c.segs.find? fun g => !g.lines.isEmpty with
    | none => none
    | some g =>
      let line := (g.lines.head?.map fun l => l.1).getD 0
      let path := ((s.taskOf c.declarer).map fun t => t.ident.path).getD 0
      let w := engineWho cluster (8 * cluster) c.asid path c.launch none
      let faulted := fun (x : Trap) => some ({ s with chains := s.chains.set n { c with fault := some x, since := none } }, 0, c.slice)
      if c.poisoned [g.id] line then faulted (arenaFault line)
      else
        match s.joinStep w c g line with
        | .ok (s', g') =>
          let asked := s'.askLines n ((c.unit line).map fun k => (g.id, k))
          some ({ asked with chains := s'.chains.set n { c.mapSeg g.id (fun _ => g') with since := none } }, (c.unit line).length,
            s.joinSlice w c line)
        | .error (.refuse code addr slice e) =>
          (faulted { cause code (BitVec.ofNat 64 addr) 0 with acc := 5 }).map fun r =>
            (r.1.noteRefused w.die w.asid code addr slice e, r.2)
        | .error (.link (.ualink _) va) =>
          if overdue c.since s.stime then faulted { cause POISON (BitVec.ofNat 64 va) 0 with acc := 5 }
          else if c.since.isSome then none
          else some ({ s with chains := s.chains.set n { c with since := some s.stime } }, 0, c.slice)
        | .error _ => none

/-- An engine has a merge step that moves lines, and nothing keeps it from that step (R298, R320). -/
def State.mergesWait (s : State) (cluster : Nat) : Bool :=
  s.chains.any fun c => s.mergeCluster c.2 == some cluster && match s.mergeStep c.1 cluster c.2 with
    | some (_, lines, _) => lines != 0
    | none => false

/-- ENGINE_LINE_TRANSFER (R236, R298): merge work takes every other line while there is any; a take that had to wait and the arrival of
a prefetch are no lines. -/
def execEngineLineTransfer (cluster req : Nat) (s : State) : Out :=
  let e := (s.cluster cluster).engine
  match e.request req with
  | none => .next s
  | some q =>
    if e.frozen || !q.moving || (q.movesLine && e.mergeTurn && s.mergesWait cluster) then .next s
    else
      match s.engineStep cluster q with
      | .ok (s, r) =>
        let s := s.putReq cluster { r with since := none }
        .next (if q.movesLine then s.lineMoved cluster else s)
      | .error (.link (.ualink _) _) =>
        .next (if q.since.isSome then s else s.putReq cluster { q with since := some s.stime })
      | .error z => .next (s.heldAt z)

/-- MERGE_STEP (R278). -/
def execMergeStep (chain : Nat) (s : State) : Out :=
  match s.chains.get? chain with
  | none => .next s
  | some c =>
    match s.mergeCluster c with
    | none => .next s
    | some n =>
      let e := (s.cluster n).engine
      if e.frozen || (!e.mergeTurn && s.linesWait n) then .next s
      else
        match s.mergeStep chain n c with
        | some (s, 0, _) => .next s
        | some (s, lines, slice) => .next ((s.countSlice slice 9 1).linesMerged n lines)
        | none => .next s

/-! ### Completion (R237, R239, R300) -/

/-- COPY_COMPLETION (R300): the unit returns, and a DONE = 1 request of a live task leaves a pending completion. -/
def execCopyCompletion (cluster req : Nat) (s : State) : Out :=
  let x := s.cluster cluster
  match x.engine.request req with
  | none => .next s
  | some q =>
    let tells := q.pf.isNone && q.done == 1 && (s.taskOf q.tid).isSome
    if !q.taken || q.pos < q.total then .next s
    else
      let d : Completion := { tid := q.tid, tag := q.tag, handler := q.block.handler }
      let e := { x.engine with
        active := x.engine.active.filter fun y => y.id != req
        done := if tells then x.engine.done ++ [d] else x.engine.done }
      .next ((s.setCluster cluster { x with engine := e }).sendReturn (engineOrigin cluster) q.ident.asid q.hoist 1 false)

/-! ### Faults of engine accesses (R338) -/

/-- The interval of retries. -/
def retryNs : Nat := 10000

/-- Arm one of 32 engine monitors at the slice that refused, or set a retry; of a descriptor, which is no entry, there is no monitor, and of
a refusal that no entry makes, as WRITER, MIXED, a poisoned line, or the weight store's or another device's PERM, there is none
either: those are tried again every 10 µs (DESIGN CHOICE, logs 54 and 108). -/
def State.armEngine (s : State) (asid va slice acc : Nat) (entry : Option (Nat × Nat)) (waiter : Waiter) :
    State × Option Nat :=
  let c := s.cluster slice
  match entry with
  | some (e, lo) =>
    if lo != 0 && c.engineMonitors.length < 32 then
      let m : EngineMonitor :=
        { asid := asid, va := va, write := accWrites acc, entry := e, lo := lo, waiter := waiter, fired := false }
      let n := c.engineMonitors.fresh
      (s.setCluster slice { c with engineMonitors := c.engineMonitors.set n m }, some n)
    else (s, none)
  | none => (s, none)

/-- The access kind a refused step was refused for: 5 for a line's or a barrier's write, 4 for a read (R333). -/
def State.stepAcc (s : State) (cluster : Nat) (q : CopyReq) : Nat :=
  if !q.taken then 4
  else if q.pf.isSome then 5
  else
    match s.readParts (q.who cluster) q with
    | .error _ => 4
    | .ok _ => 5

/-- The soft fault an issuer learns (R338). -/
def State.tellIssuer (s : State) (q : CopyReq) (k : Stuck) : State :=
  if q.told then s
  else s.mapTask q.tid fun t => { t with flow := { t.flow with soft := t.flow.soft ++ [k.trap q.tag true] } }

/-- A refused step parks its request, or ends it where its issuer has ended. -/
def State.parkReq (s : State) (cluster : Nat) (q : CopyReq) (code addr slice : Nat) (entry : Option (Nat × Nat)) : State :=
  let acc := s.stepAcc cluster q
  let s := s.noteRefused (clusterDie cluster) q.ident.asid code addr slice entry
  let line := addr / 64 * 64
  let k : Stuck := { slice := slice, monitor := none, retryAt := s.stime + retryNs, code := code, acc := acc, addr := line }
  if (s.taskOf q.tid).isNone then
    let x := s.cluster cluster
    (s.setCluster cluster { x with engine := { x.engine with active := x.engine.active.filter fun y => y.id != q.id } }).abandonRequest q k
  else
    let r := s.armEngine q.ident.asid addr slice acc entry (.request cluster q.id)
    let k := { k with monitor := r.2 }
    ((r.1.tellIssuer q k).putReq cluster { q with stuck := some k, told := true })

/-- ENGINE_FAULT (R338): the next step of an active request is refused, or a UALink has held it for 2 ms (R405). -/
def execEngineFault (cluster req : Nat) (s : State) : Out :=
  let e := (s.cluster cluster).engine
  match e.request req with
  | none => .next s
  | some q =>
    if e.frozen || !q.moving then .next s
    else
      match s.engineStep cluster q with
      | .error (.refuse code addr slice entry) => .next (s.parkReq cluster q code addr slice entry)
      | .error (.link (.ualink _) va) =>
        if overdue q.since s.stime then
          .next (s.parkReq cluster { q with since := none } POISON va (nearSlice (clusterDie cluster) va) none)
        else .next s
      | _ => .next s

/-- ENGINE_RETRY (R338): a parked request without a monitor tries its line again every 10 µs. -/
def execEngineRetry (cluster req : Nat) (s : State) : Out :=
  let e := (s.cluster cluster).engine
  match e.request req with
  | none => .next s
  | some q =>
    match q.stuck with
    | none => .next s
    | some k =>
      if e.frozen || k.monitor.isSome || s.stime < k.retryAt then .next s
      else
        let again := { q with stuck := some { k with retryAt := s.stime + retryNs } }
        match s.engineStep cluster q with
        | .error (.refuse code addr slice e) =>
          .next ((s.noteRefused (clusterDie cluster) q.ident.asid code addr slice e).putReq cluster again)
        | .error _ => .next (s.putReq cluster again)
        | .ok _ => .next (s.putReq cluster { q with stuck := none })

/-- What a fired monitor's waiter does: a request goes on at the refused line, a command is tried again. -/
def State.wakeEngine (s : State) (w : Waiter) : State :=
  match w with
  | .request cluster id =>
    match (s.cluster cluster).engine.request id with
    | some q => s.putReq cluster { q with stuck := none }
    | none => s
  | .command q =>
    let x := s.queue q
    s.setQueue q { x with stuck := x.stuck.map fun k => { k with monitor := none, retryAt := s.stime } }

/-- ENGINE_MONITOR_FIRE (R338). -/
def execEngineMonitorFire (slice mon : Nat) (s : State) : Out :=
  let c := s.cluster slice
  match c.engineMonitors.get? mon with
  | none => .next s
  | some m =>
    if m.fired then
      .next ((s.setCluster slice { c with engineMonitors := c.engineMonitors.erase mon }).wakeEngine m.waiter)
    else .next s

end Sys2Proof.Machine
end

