-- ==== Sys2Proof/Machine/EvQueue.lean ====
section
/-! DEFINITION. The front end's queues (17 R366 to R370, R377): doorbells and slots, fetching a command, the commands
that are no launch, and interrupts. -/

namespace Sys2Proof.Machine

/-! ### Slots (R366, R367) -/

/-- EN, RD and WR of a queue's descriptor, and its address space (R366). A descriptor that cannot be read counts as disabled, and its address
space as 0 (DESIGN CHOICE, log 57). -/
def State.queueEn (s : State) (q : Nat) : Bool := !s.poisonedAt (s.queueDesc q) && bitAt (s.queueField q 9 1) 0
def State.queueRd (s : State) (q : Nat) : Nat := s.queueField q 16 4
def State.queueWr (s : State) (q : Nat) : Nat := s.queueField q 20 4
def State.queueAsid (s : State) (q : Nat) : Nat := if s.poisonedAt (s.queueDesc q) then 0 else s.queueField q 10 2

/-- STAT: MAPPED, PARKED, and the slot while mapped. -/
def Queue.stat (x : Queue) : Nat :=
  (if x.slot.isSome then 1 else 0) + (if x.parked.isEmpty then 0 else 2) + x.slot.getD 0 * 256

/-- The front-end state of a queue changed, with STAT. -/
def State.putQueue (s : State) (q : Nat) (x : Queue) : State := (s.setQueue q x).deviceWrite (s.queueDesc q + 56) 8 x.stat

/-- The lowest free slot of 256. -/
def State.freeSlot (s : State) : Option Nat := (List.range 256).find? fun n => !s.queues.any fun e => e.2.slot == some n

/-- A queue asks for a slot, as a doorbell does: it takes the lowest free one, or waits in order (R367). -/
def State.askSlot (s : State) (q : Nat) : State :=
  let x := s.queue q
  if x.slot.isSome || !x.parked.isEmpty then s
  else
    match s.freeSlot with
    | some n => s.putQueue q { x with slot := some n, waiting := none }
    | none =>
      if x.waiting.isSome then s
      else { s with nextId := s.nextId + 1 }.putQueue q { x with waiting := some s.nextId }

/-- The queue whose doorbell has waited longest. -/
def firstWaiting : List (Nat × Queue) → Option (Nat × Nat)
  | [] => none
  | (q, x) :: es =>
    match x.waiting, firstWaiting es with
    | some n, some (m, p) => if n ≤ m then some (n, q) else some (m, p)
    | some n, none => some (n, q)
    | none, r => r

/-- A queue gives up its slot, which goes to the first that waits. -/
def State.dropSlot (s : State) (q : Nat) : State :=
  let s := s.putQueue q { s.queue q with slot := none }
  match firstWaiting s.queues with
  | some (_, p) => s.askSlot p
  | none => s

/-- Boot has opened the windows of BAR 0; no queue is fetched before (R437). -/
def State.open (s : State) : Bool := s.control.bootStage == 7

/-- QUEUE_DOORBELL (R367). -/
def execQueueDoorbell (q : Nat) (s : State) : Out :=
  if !queueNumber q || !s.open then .next s
  else
    let s := s.setQueue q { s.queue q with doorbell := s.stime }
    if s.queueEn q && s.queueRd q != s.queueWr q then .next (s.askSlot q) else .next s

/-- SLOT_IDLE_TIMEOUT (R367): 64 µs without entries or a doorbell; the slot of a parked command stays mapped (R368), and so does that of a
queue whose descriptor cannot be read (R434, DESIGN CHOICE, log 57). -/
def execSlotIdleTimeout (q : Nat) (s : State) : Out :=
  let x := s.queue q
  if s.poisonedAt (s.queueDesc q) then .next s
  else if x.slot.isSome && s.queueRd q == s.queueWr q && x.stuck.isNone && decide (x.doorbell + 64000 ≤ s.stime) then
    .next (s.dropSlot q)
  else .next s

/-! ### Fetch (R368) -/

/-- OP and word i of a command. -/
def cmdOp (c : List Word) : Nat := (c.getD 0 0).toNat % 256
def cmdWord (c : List Word) (i : Nat) : Nat := (c.getD i 0).toNat

/-- A command the front end dispatches; any other is skipped with a KIND 9 record (R368). -/
def cmdOk (c : List Word) : Bool :=
  let a := cmdWord c 1
  let named := a % 8 == 0 && decide (a < 2 ^ 56)
  cmdWord c 0 / 256 == 0 &&
    match cmdOp c with
    | 0 | 4 | 7 | 8 | 9 => true
    | 1 => a % 128 == 0 && decide (a < 2 ^ 56)
    | 2 => named && decide (cmdWord c 2 ≤ 5)
    | 3 | 10 => named
    | 5 => decide (cmdWord c 3 ≤ 8) && (cmdWord c 3 == 0 || (cmdWord c 2 != 0 && cmdWord c 2 % 64 == 0))
    | 6 => a % 4096 == 0 && cmdWord c 2 % 2 ^ 48 % 4096 == 0 && decide (a + cmdWord c 2 % 2 ^ 48 ≤ 2 ^ 56)
    | _ => false

/-- COMMAND_FETCH (R368): the next entry of a mapped queue, once the one before it has been dispatched. An entry that cannot be read
stays where it is (DESIGN CHOICE, log 57), and so does one whose line, or whose queue's descriptor, the device may not touch yet (R320). -/
def execCommandFetch (q : Nat) (s : State) : Out :=
  let x := s.queue q
  let rd := s.queueRd q
  if !s.open || x.slot.isNone || !x.parked.isEmpty || x.command.isSome || !s.queueEn q || rd == s.queueWr q then .next s
  else
    let entry := s.ringSlot q 0 8 rd
    let c := (List.range 8).map fun i => s.word (entry + 8 * i)
    if s.poisonedAt entry || s.heldBack entry || s.heldBack (s.queueDesc q) then .next s
    else
      let s := s.deviceWrite (s.queueDesc q + 16) 4 (rd + 1)
      if cmdOk c then .next (s.setQueue q { x with command := some c })
      else .next (s.postRecord q (Record.event (s.queueAsid q) 9 0 (BitVec.ofNat 64 (cmdOp c)) (c.getD 1 0)))

/-- The command a queue has fetched, where it has the given operation; it waits while the descriptor cannot be read (R434, DESIGN CHOICE,
log 57). -/
def State.commandIs (s : State) (q op : Nat) : Option (List Word) :=
  (s.queue q).command.filter fun c => cmdOp c == op && !s.poisonedAt (s.queueDesc q)

/-- The command has been dispatched. -/
def State.dispatched (s : State) (q : Nat) : State := s.setQueue q { s.queue q with command := none, stuck := none, since := none }

/-- The front end as an agent in a queue's address space (R368). -/
def frontWho (asid : Nat) : Who := outsideWho asid 6003

/-! ### Named accesses (R368) -/

/-- An access in a queue's address space; address space 0 is rejected as an invalid one is (R439). -/
def inSpace {α : Type} (asid va : Nat) (r : Except Stop α) : Except Stop α :=
  if asid = 0 then .error (.refuse XLATE va (nearSlice 0 va) none) else r

/-- A refused access of a command: one KIND 2 record, and the command is parked at its slice. -/
def State.parkCommand (s : State) (q acc : Nat) (addr : Word) (code at_ slice : Nat) (entry : Option (Nat × Nat)) (told : Bool) :
    State :=
  let asid := s.queueAsid q
  let s := s.noteRefused 0 asid code at_ slice entry
  let r := s.armEngine asid at_ slice acc entry (.command q)
  let k : Stuck :=
    { slice := slice, monitor := r.2, retryAt := s.stime + retryNs, code := code, acc := acc, addr := addr.toNat }
  let s := r.1.setQueue q { r.1.queue q with stuck := some k, since := none }
  if told then s else s.postRecord q (Record.event asid 2 0 ((k.trap 0 true).word 0) addr)

/-- The access of a command in its queue: what it does where it is performed, parked where it is refused, or where a UALink has held it
for 2 ms (R405). -/
def State.commandAccess (s : State) (q acc : Nat) (addr : Word) (r : Except Stop State) (told : Bool) : State :=
  match r with
  | .ok s => s
  | .error (.refuse code at_ slice entry) => s.parkCommand q acc addr code at_ slice entry told
  | .error (.link (.ualink _) va) =>
    let x := s.queue q
    if overdue x.since s.stime then s.parkCommand q acc addr POISON va (nearSlice 0 va) none told
    else if x.since.isSome then s
    else s.setQueue q { x with since := some s.stime }
  | .error z => s.heldAt z

/-- A comparison of a WAIT: codes 0 to 5 of R97. -/
def waitCc (n : Nat) : Cc :=
  match n with
  | 0 => .eq
  | 1 => .ne
  | 2 => .lt
  | 3 => .ge
  | 4 => .le
  | _ => .gt

/-- The queue parks on a condition, beside those it is parked on already, and gives up its slot (R370). -/
def State.parkQueue (s : State) (q : Nat) (p : ParkedOn) : State :=
  let x := s.queue q
  (s.putQueue q { x with parked := x.parked ++ [p], waiting := none }).dropSlot q

/-- What the signal unit watches: the signal of a queue's WAIT, or the counter of a launch (R370, R372). -/
def waitKey (q : Nat) : Nat := 2 * q
def counterKey (launch : Nat) : Nat := 2 * launch + 1

/-- The signal unit is armed on a word of an address space, at the slice where its line is (R370). -/
def State.watch (s : State) (key asid va : Nat) (cc : Cc) (comparand : Word) : State :=
  match s.locate (frontWho asid) 4 va 8 false false with
  | .ok (.mem pa home) =>
    let c := s.cluster home
    s.setCluster home { c with signals := c.signals.set key { pa := pa, cc := cc, comparand := comparand, met := false } }
  | _ => s

/-- A write of the line has met the condition since the signal unit was armed. -/
def State.watchMet (s : State) (key : Nat) : Bool := s.clusters.any fun c => (c.2.signals.get? key).any fun x => x.met

/-- The signal unit watches it no more. -/
def State.unwatch (s : State) (key : Nat) : State :=
  { s with clusters := s.clusters.map fun c => (c.1, { c.2 with signals := c.2.signals.erase key }) }

/-- A WAIT performed: dispatched, and where its condition does not hold the queue is parked on it (R370). -/
def State.doWait (s : State) (q : Nat) (c : List Word) (told : Bool) : State :=
  let a := c.getD 1 0
  let cc := waitCc (cmdWord c 2)
  s.commandAccess q 4 a (match inSpace (s.queueAsid q) a.toNat (s.load (frontWho (s.queueAsid q)) 4 a.toNat 8) with
    | .error z => .error z
    | .ok (m, s) =>
      let s := s.dispatched q
      .ok (if cc.holds (BitVec.ofNat 64 m) (c.getD 3 0) then s
        else (s.watch (waitKey q) (s.queueAsid q) a.toNat cc (c.getD 3 0)).parkQueue q (.signal a.toNat cc (c.getD 3 0)))) told

/-- sig.add by the front end in an address space (R233, R373): an overflow leaves a KIND 4 record. -/
def State.frontSigAdd (s : State) (q asid : Nat) (a x : Word) : Except Stop State :=
  match inSpace asid a.toNat (s.modify (frontWho asid) 5 a.toNat 8 fun m => (sigSum x m).1) with
  | .error z => .error z
  | .ok (m, s) => .ok (if (sigSum x m).2 then s.postRecord q (Record.event asid 4 0 0 a) else s)

/-- One decrement of a dependence counter (R373): 0 stays 0, with a KIND 5 record. -/
def State.frontDec (s : State) (q asid : Nat) (a : Word) : Except Stop State :=
  match inSpace asid a.toNat (s.modify (frontWho asid) 5 a.toNat 8 fun m => m - 1) with
  | .error z => .error z
  | .ok (m, s) => .ok (if m = 0 then s.postRecord q (Record.event asid 5 0 0 a) else s)

/-- A SIGNAL and a DEC performed. -/
def State.doSignal (s : State) (q : Nat) (c : List Word) (told : Bool) : State :=
  s.commandAccess q 5 (c.getD 1 0) ((s.frontSigAdd q (s.queueAsid q) (c.getD 1 0) (c.getD 2 0)).map fun s => s.dispatched q) told
def State.doDec (s : State) (q : Nat) (c : List Word) (told : Bool) : State :=
  s.commandAccess q 5 (c.getD 1 0) ((s.frontDec q (s.queueAsid q) (c.getD 1 0)).map fun s => s.dispatched q) told

/-- A command that has not been parked. -/
def State.fresh (s : State) (q : Nat) : Bool := (s.queue q).stuck.isNone

/-- CMD_NOP (R368). -/
def execCmdNop (q : Nat) (s : State) : Out :=
  match s.commandIs q 0 with
  | some _ => .next (s.dispatched q)
  | none => .next s

/-- CMD_WAIT (R370). -/
def execCmdWait (q : Nat) (s : State) : Out :=
  match s.commandIs q 2 with
  | some c => .next (if s.fresh q then s.doWait q c false else s)
  | none => .next s

/-- CMD_SIGNAL (R368). -/
def execCmdSignal (q : Nat) (s : State) : Out :=
  match s.commandIs q 3 with
  | some c => .next (if s.fresh q then s.doSignal q c false else s)
  | none => .next s

/-- CMD_DEC (R368). -/
def execCmdDec (q : Nat) (s : State) : Out :=
  match s.commandIs q 10 with
  | some c => .next (if s.fresh q then s.doDec q c false else s)
  | none => .next s

/-- A parked command is abandoned: its KIND 3 record, and its monitor is free. -/
def State.abandonCommand (s : State) (q : Nat) (k : Stuck) : State :=
  let r := Record.event (s.queueAsid q) 3 0 ((k.trap 0 false).word 0) (BitVec.ofNat 64 k.addr)
  ((s.dropEngineMonitor k).postRecord q r).dispatched q

/-- The host has cleared EN of a descriptor that can be read. -/
def State.enCleared (s : State) (q : Nat) : Bool := !s.poisonedAt (s.queueDesc q) && !bitAt (s.queueField q 9 1) 0

/-- A condition of a queue is met. With the last one PARKED is cleared, and the queue asks to be mapped on the terms of a doorbell (R367,
R370). -/
def State.unpark (s : State) (q : Nat) (met : ParkedOn → Bool) : State :=
  let x := s.queue q
  let rest := x.parked.filter fun p => !met p
  if !rest.isEmpty then s.setQueue q { x with parked := rest }
  else
    let s := s.putQueue q { x with parked := [] }
    if s.queueEn q && s.queueRd q != s.queueWr q then s.askSlot q else s

/-- The condition of a WAIT. -/
def ParkedOn.waits (p : ParkedOn) : Bool :=
  match p with
  | .signal .. => true
  | .counter .. => false

/-- WAIT_SATISFIED (R370): a write since the queue was parked has met the condition, be it for a moment only. -/
def execWaitSatisfied (q : Nat) (s : State) : Out :=
  if (s.queue q).parked.any ParkedOn.waits && s.watchMet (waitKey q) then .next ((s.unwatch (waitKey q)).unpark q ParkedOn.waits)
  else .next s

/-! ### Minting and messages (R263, R368) -/

/-- A record may not be stepped now, though nothing has refused the step: its line has to wait, or a link or a poisoned node keeps the
walk from the page that maps it. A record that no page maps is not busy: its mint is refused (DESIGN CHOICE, log 92). -/
def State.recordBusy (s : State) (die asid : Nat) (hoist : Word) : Bool :=
  match s.translate (nearSlice die hoist.toNat) asid hoist.toNat with
  | .ok _ | .error (.invalid ..) | .error .outside => (s.recordAt die asid hoist).isSome && (s.recordPa die asid hoist).isNone
  | .error (.stalled _) | .error (.poisoned ..) => true

/-- A mint of 2^16 into a record (R263), and whether it is granted: refused by a closed record and past 2^63, it has stepped the record all the
same (R289, R290); refused in address space 0 (R439) it reaches none. It is refused, too, where no page maps the record, and a MSG command's w7
that is no multiple of 64 is stepped where it points, as the spec lists no refusal of it (DESIGN CHOICE, log 92). -/
def State.mint (s : State) (asid : Nat) (hoist : Word) : State × Bool :=
  if asid = 0 then (s, false)
  else
    match s.recordPa 0 asid hoist with
    | none => (s.noteTranslation (nearSlice 0 hoist.toNat) asid hoist.toNat, false)
    | some pa =>
      let s := s.noteRecord frontOrigin asid hoist
      if !s.recOpen pa || 2 ^ 63 < s.recMinted pa + grantSize then (s, false)
      else ((s.deviceWrite pa 8 (s.recOutstanding pa + grantSize)).deviceWrite (pa + 8) 8 (s.recMinted pa + grantSize), true)

/-- A refused mint leaves a KIND 7 record with its cause. -/
def State.mintRefused (s : State) (q : Nat) (hoist : Word) (code : Nat) : State :=
  s.postRecord q (Record.event (s.queueAsid q) 7 0 (BitVec.ofNat 64 code) hoist)

/-- Where a MSG command's task goes: as callat, from the front end in cluster 0 of the column, on any launch core (R247,
R256, DESIGN CHOICE, log 21). -/
def State.msgCore (s : State) (a : Word) : Option Nat :=
  if a.toNat / 2 ^ 48 == 0xF0 then s.spawnCore .all false 0 emptyPath else s.callatCore .all false 0 a emptyPath

/-- The message of a MSG command. -/
def cmdMsgOf (q asid core : Nat) (c : List Word) : Msg :=
  { id := 0, dst := .core core, hdr := c.getD 2 0, args := #v[c.getD 3 0, c.getD 4 0, c.getD 5 0, c.getD 6 0],
    s5 := queueDescriptor q, weight := grantSize, hoist := c.getD 7 0,
    ident := { tid := 0, path := emptyPath, asid := asid, queue := q, launch := none, coreSet := .all, parent := none },
    views := [], sender := none, senderPath := emptyPath, launchStart := false, arrived := 0 }

/-- A MSG performed: the mint first, then the task. It waits while every launch core is being measured (R256) and while the record may not be
stepped; one whose record a UALink has kept for 2 ms is parked, as a command whose access is refused (R405, DESIGN CHOICE, log 31). -/
def State.doMsg (s : State) (q : Nat) (c : List Word) (told : Bool) : State :=
  let asid := s.queueAsid q
  let hoist := c.getD 7 0
  match s.msgCore (c.getD 1 0) with
  | none => s
  | some core =>
    if s.recordBusy 0 asid hoist then
      if s.recordLinked 0 asid hoist then s.commandAccess q 5 hoist (.error (.link (.ualink 0) hoist.toNat)) told else s
    else
      let r := s.mint asid hoist
      if r.2 then (r.1.depart (cmdMsgOf q asid core c)).dispatched q else (r.1.mintRefused q hoist PENNANT).dispatched q

/-- CMD_MSG (R368). -/
def execCmdMsg (q : Nat) (s : State) : Out :=
  match s.commandIs q 4 with
  | some c => .next (if s.fresh q then s.doMsg q c false else s)
  | none => .next s

/-- COMMAND_ACCESS_RETRY (R368): a parked command is performed once its monitor has fired or its retry is due, and abandoned once its
queue's EN is clear. -/
def execCommandAccessRetry (q : Nat) (s : State) : Out :=
  match (s.queue q).stuck, (s.queue q).command with
  | some k, some c =>
    if s.enCleared q then .next (s.abandonCommand q k)
    else if s.poisonedAt (s.queueDesc q) || k.monitor.isSome || s.stime < k.retryAt then .next s
    else
      match cmdOp c with
      | 2 => .next (s.doWait q c true)
      | 3 => .next (s.doSignal q c true)
      | 4 => .next (s.doMsg q c true)
      | 10 => .next (s.doDec q c true)
      | _ => .next s
  | _, _ => .next s

/-! ### Invalidation, tasks and pins (R368, R376) -/

/-- CMD_XINV (R368): it counts as dispatched when every slice has acknowledged (R399). -/
def execCmdXinv (q : Nat) (s : State) : Out :=
  match s.commandIs q 6 with
  | none => .next s
  | some c =>
    if s.invals.any fun v => v.2.issuer == .command q then .next s
    else
      let v : Inval :=
        { issuer := .command q, asid := bitsAt (cmdWord c 2) 63 48, start := cmdWord c 1, len := cmdWord c 2 % 2 ^ 48,
          arrived := [], acked := [] }
      .next { s with nextId := s.nextId + 1, invals := s.invals.set s.nextId v }

/-- A suspended context runs again at UPC_PC, still in its upcall handler if it was in one (R339). -/
def Task.resumeSuspended (t : Task) : Task := { t.resume with flow := { t.resume.flow with inUpcall := t.flow.inUpcall } }

/-- The task was suspended by a merge fault, whose step its halt or join then makes again (R278). -/
def Task.mergeSuspended (t : Task) : Bool := t.flow.suspended && t.ctl.upcCause.toNat % 256 == MERGE

/-- CMD_RESUME (R368): nothing for a task that is not suspended. -/
def execCmdResume (q : Nat) (s : State) : Out :=
  match s.commandIs q 7 with
  | none => .next s
  | some c =>
    let x := c.getD 2 0
    let s := if (s.taskOf x).any Task.mergeSuspended then s.resumeMerge x else s
    .next ((s.mapTask x fun t => if t.flow.suspended then t.resumeSuspended else t).dispatched q)

/-- CMD_KILL (R368): of a task of this queue, in any state of R223; nothing for any other id. -/
def execCmdKill (q : Nat) (s : State) : Out :=
  match s.commandIs q 8 with
  | none => .next s
  | some c =>
    let x := c.getD 2 0
    match (s.taskOf x).filter fun t => t.ident.queue == q && !s.unkillable t with
    | none => .next (s.dispatched q)
    | some _ =>
      .next ({ s with
        nextId := s.nextId + 1
        kills := s.kills.set s.nextId { target := x, killer := none, queue := some q } }.dispatched q)

/-- CMD_UNPIN (R376). -/
def execCmdUnpin (q : Nat) (s : State) : Out :=
  match s.commandIs q 9 with
  | none => .next s
  | some _ => .next (s.setQueue q { s.queue q with pins := [], pinned := [], command := none })

/-! ### The weight store (R293) -/

/-- WSB of a launch that is running or being aborted. -/
def State.weightUsers (s : State) : Bool :=
  s.launches.any fun l => (l.2.phase == .running || l.2.phase == .aborting) && bitsAt (l.2.record.getD 1 0).toNat 21 18 != 0

/-- The standing image is dropped, and its banks are L2 again, empty (R293): no slice holds its lines, and no last write of them is
remembered (R323). -/
def State.dropImage (s : State) : State :=
  match s.wsImage with
  | none => s
  | some im =>
    { s with
      wsImage := none, directory := s.directory.filter fun e => (im.lines.get? e.1).isNone
      clusters := s.clusters.map fun c => (c.1, { c.2 with lastWrites := c.2.lastWrites.filter fun e => (im.lines.get? e.1).isNone }) }

/-- An image of an address space takes banks from L2, which lose the lines they hold (R293). In which bank L2 keeps a line the spec does not
say, so which lines go is a free choice, pinned ones apart (DESIGN CHOICE, log 82); what is left fits in what is left of each slice. The image
that is being loaded holds no line yet. -/
def State.takeBanks (s : State) (asid banks : Nat) : State :=
  let kept := fun (line : Nat) => s.pinnedLine line || s.freeAt 8 line
  let s : State := { s with
    wsImage := some { asid := asid, banks := banks, lines := [] }
    directory := s.directory.filter fun e => kept e.1
    clusters := s.clusters.map fun c => (c.1, { c.2 with lastWrites := c.2.lastWrites.filter fun e => kept e.1 }) }
  ((s.directory.map fun e => e.2.slice).eraseDups).foldl (fun s n => s.fitSlice n 0 0) s

/-- A line is read into the banks of an image: another slice that holds it, or another name of it, is recalled first (R290), and L2 takes no
place for it. -/
def State.fillImage (s : State) (w : Who) (va pa home : Nat) : State :=
  let s := s.noteTranslation (nearSlice w.die va) w.asid va
  let line := pa / 64
  let h : Holder := { slice := home, asid := w.asid, vline := va / 64 }
  let s := if (linkOf pa).isSome then s
    else match s.directory.get? line with
      | some old => if old = h then s.countL2 pa home else ((s.countL2 pa home).dropLines old.slice [line]).countSlice home 5 1
      | none => s.countL2 pa home
  s.noteWatch w 4 va 64

/-- A loaded image stands, and each line of it is held at its home slice (R290, R292). -/
def State.standImage (s : State) (im : Image) : State :=
  let put := fun (d : Tab Holder) (e : Nat × Nat) => d.set e.1 { slice := farSlice (64 * e.2), asid := im.asid, vline := e.2 }
  { s with wsImage := some im, directory := im.lines.foldl put s.directory }

/-- CMD_WSLOAD (R293): once no running launch uses the image it is dropped; with k = 0 that is all. -/
def execCmdWsload (q : Nat) (s : State) : Out :=
  match s.commandIs q 5 with
  | none => .next s
  | some c =>
    if s.weightUsers then .next s
    else if cmdWord c 3 = 0 then .next (s.dropImage.dispatched q)
    else .next s.dropImage

/-- How a load of an image goes: every line copied, a failure with its CAUSE and source VA after the lines before it, or a read that has to
wait. -/
inductive ImageEnd where
  | whole (s : State) (lines : Tab Nat)
  | failed (s : State) (code va : Nat)
  | waits (z : Stop)

/-- The lines of a range copied to their home slices (R290, R293). The first line that fails decides, a refused read (CAUSE 2), as of one
that a UALink has held for 2 ms (R405), before a near page (3) before a full slice (1); of two lines that one physical line serves, the
image knows it by the later VA; and the k banks of a slice are full when they hold 8,192 k lines together, whichever bank each line is in
(DESIGN CHOICE, log 81). -/
def State.imageLines (s : State) (w : Who) (banks : Nat) (late : Bool) : List Nat → Tab Nat → ImageEnd
  | [], t => .whole s t
  | n :: ns, t =>
    let a := 64 * n
    match inSpace w.asid a (s.locate w 4 a 64 false false), s.translate (nearSlice 0 a) w.asid a with
    | .ok (.mem pa home), .ok l =>
      if l.near then .failed s 3 a
      else if 8192 * banks ≤ (t.filter fun e => farSlice (64 * e.2) == farSlice a).length then .failed s 1 a
      else (s.fillImage w a pa home).imageLines w banks late ns (t.set (pa / 64) n)
    | .error (.refuse code at_ slice entry), _ => .failed (s.noteRefused w.die w.asid code at_ slice entry) 2 a
    | .ok _, _ => .failed s 2 a
    | .error (.link (.ualink k) va), _ => if late then .failed s 2 a else .waits (.link (.ualink k) va)
    | .error z, _ => .waits z

/-- WSLOAD_COMPLETE (R293): the whole copy, or its failure with a KIND 14 record. -/
def execWsloadComplete (q : Nat) (s : State) : Out :=
  match s.commandIs q 5 with
  | none => .next s
  | some c =>
    if s.weightUsers || cmdWord c 3 = 0 || s.wsImage.isSome then .next s
    else
      let asid := s.queueAsid q
      let banks := cmdWord c 3
      let x := s.queue q
      match (s.takeBanks asid banks).imageLines (frontWho asid) banks (overdue x.since s.stime)
          (linesOf (cmdWord c 1) (cmdWord c 2)) [] with
      | .whole s lines => .next ((s.standImage { asid := asid, banks := banks, lines := lines }).dispatched q)
      | .waits (.link (.ualink _) _) => .next (if x.since.isSome then s else s.setQueue q { x with since := some s.stime })
      | .waits z => .next (s.heldAt z)
      | .failed s code va =>
        .next (({ s with wsImage := none }.postRecord q
          (Record.event asid 14 0 (BitVec.ofNat 64 code) (BitVec.ofNat 64 va))).dispatched q)

/-! ### Clearing EN, and interrupts (R368, R377) -/

/-- EN of a descriptor cleared. -/
def State.clearEn (s : State) (q : Nat) : State :=
  s.deviceWrite (s.queueDesc q + 9) 1 (s.queueField q 9 1 / 2 * 2)

/-- QUEUE_EN_CLEARED (R368), a host's write of the descriptor; it waits while the device may not touch that line (R320). -/
def execQueueEnCleared (q : Nat) (s : State) : Out :=
  if !queueNumber q || s.heldBack (s.queueDesc q) then .next s
  else
    let s := s.clearEn q
    match (s.queue q).stuck with
    | some k => .next (if s.enCleared q then s.abandonCommand q k else s)
    | none => .next s

/-- Nothing of the queue is mapped, parked or running (R377). -/
def State.queueIdle (s : State) (q : Nat) : Bool :=
  let x := s.queue q
  !s.poisonedAt (s.queueDesc q) && x.command.isNone && x.parked.isEmpty && (x.slot.isNone || s.queueRd q == s.queueWr q) &&
    !s.launches.any fun l => l.2.queue == q

/-- HOLDOFF and IDLE in ns (R366). -/
def State.holdoffNs (s : State) (q : Nat) : Nat := min (s.queueField q 34 1 % 128) 64 * 1000
def State.idleNs (s : State) (q : Nat) : Nat :=
  let n := s.queueField q 35 1 % 128
  (if n = 0 then 2 else min n 64) * 1000

/-- MSIX_INTERRUPT (R377): the message signals every event written before it. None is sent while the descriptor that says when and where
cannot be read (R434, DESIGN CHOICE, log 57). -/
def execMsixInterrupt (q : Nat) (s : State) : Out :=
  let x := s.queue q
  let due := decide (x.oldest + s.holdoffNs q ≤ s.stime) || (s.queueIdle q && decide (x.latest + s.idleNs q ≤ s.stime))
  if x.events = 0 || s.poisonedAt (s.queueDesc q) || !due then .next s
  else
    let port : Port := if bitAt (s.queueField q 9 1) 1 then .b else .a
    .next ({ s with msix := s.msix ++ [(port, s.queueField q 12 4)] }.setQueue q { x with events := 0 })

end Sys2Proof.Machine
end

