-- ==== Sys2Proof/Machine/EvLaunch.lean ====
section
/-! DEFINITION. Launches (17 R371 to R376, 18 R382 to R386, 24 R444, R445): checks, acceptance, the division of work,
completion, retained partitions, aborts and gang notices. -/

namespace Sys2Proof.Machine

/-! ### The record (R371) -/

/-- The fields of a launch record. -/
def recWord (r : List Word) (i : Nat) : Word := r.getD i 0
def recClass (r : List Word) : Nat := bitsAt (recWord r 1).toNat 6 5
def recBanks (r : List Word) : Bool := (recWord r 1).getLsbD 8
def recWsb (r : List Word) : Nat := bitsAt (recWord r 1).toNat 21 18
def recNpin (r : List Word) : Nat := bitsAt (recWord r 1).toNat 25 22
def recCount (r : List Word) : Nat := (recWord r 2).toNat
def recGran (r : List Word) : Nat := (recWord r 3).toNat
def recHoist (r : List Word) : Word := recWord r 5
def recRetain (r : List Word) : Word := recWord r 6
def recGang (r : List Word) : Word := recWord r 14

/-! ### Reads of the front end (R371, R372) -/

/-- Bytes of a range as an engine read finds them, changing nothing. -/
def State.peekPieces (s : State) (w : Who) : List (Nat × Nat) → Except Stop (List Byte)
  | [] => .ok []
  | p :: ps =>
    match s.locate w 4 p.1 p.2 false false with
    | .error z => .error z
    | .ok at_ =>
      match s.peekPieces w ps with
      | .error z => .error z
      | .ok bs => .ok (leBytes p.2 (s.readAt at_ p.1 p.2) ++ bs)
def State.peek (s : State) (w : Who) (va n : Nat) : Except Stop (List Byte) := s.peekPieces w (linePieces va n)

/-- Items of a number of bytes. -/
def itemsOf (size : Nat) (bs : List Byte) : List Nat :=
  (List.range (bs.length / size)).map fun i => leNat ((bs.drop (size * i)).take size)

/-- A list with an n64 count before it (R371): items of `size` bytes. -/
def State.peekList (s : State) (w : Who) (va size : Nat) : Except Stop (List Nat) :=
  match s.peek w va 8 with
  | .error z => .error z
  | .ok bs => (s.peek w (va + 8) (size * leNat bs)).map (itemsOf size)

/-- Pairs of 64-bit words. -/
def pairsOf (bs : List Byte) : List (Nat × Nat) :=
  let xs := itemsOf 8 bs
  (List.range (xs.length / 2)).map fun i => (xs.getD (2 * i) 0, xs.getD (2 * i + 1) 0)

/-- The pin list, the cores of a NAMED launch, the window table and the member list. -/
def State.pinList (s : State) (w : Who) (r : List Word) : Except Stop (List (Nat × Nat)) :=
  if recNpin r = 0 then .ok [] else (s.peek w (recWord r 8).toNat (16 * recNpin r)).map pairsOf
def State.namedCores (s : State) (w : Who) (r : List Word) : Except Stop (List Nat) :=
  if recClass r = 3 then s.peekList w (recWord r 7).toNat 2 else .ok []
def State.windowTable (s : State) (w : Who) (r : List Word) : Except Stop (List (Nat × Nat)) :=
  if recWord r 9 = 0 then .ok [] else (s.peek w (recWord r 9).toNat 64).map pairsOf
def State.memberList (s : State) (w : Who) (r : List Word) : Except Stop (List Nat) :=
  if recGang r = 0 then .ok [] else s.peekList w (recWord r 15).toNat 4

/-! ### Checks (R372) -/

/-- What the checks find: all pass, a rejection with its code and PC, or a read that has to wait, of an address that a UALink holds. -/
inductive Verdict where
  | ok
  | reject (code pc : Nat)
  | wait (held : Option Nat)
deriving DecidableEq, Repr

/-- The next check where this one passes. -/
def Verdict.and (v w : Verdict) : Verdict :=
  match v with
  | .ok => w
  | x => x

/-- A read that a UALink has held for 2 ms is refused (R405, DESIGN CHOICE, log 31). -/
def Verdict.late (v : Verdict) (since : Option Nat) (now : Nat) : Verdict :=
  match v with
  | .wait (some va) => if overdue since now then .reject 8 va else v
  | _ => v

/-- Since when a UALink has held the access that stopped something. -/
def heldSince (held : Bool) (since : Option Nat) (now : Nat) : Option Nat := if held then since.orElse fun _ => some now else none
def Verdict.since (v : Verdict) (since : Option Nat) (now : Nat) : Option Nat :=
  match v with
  | .wait x => heldSince x.isSome since now
  | _ => none

/-- A condition that rejects. -/
def rejectIf (code : Nat) (b : Bool) : Verdict := if b then .reject code 0 else .ok

/-- A check of an item that has to be read; a refused read rejects with code 8. -/
def checkRead {α : Type} (r : Except Stop α) (f : α → Verdict) : Verdict :=
  match r with
  | .ok x => f x
  | .error (.refuse _ va _ _) => .reject 8 va
  | .error (.link (.ualink _) va) => .wait (some va)
  | .error _ => .wait none

/-- Lines of pin ranges. -/
def pinLines (pins : List (Nat × Nat)) : List Nat := (pins.map fun p => linesOf p.1 p.2).flatten

/-- The slice that holds a pinned line of an address space: for a near page, that of the front end's die (R289, R291). -/
def State.pinSlice (s : State) (asid line : Nat) : Nat :=
  let a := 64 * line
  match s.translate (nearSlice 0 a) asid a with
  | .ok l => if l.near then nearSlice 0 a else farSlice a
  | .error _ => farSlice a

/-- No slice would hold more than 1 MiB of pinned lines (R291, R372), of pin sets with their address spaces. -/
def State.pinsFit (s : State) (sets : List (Nat × List (Nat × Nat))) : Bool :=
  let bytes := (sets.map fun e => (e.2.map fun p => p.2).sum).sum
  let homes := (sets.map fun e => (pinLines e.2).map (s.pinSlice e.1)).flatten
  decide (bytes ≤ 640 * 2 ^ 20) && (List.range 640).all fun n => decide ((homes.filter (· == n)).length ≤ 16384)

/-- Order 3: code 1. -/
def recordMalformed (r : List Word) : Bool :=
  let h := (recWord r 0).toNat
  (recWord r 1).toNat / 2 ^ 26 != 0 || h % 4 != 0 || decide (2 ^ 56 ≤ h) || recordDiv r == 3 ||
    (recGang r != 0 && recWord r 15 == 0)

/-- Order 5: code 3. -/
def State.checkPins (s : State) (w : Who) (q : Nat) (r : List Word) : Verdict :=
  let others := (s.queues.filter fun e => e.1 != q).map fun e => (e.2.pinAsid, e.2.pins)
  let image := match s.wsImage with
    | some im => im.asid == w.asid && im.banks == recWsb r
    | none => false
  (rejectIf 3 (decide (8 < recWsb r) || decide (8 < recNpin r))).and
    ((checkRead (s.pinList w r) fun pins =>
        rejectIf 3 (pins.any (fun p => p.1 % 64 != 0 || p.2 % 64 != 0) || !s.pinsFit ((w.asid, pins) :: others))).and
      (rejectIf 3 (recWsb r != 0 && !image)))

/-- Order 6: code 4. -/
def State.checkHoist (s : State) (w : Who) (r : List Word) : Verdict :=
  let h := (recHoist r).toNat
  if h = 0 || h % 64 != 0 then .reject 4 0
  else checkRead (s.peek w h 64) fun bs => rejectIf 4 ((bs.getD 20 0).getLsbD 0)

/-- Order 7: code 5. -/
def State.checkCores (s : State) (w : Who) (r : List Word) : Verdict :=
  if recClass r != 3 then .ok
  else checkRead (s.namedCores w r) fun cs => rejectIf 5 (cs.isEmpty || !cs.all s.launchCore)

/-- Order 8: code 6. -/
def State.checkWindows (s : State) (w : Who) (r : List Word) : Verdict :=
  (checkRead (s.windowTable w r) fun ws => rejectIf 6 (ws.any fun x => decide (4096 < x.2))).and
    (if recGang r = 0 then .ok
      else checkRead (s.memberList w r) fun ms =>
        rejectIf 6 (ms.isEmpty || decide (1024 < ms.length) || ms.any fun m => decide (524287 < m)))

/-- Orders 5 to 8, made at fetch and again at acceptance. -/
def State.checkLate (s : State) (w : Who) (q : Nat) (r : List Word) : Verdict :=
  (s.checkPins w q r).and ((s.checkHoist w r).and ((s.checkCores w r).and (s.checkWindows w r)))

/-- Orders 1 and 2: the address space, and the record itself. -/
def State.readRecord (s : State) (q va : Nat) : Except Verdict (List Word) :=
  let asid := s.queueAsid q
  if asid = 0 || s.spaceInvalid asid then .error (.reject 7 0)
  else
    match s.peek (frontWho asid) va 128 with
    | .ok bs => .ok ((itemsOf 8 bs).map (BitVec.ofNat 64))
    | .error (.refuse _ a _ _) => .error (.reject 8 a)
    | .error (.link (.ualink _) a) => .error (.wait (some a))
    | .error _ => .error (.wait none)

/-- Every check of a record that has been read. -/
def State.checkRecord (s : State) (q : Nat) (r : List Word) : Verdict :=
  (rejectIf 1 (recordMalformed r)).and
    ((rejectIf 2 (recordSpad r % 16 != 0 || decide (304 < recordSpad r))).and
      (s.checkLate (frontWho (s.queueAsid q)) q r))

/-- The record, and what the checks say of it. -/
def State.launchVerdict (s : State) (q va : Nat) : Verdict × List Word :=
  match s.readRecord q va with
  | .error v => (v, [])
  | .ok r => (s.checkRecord q r, r)

/-- The ranges the front end reads for a launch, those it cannot size left out (R371). -/
def State.recordRanges (s : State) (w : Who) (va : Nat) (r : List Word) : List (Nat × Nat) :=
  let list := fun (i size : Nat) => match s.peek w (recWord r i).toNat 8 with
    | .ok bs => [((recWord r i).toNat, 8 + size * leNat bs)]
    | .error _ => []
  (va, 128) :: (if recHoist r = 0 then [] else [((recHoist r).toNat, 64)]) ++
    (if recNpin r = 0 then [] else [((recWord r 8).toNat, 16 * recNpin r)]) ++
    (if recClass r = 3 then list 7 2 else []) ++ (if recWord r 9 = 0 then [] else [((recWord r 9).toNat, 64)]) ++
    (if recGang r = 0 then [] else list 15 4) ++ (if recWord r 10 = 0 then [] else [((recWord r 10).toNat, 8)])

/-- Ranges have been read: what reads leave at the slices (R290, R328). -/
def State.touch (s : State) (w : Who) (ranges : List (Nat × Nat)) : State :=
  (ranges.map fun x => linePieces x.1 x.2).flatten.foldl (fun s p =>
    match s.load w 4 p.1 p.2 with
    | .ok (_, s) => s
    | .error _ => s) s

/-- The contents of the windows, as acceptance reads them (R372). -/
def State.windowRanges (s : State) (w : Who) (r : List Word) : List (Nat × Nat) :=
  match s.windowTable w r with
  | .ok ws => ws.filter fun x => decide (x.2 ≤ 4096)
  | .error _ => []

/-- A record has been read and checked, and what it names, as far as it can be read; in an invalid address space nothing is read. -/
def State.touchRecord (s : State) (q va : Nat) (r : List Word) : State :=
  let w := frontWho (s.queueAsid q)
  if w.asid = 0 || s.spaceInvalid w.asid then s else s.touch w (s.recordRanges w va r)

/-- The record of a rejection (R369). -/
def State.rejectLaunch (s : State) (q va code pc : Nat) : State :=
  s.postRecord q (Record.event (s.queueAsid q) 6 (BitVec.ofNat 64 pc) (BitVec.ofNat 64 code) (BitVec.ofNat 64 va))

/-! ### Dispatch (R368, R372) -/

/-- A launch of a queue that its present command waits for: a first attempt not yet accepted. -/
def State.pendingLaunch (s : State) (q : Nat) : Bool :=
  s.launches.any fun l => l.2.queue == q && l.2.attempt == 0 && (l.2.phase == .waitingDep || l.2.phase == .accepting)

/-- A dependence counter reads 0; one that cannot be read holds the launch back (DESIGN CHOICE, log 22). -/
def State.depZero (s : State) (asid : Nat) (dep : Word) : Bool :=
  match s.peek (frontWho asid) dep.toNat 8 with
  | .ok bs => leNat bs == 0
  | .error _ => false

/-- A launch before acceptance. -/
def newLaunch (q asid va : Nat) (r : List Word) (phase : Phase) (attempt now : Nat) : Launch :=
  { queue := q, asid := asid, va := va, record := r, phase := phase, set := [], snap := [], windows := [], members := [],
    starts := [], outstanding := [], armed := false, since := none, exports := [], overflow := false, attempt := attempt, noticed := false, order := 0,
    waitingSince := now, service := 0 }

/-- A launch whose checks passed waits for its counter, on which the queue parks, or for acceptance. -/
def State.admitLaunch (s : State) (id q va : Nat) (r : List Word) (attempt : Nat) : State :=
  let dep := recWord r 10
  let asid := s.queueAsid q
  let waits := dep != 0 && !s.depZero asid dep
  let l := newLaunch q asid va r (if waits then .waitingDep else .accepting) attempt s.stime
  let s := { s with launches := s.launches.set id l }
  if waits then (s.watch (counterKey id) asid dep.toNat .eq 0).parkQueue q (.counter dep.toNat id) else s

/-- CMD_LAUNCH (R372): the checks; the entry counts as dispatched once its launch is accepted or rejected. A queue whose EN has been
cleared dispatches no launch (R444, DESIGN CHOICE, log 57). -/
def execCmdLaunch (q : Nat) (s : State) : Out :=
  match s.commandIs q 1 with
  | none => .next s
  | some c =>
    if s.pendingLaunch q || !s.queueEn q then .next s
    else
      let va := cmdWord c 1
      let x := s.queue q
      let v := s.launchVerdict q va
      match v.1.late x.since s.stime with
      | .reject code pc => .next (((s.touchRecord q va v.2).rejectLaunch q va code pc).dispatched q)
      | .wait _ => .next (s.setQueue q { x with since := v.1.since x.since s.stime })
      | .ok =>
        let s := s.setQueue q { x with since := none }
        .next (({ s with nextId := s.nextId + 1 }.touchRecord q va v.2).admitLaunch s.nextId q va v.2 0)

/-- The condition of a launch. -/
def ParkedOn.counterOf (id : Nat) (p : ParkedOn) : Bool :=
  match p with
  | .signal .. => false
  | .counter _ n => n == id

/-- DEP_RELEASE (R372, R373): a launch of the queue whose counter reads 0, or has read 0 after a write since the queue was parked on it,
goes on, and the queue is mapped again. -/
def execDepRelease (q : Nat) (s : State) : Out :=
  let ready := fun (e : Nat × Launch) =>
    e.2.queue == q && e.2.phase == .waitingDep && (s.watchMet (counterKey e.1) || s.depZero e.2.asid (recWord e.2.record 10))
  match s.launches.find? ready with
  | none => .next s
  | some (id, l) =>
    let s := { s with launches := s.launches.set id { l with phase := .accepting, waitingSince := s.stime } }.unwatch (counterKey id)
    .next (if (s.queue q).parked.any (ParkedOn.counterOf id) then s.unpark q (ParkedOn.counterOf id) else s)

/-! ### The launch set and the division of work (R382, R384, R385) -/

/-- Distinct members of a list in ascending order below a bound. -/
def ascending (bound : Nat) (xs : List Nat) : List Nat := (List.range bound).filter xs.contains

/-- The launch set: none while the list of a NAMED launch cannot be read, or names a core being measured (R382). -/
def State.launchSet (s : State) (w : Who) (r : List Word) : Option (List Nat) :=
  let free := fun (c : Nat) => s.launchCore c && !(s.core c).health.measuring
  let all := (List.range 5120).filter free
  let cls := fun (f : CurveRecord → Bool) =>
    let cs := all.filter fun c => f (s.core c).health.curve
    if cs.isEmpty then all else cs
  match recClass r with
  | 0 => some all
  | 1 => some (cls (·.fast))
  | 2 => some (cls (·.frugal))
  | _ =>
    match s.namedCores w r with
    | .ok cs =>
      let cs := (ascending 5120 cs)
      if cs.all free then some cs else none
    | .error _ => none

/-- Apportion(T, W) (R384). -/
def apportion (t : Nat) (ws : List Nat) : List Nat :=
  let sum := ws.sum
  if sum = 0 then ws.map fun _ => 0
  else
    let f := fun (i : Nat) => t * ws.getD i 0 % sum
    let left := t - (ws.map fun w => t * w / sum).sum
    let before := fun (j i : Nat) =>
      decide (f i < f j) || (f j == f i && (decide (ws.getD i 0 < ws.getD j 0) || (ws.getD j 0 == ws.getD i 0 && decide (j < i))))
    (List.range ws.length).map fun i =>
      let rank := ((List.range ws.length).filter fun j => before j i).length
      t * ws.getD i 0 / sum + (if rank < left then 1 else 0)

/-- The tasks of a launch with GRAN = 0 (R384, R385). -/
def plainStarts (count div : Nat) (set snap : List Nat) (va : Word) : List Start :=
  let k := set.length
  let args := fun (j : Nat) => #v[BitVec.ofNat 64 j, BitVec.ofNat 64 count, 0, va]
  if k = 0 then []
  else if div = 1 then
    let cores := ((set.zip (apportion count snap)).map fun e => List.replicate e.2 e.1).flatten
    (cores.zip (List.range cores.length)).map fun e => { number := e.2, core := e.1, args := args e.2 }
  else
    (List.range count).map fun j =>
      let at_ := if div = 2 then (mix64 (launchPath j)).toNat % k else j % k
      { number := j, core := set.getD at_ 0, args := args j }

/-- The first unit of each core's range. -/
def prefixSums (n : Nat) : List Nat → List Nat
  | [] => []
  | x :: xs => n :: prefixSums (n + x) xs

/-- The tasks of a divided element range (R384, R385). -/
def rangeStarts (n g div : Nat) (set snap : List Nat) (va : Word) : List Start :=
  let shares := apportion ((n + g - 1) / g) (if div = 1 then snap else set.map fun _ => 1)
  let parts := ((set.zip (shares.zip (prefixSums 0 shares))).filter fun e => e.2.1 != 0)
  (parts.zip (List.range parts.length)).map fun e =>
    let first := e.1.2.2
    let args := #v[BitVec.ofNat 64 (first * g), BitVec.ofNat 64 (min ((first + e.1.2.1) * g) n), BitVec.ofNat 64 first, va]
    { number := e.2, core := e.1.1, args := args }

/-- The tasks of a launch. -/
def startsOf (r : List Word) (set snap : List Nat) (va : Word) : List Start :=
  if recGran r = 0 then plainStarts (recCount r) (recordDiv r) set snap va
  else rangeStarts (recCount r) (recGran r) (recordDiv r) set snap va

/-! ### Partitions (R374, R375) -/

/-- The granules of a core that a predicate names, in ascending order. -/
def Core.granulesWhere (c : Core) (p : Granule → Bool) : List Nat :=
  (List.range 20).filter fun g => match c.granules[g]? with
    | some x => p x
    | none => false

/-- A partition kept for a name and an address space. -/
def keptFor (name : Word) (asid : Nat) (g : Granule) : Bool :=
  match g with
  | .retained n a _ _ => name != 0 && n == name && a == asid
  | _ => false

/-- Granules handed to an owner. -/
def Core.giveGranules (c : Core) (gs : List Nat) (owner : Granule) : Core :=
  { c with granules := (List.range 20).map fun g => if gs.contains g then owner else c.granules.getD g .l1 }

/-- Granules of a core zeroed (R288), every line of them whole, which leaves none poisoned (R443). -/
def State.zeroGranules (s : State) (core : Nat) (gs : List Nat) : State :=
  let inside := fun (a : Nat) => a / 327680 == core && gs.contains (a % 327680 / 16384)
  { s with
    spad := s.spad.filter fun e => !inside e.1
    poison := s.poison.filter fun n => n < spadLine 0 || !inside (64 * (n - spadLine 0)) }

/-- A core grants n granules to a launch: a kept partition of that size with its contents, or the highest-numbered ones
of L1, zeroed, while L1 keeps one (R374, R375). -/
def State.grant (s : State) (core id n : Nat) (name : Word) (asid : Nat) : Option State :=
  let c := s.core core
  let kept := c.granulesWhere (keptFor name asid)
  if n != 0 && kept.length == n then some (s.setCore core (c.giveGranules kept (.launch id)))
  else
    let c := c.giveGranules kept .l1
    let l1 := c.granulesWhere (· == .l1)
    if n = 0 then some (s.setCore core c)
    else if l1.length ≤ n then none
    else
      let mine := l1.drop (l1.length - n)
      some ((s.setCore core (c.giveGranules mine (.launch id))).zeroGranules core mine)

/-- Every core of a set grants. -/
def State.grantAll (s : State) (id n : Nat) (name : Word) (asid : Nat) : List Nat → Option State
  | [] => some s
  | c :: cs => (s.grant c id n name asid).bind fun s => s.grantAll id n name asid cs

/-- The granules a launch holds return to L1 (R374). -/
def State.freePartitions (s : State) (id : Nat) : State :=
  { s with cores := s.cores.map fun e => (e.1, e.2.giveGranules (e.2.granulesWhere (· == .launch id)) .l1) }

/-! ### Starts (R263, R386) -/

/-- The start message of a launch task (R247, R385). -/
def startMsg (id : Nat) (l : Launch) (x : Start) : Msg :=
  { id := 0, dst := .core x.core, hdr := (if recBanks l.record then 0x8000000000000000 else 0) ||| recWord l.record 0,
    args := x.args, s5 := queueDescriptor l.queue, weight := grantSize, hoist := recHoist l.record,
    ident := { tid := 0, path := launchPath x.number, asid := l.asid, queue := l.queue, launch := some id,
               coreSet := .named l.set, parent := none },
    views := [], sender := none, senderPath := emptyPath, launchStart := true, arrived := 0 }

/-- One start: minted and sent, or, where the mint is refused, a KIND 7 record and no task (R263); so it is with POISON where a UALink has kept
the record for 2 ms (R405, DESIGN CHOICE, log 31). -/
def State.sendStart (s : State) (id : Nat) (l : Launch) (x : Start) : State × Launch :=
  let hoist := recHoist l.record
  if s.recordBusy 0 l.asid hoist then (s.mintRefused l.queue hoist POISON, l)
  else
    let r := s.mint l.asid hoist
    if r.2 then (r.1.depart (startMsg id l x), { l with outstanding := l.outstanding.set x.core (l.outstanding.getD x.core 0 + 1) })
    else (r.1.mintRefused l.queue hoist PENNANT, l)

/-- A start may be sent to its record: the record may be stepped, or a UALink has kept it too long. -/
def State.mayMint (s : State) (l : Launch) : Bool :=
  let hoist := recHoist l.record
  !s.recordBusy 0 l.asid hoist || (s.recordLinked 0 l.asid hoist && overdue l.since s.stime)

/-- Send every start whose core has fewer than 64 outstanding, in order; the others stay (R386), and so do all while the record may not
be stepped (R320), for 2 ms where a UALink keeps it (R405). -/
def State.sendStarts (s : State) (id : Nat) (l : Launch) : List Start → State × Launch
  | [] => (s, { l with starts := [] })
  | x :: xs =>
    if l.outstanding.getD x.core 0 < 64 && s.mayMint l then
      let r := s.sendStart id l x
      r.1.sendStarts id r.2 xs
    else
      let r := s.sendStarts id l xs
      (r.1, { r.2 with starts := x :: r.2.starts })

/-- The last step of acceptance: WAITER, and a record that holds nothing closes at once (R372). It waits for a record that may not be
stepped. -/
def State.setWaiter (s : State) (l : Launch) : State × Launch :=
  match s.recordPa 0 l.asid (recHoist l.record) with
  | none => (s, l)
  | some pa =>
    let out := s.recOutstanding pa
    let status := statusByte (s.recOpen pa && out != 0) (s.recNeg pa)
    ((s.noteRecord frontOrigin l.asid (recHoist l.record)).setRecord pa out (s.recMinted pa) (s.recKilled pa) status
      (queueDescriptor l.queue).toNat, { l with armed := true })

/-- Send what may be sent; WAITER is written once, when every start has been. -/
def State.pushStarts (s : State) (id : Nat) (l : Launch) : State :=
  let r := s.sendStarts id l l.starts
  let x := if r.2.starts.isEmpty && !r.2.armed then r.1.setWaiter r.2 else r
  let held := !x.2.starts.isEmpty && x.1.recordLinked 0 l.asid (recHoist l.record)
  { x.1 with launches := x.1.launches.set id { x.2 with since := heldSince held x.2.since x.1.stime } }

/-- A running launch goes on with what had to wait. -/
def State.settleLaunch (s : State) (id : Nat) : State :=
  match s.launches.get? id with
  | some l => if l.phase == .running && !l.armed then s.pushStarts id l else s
  | none => s
def State.settleLaunches (s : State) : State := (Tab.keys s.launches).foldl State.settleLaunch s

/-- Start messages of a launch to a core that have not started a task. -/
def State.startsWaiting (s : State) (id core : Nat) : Nat :=
  (s.messages.filter fun m => m.launchStart && m.ident.launch == some id && m.dst == .core core).length

/-- LAUNCH_START_REPORT (R386): one of the started tasks has been reported. -/
def execLaunchStartReport (launch core : Nat) (s : State) : Out :=
  match s.launches.get? launch with
  | none => .next s
  | some l =>
    let n := l.outstanding.getD core 0
    if l.phase != .running || n ≤ s.startsWaiting launch core then .next s
    else
      let l := { l with outstanding := l.outstanding.set core (n - 1) }
      if l.starts.isEmpty then .next { s with launches := s.launches.set launch l } else .next (s.pushStarts launch l)

/-! ### Acceptance (R372, R281, R376) -/

/-- The region table of an address space as memory holds it (R281); an entry that cannot be read is not valid, and where the descriptor
cannot be read there is no table (R434, DESIGN CHOICE, log 54). -/
def State.readRegions (s : State) (asid : Nat) : List Region :=
  let base := (s.readDesc asid).regions
  if base = 0 || s.poisonedAt (s.descPa asid) then []
  else
    (List.range 256).filterMap fun i =>
      let a := s.localPa (base + 32 * i)
      let f := s.readPa (a + 24) 8
      if bitAt f 0 && !s.poisonedAt a then
        some { index := i, base := s.readPa a 8, len := s.readPa (a + 8) 8, writer := s.word (a + 16), engine := bitAt f 1,
               prefixLen := bitsAt f 14 8 }
      else none

/-- The contents of each window (R372). -/
def State.windowBytes (s : State) (w : Who) : List (Nat × Nat) → Except Stop (List (List Byte))
  | [] => .ok []
  | x :: xs =>
    match s.peek w x.1 x.2, s.windowBytes w xs with
    | .ok b, .ok bs => .ok (b :: bs)
    | .error z, _ => .error z
    | _, .error z => .error z

/-- Every window of a record copied. -/
def State.copyWindows (s : State) (w : Who) (r : List Word) : Except Stop (List (List Byte)) :=
  match s.windowTable w r with
  | .ok ws => s.windowBytes w ws
  | .error z => .error z

/-- A WSLOAD that waits keeps launches that use the weight store out (R293). -/
def State.weightBlocked (s : State) (r : List Word) : Bool :=
  recWsb r != 0 && s.queues.any fun e => e.2.command.elim false fun c => cmdOp c == 5

/-- The entry of a launch's queue counts as dispatched; a replay has no entry (R444). -/
def State.launchDispatched (s : State) (l : Launch) : State := if l.attempt = 0 then s.dispatched l.queue else s

/-- The launch is gone, rejected at acceptance; partitions granted to it return to L1 (R372). -/
def State.dropRejected (s : State) (id : Nat) (l : Launch) (code pc : Nat) : State :=
  let w := frontWho l.asid
  let s := ((s.touchRecord l.queue l.va l.record).touch w (s.windowRanges w l.record)).freePartitions id
  ({ s with launches := s.launches.erase id }.rejectLaunch l.queue l.va code pc).launchDispatched l

/-- The pin list of a launch replaces that of its queue: the lines are loaded into their home slices and kept there (R376); those of another
device no slice holds (R405). -/
def State.applyPins (s : State) (w : Who) (q : Nat) (pins : List (Nat × Nat)) : State :=
  let held := fun (l : Nat) => (s.lineKey w (64 * l)).filter fun k => (linkOf (64 * k)).isNone
  (s.setQueue q { s.queue q with pins := pins, pinAsid := w.asid, pinned := (pinLines pins).filterMap held }).touch w pins

/-- The values read at acceptance, with an empty list where there was none to read. -/
def readOr {α : Type} (r : Except Stop (List α)) : List α :=
  match r with
  | .ok xs => xs
  | .error _ => []

/-- The launch runs: snapshot, windows, members, pins, regions, hoist, and the first starts. -/
def State.accept (s : State) (id : Nat) (l : Launch) (set : List Nat) (windows : List (List Byte)) : State :=
  let r := l.record
  let w := frontWho l.asid
  let snap := set.map fun c => (s.core c).health.speed
  let s := (s.touchRecord l.queue l.va r).touch w (s.windowRanges w r)
  let s := if recNpin r = 0 then s else s.applyPins w l.queue (readOr (s.pinList w r))
  let s := match s.recordPa 0 l.asid (recHoist r) with
    | some pa => (s.noteRecord frontOrigin l.asid (recHoist r)).setRecord pa 0 0 0 (statusByte true false) 0
    | none => s
  let l := { l with
    phase := .running, set := set, snap := snap, windows := windows, members := readOr (s.memberList w r),
    order := s.nextId, starts := startsOf r set snap (BitVec.ofNat 64 l.va) }
  let s := { s with nextId := s.nextId + 1, regions := s.regions.set l.asid (s.readRegions l.asid) }
  (s.pushStarts id l).launchDispatched l

/-- What acceptance makes of the checks: a rejection, with the partitions that have been granted, a wait, without them, or the launch
runs. -/
def State.judge (s granted : State) (id : Nat) (l : Launch) (v : Verdict) (go : State) : Out :=
  match v.late l.since s.stime with
  | .reject code pc => .next (granted.dropRejected id l code pc)
  | .wait _ => .next { s with launches := s.launches.set id { l with since := v.since l.since s.stime } }
  | .ok => .next go

/-- LAUNCH_ACCEPTANCE (R372): it waits for the cores of its set, the weight store, every partition and its record; the checks of orders
5 to 8 are made again. -/
def execLaunchAcceptance (launch : Nat) (s : State) : Out :=
  match s.launches.get? launch with
  | none => .next s
  | some l =>
    if l.phase != .accepting || s.weightBlocked l.record || !s.queueEn l.queue || s.recordBusy 0 l.asid (recHoist l.record) then .next s
    else
      let w := frontWho l.asid
      let v := s.checkLate w l.queue l.record
      match s.launchSet w l.record with
      | none => s.judge s launch l v s
      | some set =>
        match s.grantAll launch (recordSpad l.record / 16) (recRetain l.record) l.asid set with
        | none => .next s
        | some granted =>
          s.judge granted launch l (v.and (checkRead (s.copyWindows w l.record) fun _ => .ok))
            (granted.accept launch { l with since := none } set (readOr (s.copyWindows w l.record)))

/-! ### Completion (R373, R375) -/

/-- A partition that no launch claimed is freed as a launch of its queue completes that was accepted after the one that kept it
(R375). -/
def State.freeUnclaimed (s : State) (q order : Nat) : State :=
  let old := fun (g : Granule) => match g with
    | .retained _ _ p o => p == q && decide (o < order)
    | _ => false
  { s with cores := s.cores.map fun e => (e.1, e.2.giveGranules (e.2.granulesWhere old) .l1) }

/-- The partition of a completed launch on a core: kept where a task of the launch has set a retain name there, freed otherwise; the name is used
up (R221, R375, DESIGN CHOICE, log 94). -/
def Core.keepPartition (c : Core) (id : Nat) (l : Launch) : Core :=
  let mine := c.granulesWhere (· == .launch id)
  let name := c.retain.getD id 0
  { c.giveGranules mine (if name = 0 then .l1 else .retained name l.asid l.queue l.order) with retain := c.retain.erase id }

/-- The partitions of a completed launch. -/
def State.keepPartitions (s : State) (id : Nat) (l : Launch) : State :=
  { s with cores := s.cores.map fun e => (e.1, e.2.keepPartition id l) }

/-- An access of completion: one that is refused is dropped (DESIGN CHOICE, log 22), or that a UALink has held for 2 ms (log 31); and one
that has to wait holds the completion back. -/
def State.orSame (s : State) (late : Bool) (r : Except Stop State) : Except Stop State :=
  match r with
  | .ok t => .ok t
  | .error (.refuse ..) => .ok s
  | .error (.link (.ualink k) va) => if late then .ok s else .error (.link (.ualink k) va)
  | .error z => .error z

/-- The steps of R373, in order; the record has no waiter any more (DEDUCED, log 28). -/
def State.completeLaunch (s : State) (id : Nat) (l : Launch) (pa : Nat) : Except Stop State :=
  let r := l.record
  let late := overdue l.since s.stime
  let s := (s.noteRecord frontOrigin l.asid (recHoist r)).deviceWrite (pa + 24) 8 0
  let s := (s.freeUnclaimed l.queue l.order).keepPartitions id l
  match (if recWord r 12 = 0 then .ok s else s.orSame late (s.frontSigAdd l.queue l.asid (recWord r 12) (recWord r 13))) with
  | .error z => .error z
  | .ok s =>
    match (if recWord r 11 = 0 then .ok s else s.orSame late (s.frontDec l.queue l.asid (recWord r 11))) with
    | .error z => .error z
    | .ok s => .ok ({ s with launches := s.launches.erase id }.queueEvent l.queue)

/-- LAUNCH_COMPLETION (R373): the hoist record has closed. -/
def execLaunchCompletion (launch : Nat) (s : State) : Out :=
  match s.launches.get? launch with
  | none => .next s
  | some l =>
    match s.recordPa 0 l.asid (recHoist l.record) with
    | none => .next s
    | some pa =>
      if l.phase != .running || !l.starts.isEmpty || !l.armed || s.recOpen pa then .next s
      else
        match s.completeLaunch launch l pa with
        | .ok s => .next s
        | .error (.link (.ualink _) _) =>
          .next { s with launches := s.launches.set launch { l with since := heldSince true l.since s.stime } }
        | .error z => .next (s.heldAt z)

/-- A launch that has waited 1 ms at acceptance needs granules of a core that it cannot have (R375). -/
def State.lacksGranules (s : State) (core id : Nat) (l : Launch) : Bool :=
  l.phase == .accepting && decide (l.waitingSince + 1000000 ≤ s.stime) &&
    ((s.launchSet (frontWho l.asid) l.record).any fun set => set.contains core) &&
    (s.grant core id (recordSpad l.record / 16) (recRetain l.record) l.asid).isNone

/-- RETAINED_PARTITION_RECLAIM (R375). -/
def execRetainedPartitionReclaim (core : Nat) (s : State) : Out :=
  let kept := fun (g : Granule) => match g with
    | .retained .. => true
    | _ => false
  if s.launches.any fun l => s.lacksGranules core l.1 l.2 then
    let c := s.core core
    .next (s.setCore core (c.giveGranules (c.granulesWhere kept) .l1))
  else .next s

/-! ### Aborts (R444 to R446) -/

/-- The tasks of a launch, started or saved. -/
def State.launchTasks (s : State) (id : Nat) : List Task :=
  (s.ctxs.vals ++ s.saved.vals.map fun r => r.task).filter fun t => t.ident.launch == some id

/-- Kill the tasks of a launch that have drained and that a kill does not leave alone (R223); those of a core that is powered down end
whatever they were doing (R433). -/
def State.killLaunch (s : State) (id : Nat) : State :=
  let ends := fun (t : Task) => s.stranded t.ident.tid || (s.stopped? t.ident.tid t && !s.unkillable t)
  ((s.launchTasks id).filter ends).foldl (fun s t => s.killTask t.ident.tid) s

/-- Copy requests of a launch are dropped and their units return (R444). -/
def State.dropCopies (s : State) (id : Nat) : State :=
  let mine := fun (q : CopyReq) => q.ident.launch == some id
  let all := ((s.cores.map fun c => c.2.fifo).flatten ++ (s.clusters.map fun c => c.2.engine.active).flatten).filter mine
  let s := { s with
    cores := s.cores.map fun c => (c.1, { c.2 with fifo := c.2.fifo.filter fun q => !mine q })
    clusters := s.clusters.map fun c =>
      (c.1, { c.2 with engine := { c.2.engine with active := c.2.engine.active.filter fun q => !mine q } }) }
  all.foldl (fun s q => (q.stuck.elim s s.dropEngineMonitor).sendReturn (engineOrigin (coreCluster q.core)) q.ident.asid q.hoist 1 false) s

/-- Messages of a launch, those of its performed notifying atomics too, are discarded and their weight returns (R444); entries of spill rings move into the places left (R249), and
a context that waited for its message to be accepted goes on. -/
def State.dropMessages (s : State) (id : Nat) : State :=
  let mine := fun (m : Msg) => m.ident.launch == some id
  let all := (s.messages ++ s.notes.vals).filter mine
  let keep := fun (ms : List Msg) => ms.filter fun m => !mine m
  let s := { s with
    fabric := s.fabric.filter fun e => !mine e.2
    stops := keep s.stops
    notes := s.notes.filter fun e => !mine e.2
    cores := s.cores.map fun c => (c.1, { c.2 with mailbox := keep c.2.mailbox, spill := keep c.2.spill }.drain) }
  all.foldl (fun s m => (s.accepted m).sendReturn frontOrigin m.ident.asid m.hoist m.weight false) s

/-- The scale-out number of this device (R406). -/
def State.deviceNumber (s : State) : Nat := s.cfg.domn * 1024 + s.cfg.ualn

/-- The KIND 12 records of a launch's exports (R446). -/
def State.postExports (s : State) (l : Launch) : State :=
  if l.overflow then s.postRecord l.queue (Record.event l.asid 12 0 (BitVec.allOnes 64) 0)
  else
    l.exports.foldl (fun s e =>
      s.postRecord l.queue (Record.event l.asid 12 (BitVec.ofNat 64 (e.target * 2 ^ 62 + e.device % 2 ^ 19))
        (BitVec.ofNat 64 e.len) (BitVec.ofNat 64 e.start))) s

/-- Abort notices to every other member of the gang, over UALink inside this device's domain (R445). -/
def State.sendNotices (s : State) (l : Launch) : State :=
  if recGang l.record = 0 || l.noticed then s
  else
    let note := fun (m : Nat) =>
      ({ gang := recGang l.record, sender := s.deviceNumber, member := m, ualink := m / 1024 == s.cfg.domn } : Notice)
    { s with notices := s.notices ++ (l.members.filter (· != s.deviceNumber)).map note }

/-- Partitions of an aborted launch, retained ones included, and its chains are discarded (R444). -/
def State.discardLaunch (s : State) (id : Nat) (l : Launch) : State :=
  let kept := fun (g : Granule) => g == .launch id || keptFor (recRetain l.record) l.asid g
  { s with
    cores := s.cores.map fun e =>
      (e.1, { e.2.giveGranules (e.2.granulesWhere kept) .l1 with retain := e.2.retain.erase id })
    chains := s.chains.filter fun c => c.2.launch != some id }

/-- The end of an abort: the record closes, the exports and the KIND 13 record are posted, notices go out, and the launch is
dispatched again, for which its record and what it names are read again (R372), or ends with its queue's EN cleared. -/
def State.endAbort (s : State) (id : Nat) (l : Launch) (pa : Nat) : State :=
  let s := (s.noteRecord frontOrigin l.asid (recHoist l.record)).setRecord pa 0 (s.recMinted pa) (s.recKilled pa) (statusByte false (s.recNeg pa)) 0
  let s := (s.discardLaunch id l).postExports l
  let again := l.attempt == 0
  let s := s.postRecord l.queue (Record.event l.asid 13 0 (if again then 1 else 2) (BitVec.ofNat 64 l.va))
  let s := { s.sendNotices l with launches := s.launches.erase id }
  if !again then s.clearEn l.queue
  else
    match s.launchVerdict l.queue l.va with
    | (.reject code pc, r) => (s.touchRecord l.queue l.va r).rejectLaunch l.queue l.va code pc
    | (.wait _, []) => s.admitLaunch id l.queue l.va l.record 1
    | (_, r) => (s.touchRecord l.queue l.va r).admitLaunch id l.queue l.va r 1

/-- A borrow, or a return, which may be of a kill and of no weight, is on its way to the record of a launch, or a notifying atomic of it is still
to be performed: a replay would find it there. -/
def State.stepsComing (s : State) (id : Nat) (l : Launch) : Bool :=
  (s.asks.any fun a => a.2.ident.launch == some id) ||
  (s.borrows.any fun b => b.2.asid == l.asid && b.2.hoist == recHoist l.record && b.2.answer.isNone) ||
    s.returns.any fun r => r.2.asid == l.asid && r.2.hoist == recHoist l.record

/-- LAUNCH_ABORT (R444): kills, drops and discards what there is; once nothing of the launch is left, no borrow or return of it is on its
way, and OUTSTANDING is 0 it ends. -/
def execLaunchAbort (launch : Nat) (s : State) : Out :=
  match s.launches.get? launch with
  | none => .next s
  | some l =>
    if l.phase != .aborting then .next s
    else
      let s := { s with launches := s.launches.set launch { l with starts := [] } }
      let s := ((s.killLaunch launch).dropCopies launch).dropMessages launch
      match s.recordPa 0 l.asid (recHoist l.record) with
      | none => .next s
      | some pa =>
        if (s.launchTasks launch).isEmpty && !s.stepsComing launch l && s.recOutstanding pa == 0 then .next (s.endAbort launch l pa) else .next s

/-- ABORT_NOTICE (R445): each running launch of the gang whose member list names the sender aborts. -/
def execAbortNotice (gang : Word) (sender : Nat) (s : State) : Out :=
  let hit := fun (l : Launch) => l.phase == .running && gang != 0 && recGang l.record == gang && l.members.contains sender
  let mark := fun (l : Launch) => if hit l then { l with phase := .aborting, noticed := true } else l
  .next { s with launches := s.launches.map fun e => (e.1, mark e.2) }

end Sys2Proof.Machine
end

