-- ==== Sys2Proof/Machine/System.lean ====
section
/-! DEFINITION. The system group (05 R147 to R153): control registers (02 R40 to R44 and the maps of the other
chapters), trap, brk, eret, yield and nop. -/

namespace Sys2Proof.Machine

/-! ### Values computed at a read -/

/-- The launch of a task. -/
def State.launchOf (s : State) (t : Task) : Option Launch :=
  match t.ident.launch with
  | some l => s.launches.get? l
  | none => none

/-- SPEED (R380). -/
def State.speedReg (s : State) (k : Nat) : Word :=
  BitVec.ofNat 64 (s.epoch % 2 ^ 32 * 2 ^ 32 + (s.core k).health.curve.su % 2 ^ 12)

/-- FRUGAL and FAST of a record: bits 1 and 0. -/
def CurveRecord.cls (r : CurveRecord) : Nat := 2 * r.frugal.toNat + r.fast.toNat

/-- SNAP (R381): 0 for a task of no launch. -/
def State.snapReg (s : State) (k : Nat) (t : Task) : Word :=
  match s.launchOf t with
  | some l =>
    let own := ((l.set.zip l.snap).find? fun e => e.1 == k).elim 0 fun e => e.2
    BitVec.ofNat 64 (l.snap.sum % 2 ^ 32 * 2 ^ 16 + own % 2 ^ 12)
  | none => 0

/-- WSB of a launch record (R371). -/
def recordWsb (r : List Word) : Nat := bitsAt (r.getD 1 0).toNat 21 18

/-- WSREF (R295). -/
def State.wsref (s : State) (t : Task) : Word :=
  let phase := s.stime % 32000
  let bank := phase / 2000
  let k := (s.launchOf t).elim 0 fun l => recordWsb l.record
  let isOpen := decide (phase % 2000 < 500) && decide (bank < 8)
  BitVec.ofNat 64 (phase * 2 ^ 32 + k * 2 ^ 16 + bank * 2 ^ 8 + isOpen.toNat)

/-- VBANK (R44). -/
def bankReg : Option Nat → Word
  | some b => BitVec.ofNat 64 (0x80 + b)
  | none => 0

/-- MODE (R42). -/
def modeReg (n : Nat) : Word := BitVec.ofNat 64 (n * 2 ^ 8 + (if n = 0 then 0 else 1))

/-- A signed number in a 16-bit field. -/
def field16 (x : Int) : Nat := (x % 65536).toNat

/-- STATE of a core (R424). -/
def State.coreStateField (s : State) (k : Nat) : Nat :=
  if (s.core k).health.retired then 2
  else if (s.core k).health.measuring then 1
  else if s.inColumn (coreCluster k) then 3
  else 0

/-- An hour and a day in ns. -/
def hour : Nat := 3600000000000
def day : Nat := 24 * hour

/-- Times of the last hour or day. -/
def recent (now span : Nat) (xs : List Nat) : List Nat := xs.filter fun x => decide (now < x + span)

/-- FLAGS (R426). -/
def Health.flags (h : Health) : Nat := h.nearFloor.toNat + 2 * h.canary.toNat + 4 * h.retest.toNat + 8 * h.cehigh.toNat

/-- The core and point that CURVE_SEL selects (R424). -/
def curveCore (sel : Word) : Nat := sel.toNat % 2 ^ 13
def curvePoint (sel : Word) : Nat := bitsAt sel.toNat 18 16

/-- MV of a point; a core that the configuration table retired was never measured and reads 0 (R424). -/
def Health.pointMv (h : Health) (k : Nat) : Nat := if h.retired && h.measurements == 0 then 0 else 650 + 50 * k

/-- CURVE_V, CURVE_F, CURVE_L and CURVE_TIME (R424). -/
def State.curveV (s : State) (sel : Word) : Word :=
  let h := (s.core (curveCore sel)).health
  let vnow := if h.retired then 0 else h.vnow
  BitVec.ofNat 64 (h.curve.v95 % 2 ^ 16 * 2 ^ 32 + vnow % 2 ^ 16 * 2 ^ 16 + h.pointMv (curvePoint sel))
def State.curveF (s : State) (sel : Word) : Word :=
  let h := (s.core (curveCore sel)).health
  let fnow := if h.retired then 0 else h.fnow
  BitVec.ofNat 64 (field16 h.curve.tslope * 2 ^ 48 + h.curve.su % 2 ^ 12 * 2 ^ 32 + fnow % 2 ^ 12 * 2 ^ 16 +
    h.curve.fmax.getD (curvePoint sel) 0 % 2 ^ 16)
def State.curveL (s : State) (sel : Word) : Word :=
  let h := (s.core (curveCore sel)).health
  BitVec.ofNat 64 (h.flags % 2 ^ 8 * 2 ^ 40 + h.curve.cls * 2 ^ 34 + s.coreStateField (curveCore sel) * 2 ^ 32 +
    field16 h.tnow * 2 ^ 16 + h.curve.leak.getD (curvePoint sel) 0 % 2 ^ 16)
def State.curveTime (s : State) (sel : Word) : Word := BitVec.ofNat 64 (s.core (curveCore sel)).health.curve.mtime

/-! ### Reading and writing control registers (R40, R147) -/

/-- The value of a control register, or nothing for a number outside R40. -/
def State.readCreg (s : State) (k : Nat) (t : Task) (n : Nat) : Option Word :=
  let c := t.ctl
  match n with
  | 0x00 => some t.ident.tid
  | 0x01 => some t.ident.path
  | 0x02 => some (t.purse.hoist &&& 0x00FFFFFFFFFFFFC0)
  | 0x03 => some (BitVec.ofNat 64 t.purse.weight)
  | 0x04 => some (modeReg t.window)
  | 0x05 => some c.vl
  | 0x06 => some (bankReg t.bank)
  | 0x07 => some c.rnd
  | 0x08 => some c.mfmt
  | 0x09 => some c.mscaleA
  | 0x0A => some c.mscaleB
  | 0x0B => some c.mzp
  | 0x0C => some c.fflags
  | 0x10 => some c.upcVec
  | 0x11 => some c.upcCause
  | 0x12 => some c.upcAddr
  | 0x13 => some c.upcPc
  | 0x14 => some c.vdone
  | 0x15 => some c.upcSave
  | 0x18 => some c.xferId
  | 0x19 => some c.xferVec
  | 0x1A => some c.xferPc
  | 0x20 => some (BitVec.ofNat 64 k)
  | 0x21 => some (s.speedReg k)
  | 0x22 => some (BitVec.ofNat 64 (s.core k).health.curve.cls)
  | 0x23 => some (s.snapReg k t)
  | 0x24 => some (BitVec.ofNat 64 s.stime)
  | 0x25 => some (BitVec.ofNat 64 (s.core k).cycle)
  | 0x26 => some (s.wsref t)
  | 0x28 => some (s.core k).logCtl
  | 0x40 => some c.paramStat
  | 0x50 => some c.curveSel
  | 0x51 => some (s.curveV c.curveSel)
  | 0x52 => some (s.curveF c.curveSel)
  | 0x53 => some (s.curveL c.curveSel)
  | 0x54 => some (s.curveTime c.curveSel)
  | _ =>
    if 0x30 ≤ n && n ≤ 0x37 then some ((s.core k).pmc.toList.getD (n - 0x30) 0)
    else if 0x38 ≤ n && n ≤ 0x3F then some ((s.core k).pms.toList.getD (n - 0x38) 0)
    else none

/-- The bits of a writable register that are not reserved; nothing where every field is RO or reserved (R17, R18). -/
def writeMask (n : Nat) : Option Word :=
  match n with
  | 0x05 => some 0xFFF
  | 0x07 => some 0x7
  | 0x08 => some 0xFFFF0FC1
  | 0x09 | 0x0A => some 0xFFFFFFFF
  | 0x0B => some 0x1F
  | 0x0C => some 0x3F
  | 0x10 | 0x13 | 0x19 | 0x1A => some 0x00FFFFFFFFFFFFFC
  | 0x11 => some 0x0000FFFFFFFFF0FF
  | 0x12 | 0x14 | 0x15 => some 0xFFFFFFFFFFFFFFFF
  | 0x28 => some 0x1F0001
  | 0x40 => some 0x1F
  | 0x50 => some 0x71FFF
  | _ =>
    if 0x30 ≤ n && n ≤ 0x37 then some 0xFFFFFFFFFFFFFFFF
    else if 0x38 ≤ n && n ≤ 0x3F then some 0x1F00FF
    else none

/-- EREF of a format register (R191). -/
def eref (x : Word) : Int := bitsInt true 16 (bitsAt x.toNat 31 16)

/-- The checks of a register's own map (R43, R70, R191, R345, R347, R424). -/
def cregValueOk (n : Nat) (x : Word) : Bool :=
  let v := x.toNat
  match n with
  | 0x05 => decide (v ≤ 2048)
  | 0x07 => decide (v ≤ 4)
  | 0x08 =>
    let afmt := bitsAt v 11 8
    erefOk false (eref x) && (afmt == 0 || afmt == 12 || afmt == 13) && bitsAt v 7 6 != 3
  | 0x28 =>
    let sper := bitsAt v 20 16
    sper == 0 || (8 ≤ sper && sper ≤ 24)
  | 0x50 => decide (v % 2 ^ 13 ≤ 5119)
  | _ => !(0x38 ≤ n && n ≤ 0x3F) || decide (v % 256 ≤ 21)

/-- A context's register written (R40). PARAM_STAT is W1C (R135). -/
def Ctl.write (c : Ctl) (n : Nat) (x : Word) : Ctl :=
  match n with
  | 0x05 => { c with vl := x }
  | 0x07 => { c with rnd := x }
  | 0x08 => { c with mfmt := x }
  | 0x09 => { c with mscaleA := x }
  | 0x0A => { c with mscaleB := x }
  | 0x0B => { c with mzp := x }
  | 0x0C => { c with fflags := x }
  | 0x10 => { c with upcVec := x }
  | 0x11 => { c with upcCause := x }
  | 0x12 => { c with upcAddr := x }
  | 0x13 => { c with upcPc := x }
  | 0x14 => { c with vdone := x }
  | 0x15 => { c with upcSave := x }
  | 0x19 => { c with xferVec := x }
  | 0x1A => { c with xferPc := x }
  | 0x40 => { c with paramStat := c.paramStat &&& ~~~x }
  | 0x50 => { c with curveSel := x }
  | _ => c

/-- A core's register written (R148, R345, R346). -/
def State.writeCoreReg (s : State) (k n : Nat) (x : Word) : State :=
  let c := s.core k
  if n = 0x28 then s.writeLogCtl k x
  else if 0x30 ≤ n && n ≤ 0x37 then s.setCore k { c with pmc := c.pmc.set! (n - 0x30) x, seen := c.seen.set! (n - 0x30) x }
  else s.setCore k { c with pms := c.pms.set! (n - 0x38) x }

/-- The registers a core owns that mtc may write. -/
def coreReg (n : Nat) : Bool := n == 0x28 || (0x30 ≤ n && n ≤ 0x3F)

/-- mtc from a launch task to LOG_CTL, PMC and PMS is ignored under ULOCK (R350). -/
def State.locked (s : State) (k : Nat) (t : Task) (n : Nat) : Bool :=
  coreReg n && t.ident.launch.isSome && (s.cluster (coreCluster k)).dbg.ctl.getLsbD 10

/-- What mfc reads: of a counter what it held as the last cycle ended (R348). -/
def State.seenCreg (s : State) (k : Nat) (t : Task) (n : Nat) : Option Word :=
  if 0x30 ≤ n && n ≤ 0x37 then (s.core k).seen[n - 0x30]? else s.readCreg k t n

/-- The traits of an instruction that names a control register: FFLAGS is there once the array's instructions before have given their
results (R49). -/
def cregTraits (i : Instr) (a : SReg) (creg : BitVec 8) : Traits :=
  let tr := regTraits i 0 [a]
  { tr with ends := true, touched := fun t => tr.touched t ++ if creg.toNat = 0x0C then [.flags] else [] }

/-- mfc (R147). -/
def execMfc (a : SReg) (creg : BitVec 8) (s : State) : Out :=
  let tr := cregTraits (.mfc a creg) a creg
  issue tr (fun s t =>
    match s.seenCreg (ctxCore s.focus) t creg.toNat with
    | some x => .next (s.retire tr (t.setS a x))
    | none => s.illegal tr t) s

/-- mtc (R17, R18, R41, R147): an RO register ignores the write, a reserved bit or a refused value raises ILLEGAL. -/
def execMtc (a : SReg) (creg : BitVec 8) (s : State) : Out :=
  let tr := cregTraits (.mtc a creg) a creg
  issue tr (fun s t =>
    let k := ctxCore s.focus
    let n := creg.toNat
    let x := t.getS a
    if (s.readCreg k t n).isNone then s.illegal tr t
    else
      match writeMask n with
      | none => .next (s.retire tr t)
      | some m =>
        if s.locked k t n then .next (s.retire tr t)
        else if x &&& ~~~m != 0 || !cregValueOk n x then s.illegal tr t
        else if coreReg n then .next ((s.retire tr t).writeCoreReg k n x)
        else .next (s.retire tr { t with ctl := t.ctl.write n x })) s

/-! ### trap, brk, eret, yield, nop (R149 to R153) -/

/-- trap: BREAK with UPC_PC after it; the instruction itself retires (R149). -/
def breakWith (tr : Traits) (addr : Nat) (s : State) (t : Task) : Out :=
  let s := s.retire tr t
  let t := (s.task? s.focus).getD t
  .next (s.raise s.focus t (cause BREAK (BitVec.ofNat 64 addr) t.regs.pc))

/-- trap n (R149). -/
def execTrap (n : BitVec 8) (s : State) : Out :=
  let tr := { traits (.trap n) with ends := true }
  issue tr (breakWith tr n.toNat) s

/-- brk n: the core halts at it where the debug module breaks the core, or the cluster does under BRKALL; otherwise it
is a trap with 0x100 + n (R150, R350). -/
def execBrk (n : BitVec 8) (s : State) : Out :=
  let tr := { traits (.brk n) with ends := true }
  issue tr (fun s t =>
    let k := ctxCore s.focus
    let ctl := (s.cluster (coreCluster k)).dbg.ctl
    if ctl.getLsbD (k % 8) then
      .next (if ctl.getLsbD 8 then s.dipNow (coreCluster k) 4 0 k else s.haltCore k)
    else breakWith tr (0x100 + n.toNat) s t) s

/-- The end of a copy-completion handler: what eret had left for the next instruction holds again. -/
def Task.leaveXfer (t : Task) : Task :=
  { t with
    flow := { t.flow with
      inXfer := false, held := none, resumed := t.flow.held.elim false (·.1), skip := t.flow.held.elim [] (·.2) } }

/-- eret: from an upcall handler at UPC_PC with the WDONE skips, from a copy-completion handler at XFER_PC, ILLEGAL
outside both (R151, R301). -/
def execEret (s : State) : Out :=
  let tr := { traits .eret with ends := true }
  issue tr (fun s t =>
    if t.flow.inUpcall then
      let s := s.retire tr t
      .next ((s.setTask s.focus ((s.task? s.focus).getD t).resume).resumeMerge t.ident.tid)
    else if t.flow.inXfer then
      let s := s.retireAt tr t (addrField t.ctl.xferPc)
      .next (s.setTask s.focus ((s.task? s.focus).getD t).leaveXfer)
    else s.illegal tr t) s

/-- yield: the slot goes to the others for 64 cycles, of which the cycle of the yield itself is the first (R152, DESIGN CHOICE,
log 98). -/
def execYield (s : State) : Out :=
  let tr := { traits .yield with ends := true }
  issue tr (fun s t =>
    let c := s.core (ctxCore s.focus)
    let s := s.retire tr t
    let u := (s.task? s.focus).getD t
    .next (s.setTask s.focus { u with rank := { u.rank with yieldUntil := c.cycle + 64 } })) s

/-- nop: it ends open windows and advances the pc (R153). -/
def execNop (s : State) : Out :=
  let tr := { traits .nop with ends := true }
  issue tr (fun s t => .next (s.retire tr t)) s

/-- A word that names no instruction (R88, R100): ILLEGAL, whatever its guard. It issues as any instruction does, and
the causes that follow its encoding never arise. -/
def execIllegalWord (w : BitVec 32) (s : State) : Out :=
  let tr : Traits := { word := w.toNat }
  issue tr (fun s t => s.illegal tr t) s

end Sys2Proof.Machine
end

