-- ==== Sys2Proof/Machine/EvHealth.lean ====
section
/-! DEFINITION. Curves, speeds and health (18 R380, 20 R409, 23 R423 to R434, 24 R442, R443): publication, measurement, the
operating point, error counts and retirement. -/

namespace Sys2Proof.Machine

/-- A count that saturates (R431). -/
def sat32 (n : Nat) : Nat := min (n + 1) (2 ^ 32 - 1)

/-! ### From curve to speed (R428) -/

/-- FMAX or LEAK of a point. -/
def point (xs : List Nat) (k : Nat) : Nat := xs.getD k 0

/-- The published speed of eight points: min(2400, floor(0.98 x FMAX of point 7)). -/
def speedOf (fmax : List Nat) : Nat := min 2400 (point fmax 7 * 98 / 100)

/-- F(V, T) in units of 1/50,000 MHz: FMAX interpolated between adjacent points, plus TSLOPE x (T - 95) / 1,000. -/
def clockAt (fmax : List Nat) (tslope : Int) (v : Nat) (t : Int) : Int :=
  let k := min ((v - 650) / 50) 6
  let part := v - 650 - 50 * k
  let base : Int := 50 * point fmax k + ((point fmax (k + 1) : Int) - point fmax k) * part
  1000 * base + 50 * tslope * (t - 95)

/-- 0.98 x F(V, T) reaches a speed. -/
def reaches (fmax : List Nat) (tslope : Int) (v : Nat) (t : Int) (s : Nat) : Bool :=
  decide ((s : Int) * 5000000 ≤ 98 * clockAt fmax tslope v t)

/-- V(S, T): the lowest whole mV from 650 to 1,000 that reaches a speed, 1,000 where none does. -/
def voltage (fmax : List Nat) (tslope : Int) (s : Nat) (t : Int) : Nat :=
  match (List.range 351).find? fun i => reaches fmax tslope (650 + i) t s with
  | some i => 650 + i
  | none => 1000

/-- LEAK at a voltage, in 50ths of a mW. -/
def leakAt (leak : List Nat) (v : Nat) : Int :=
  let k := min ((v - 650) / 50) 6
  50 * point leak k + ((point leak (k + 1) : Int) - point leak k) * ((v - 650 - 50 * k : Nat) : Int)

/-- EI := floor(V95^2 / 1,000) + floor(L95 x 1,000 / SU). -/
def energyIndex (r : CurveRecord) : Int := (r.v95 * r.v95 / 1000 : Nat) + leakAt r.leak r.v95 * 20 / r.su

/-! ### Measurement (R427) -/

/-- Nothing of a launch or a task is on the core, queued ones included (R244), and no launch that has not completed has it in its set. -/
def State.coreEmpty (s : State) (core : Nat) : Bool :=
  let c := s.core core
  !(s.ctxs.any fun e => ctxCore e.1 == core) && !(s.saved.any fun e => e.2.core == core) && c.mailbox.isEmpty && c.spill.isEmpty &&
    c.grid.isNone &&
    c.granules.all (· == .l1) && !(s.launches.any fun l => l.2.set.contains core)

/-- ROLE of a column core, at index 80x + 8y + c (R436); 0 is a spare. -/
def State.roleOf (s : State) (core : Nat) : Nat :=
  let n := coreCluster core
  s.cfg.role.getD (80 * clusterX n + 8 * (n % 160 / 16) + core % 8) 0

/-- The cores of the firmware column (R4). -/
def State.columnCores (s : State) : List Nat := (List.range 1280).filter fun c => s.inColumn (coreCluster c)

/-- A column core is in service: neither retired nor being measured. -/
def State.inService (s : State) (core : Nat) : Bool := !(s.core core).health.retired && !(s.core core).health.measuring

/-- Without a column core, every role has a core that fills it: its own, or a spare that stands in for it (DEDUCED, log 60). -/
def State.relieved (s : State) (core : Nat) : Bool :=
  let others := s.columnCores.filter fun c => c != core && s.inService c
  let spares := others.filter fun c => s.roleOf c == 0
  let empty := s.columnCores.filter fun c => s.roleOf c != 0 && !others.contains c
  decide (empty.length ≤ spares.length)

/-- A span of seconds in ns. -/
def seconds (n : Nat) : Nat := n * 1000000000

/-- At least a span since an earlier time. -/
def longSince (now span : Nat) (t : Option Nat) : Bool := t.all fun x => decide (x + span ≤ now)

/-- A measurement may start: the rates of R427, a trigger, or the schedule. -/
def State.mayMeasure (s : State) (core : Nat) : Bool :=
  let h := (s.core core).health
  decide (core < 5120) && !h.retired && !h.measuring && longSince s.stime (seconds 60) h.lastMeasure &&
    (h.retest || longSince s.stime (4 * hour) h.lastScheduled) && s.coreEmpty core &&
    (!s.inColumn (coreCluster core) || s.relieved core)

/-- The health of a core changed. -/
def State.mapHealth (s : State) (core : Nat) (f : Health → Health) : State :=
  s.setCore core { s.core core with health := f (s.core core).health }

/-- MEASUREMENT_START (R427). -/
def execMeasurementStart (core : Nat) (s : State) : Out :=
  if s.mayMeasure core then
    .next (s.mapHealth core fun h =>
      { h with
        measuring := true, measureStart := s.stime, lastMeasure := some s.stime,
        lastScheduled := if h.retest then h.lastScheduled else some s.stime })
  else .next s

/-- FMAX does not decrease. -/
def rising : List Nat → Bool
  | a :: b :: xs => decide (a ≤ b) && rising (b :: xs)
  | _ => true

/-- What a measurement must show (trigger 4 of R432). -/
def curveOk (c : Curve) : Bool := c.passed && rising c.fmax && decide (1450 ≤ speedOf c.fmax)

/-- A trigger recorded in a core's entry. -/
def Health.trigger (h : Health) (code now : Nat) : Health := { h with trigTime := now, trigCode := code }

/-- The outcome of a measurement: it waits for publication, and one that fails retires the core by trigger 4. -/
def Health.measured (h : Health) (c : Curve) (now : Nat) : Health :=
  let h := { h with measuring := false, measurements := sat32 h.measurements, pending := some (c, now) }
  if curveOk c then h else { h.trigger 4 now with retiring := true }

/-- MEASUREMENT_END (R427). -/
def execMeasurementEnd (core : Nat) (curve : Curve) (s : State) : Out :=
  if (s.core core).health.measuring && curve.fmax.length == 8 && curve.leak.length == 8 then
    .next (s.mapHealth core fun h => h.measured curve s.stime)
  else .next s

/-! ### Publication (R380, R425, R429) -/

/-- Below 5 % of the floor (R426). -/
def belowFloor (fmax : List Nat) : Bool := decide (point fmax 7 * 98 / 100 < 1520)

/-- A record with what a completed measurement found at a time; of one that failed the time alone is new (R424, R433, DEDUCED,
log 59). -/
def CurveRecord.measured (r : CurveRecord) (c : Curve) (t : Nat) : CurveRecord :=
  let su := speedOf c.fmax
  if curveOk c then
    { r with fmax := c.fmax, leak := c.leak, tslope := c.tslope, mtime := t, su := su, v95 := voltage c.fmax c.tslope su 95 }
  else { r with mtime := t }

/-- A completed measurement, published: the record, and the flags (R426, R428). -/
def Health.publish (h : Health) : Health :=
  match h.pending with
  | none => h
  | some (c, t) =>
    { h with
      curve := h.curve.measured c t, pending := none, canary := false, retest := false, cehigh := false,
      nearFloor := belowFloor (h.curve.measured c t).fmax }

/-- A core powered down (R433). -/
def Health.retire (h : Health) : Health :=
  { h with
    retired := true, retiring := false, measuring := false, vnow := 0, fnow := 0, trial := none,
    curve := { h.curve with fast := false, frugal := false } }

/-- A core's health at an instant: its new record, and its retirement by an earlier trigger (R433). -/
def Health.instant (h : Health) : Health :=
  if h.retired then h
  else if h.retiring then h.publish.retire
  else h.publish

/-- The cores that take part in the classes: launch cores with a record that are not being measured (R429). -/
def State.classed (s : State) (c : Nat) : Bool :=
  s.launchCore c && !(s.core c).health.measuring && !(s.core c).health.curve.fmax.isEmpty

/-- The q-th largest of a list of numbers. -/
def nthLargest (xs : List Int) (q : Nat) : Int := (xs.mergeSort (fun a b => decide (b ≤ a))).getD (q - 1) 0

/-- FAST and FRUGAL over the launch cores (R429). -/
def State.setClasses (s : State) : State :=
  let cores := s.cores.filter fun e => s.classed e.1
  let q := (cores.length + 3) / 4
  let fastAt := nthLargest (cores.map fun e => (e.2.health.curve.su : Int)) q
  let frugalAt := -nthLargest (cores.map fun e => -energyIndex e.2.health.curve) q
  let one := fun (e : Nat × Core) =>
    let r := e.2.health.curve
    let r := if s.classed e.1 then
        { r with fast := decide (fastAt ≤ (r.su : Int)), frugal := decide (energyIndex r ≤ frugalAt) }
      else { r with fast := false, frugal := false }
    (e.1, { e.2 with health := { e.2.health with curve := r } })
  { s with cores := s.cores.map one }

/-- The trial entry of a core that holds at an instant (R409). -/
def State.trialAt (s : State) (core p : Nat) : Option Nat :=
  let x := (s.control.trials.getD core 0).toNat
  let su := x % 2 ^ 12
  if bitAt x 31 && decide (1 ≤ su) && decide (su ≤ p) && s.launchCore core then some su else none

/-- Every core's trial at an instant. -/
def State.setTrials (s : State) : State :=
  let one := fun (e : Nat × Core) =>
    let p := e.2.health.curve.su
    (e.1, { e.2 with health := { e.2.health with trial := s.trialAt e.1 p, trialP := p } })
  { s with cores := s.cores.map one }

/-- A launch holds state on a core: a task, queued or on its way there too (R244), a saved record or a partition (R433). -/
def State.launchOn (s : State) (id core : Nat) : Bool :=
  (s.messages.any fun m => m.dst == .core core && m.ident.launch == some id) || (s.ctxs.any fun e => ctxCore e.1 == core && e.2.ident.launch == some id) ||
    (s.saved.any fun e => e.2.core == core && e.2.task.ident.launch == some id) ||
    (s.core core).granules.contains (.launch id)

/-- A launch is aborted from its recovery point (R444). -/
def State.abortLaunch (s : State) (id : Nat) : State :=
  match s.launches.get? id with
  | some l =>
    if l.phase == .running then { s with launches := s.launches.set id { l with phase := .aborting } } else s
  | none => s

/-- The launch that owns a task, a message or a chain is aborted. -/
def State.abortOwner (s : State) (owner : Option Nat) : State := owner.elim s s.abortLaunch

/-- The launches that hold state on cores retired now are aborted (R433). -/
def State.abortRetired (s : State) (cores : List Nat) : State :=
  (s.launches.keys.filter fun id => cores.any fun c => s.launchOn id c).foldl State.abortLaunch s

/-- The queues whose descriptor is enabled. -/
def State.enabledQueues (s : State) : List Nat := (List.range 65534).filter s.queueEn

/-- The channels retired now: the cache drops their lines, and every enabled queue learns it (R434). -/
def State.retireChannel (s : State) (i : Nat) : State :=
  let s := s.setChannel i { s.channel i with retired := true, retiring := false }
  s.enabledQueues.foldl (fun s q => s.postRecord q (Record.event (s.queueAsid q) 11 0 0 (BitVec.ofNat 64 i))) s

/-! ### The operating point (R430) -/

/-- The thermal factor in 64ths after one action. -/
def thermalStep (ti : Nat) (t : Int) : Nat :=
  if 105 ≤ t then max 32 (ti - 1) else if t < 100 then min 64 (ti + 1) else ti

/-- The target in 4,096ths of a MHz, limited to what 1,000 mV sustains at the temperature. -/
def targetOf (r : CurveRecord) (k ti : Nat) (t : Int) : Nat :=
  min (k * ti * r.su) ((98 * clockAt r.fmax r.tslope 1000 t * 4096 / 5000000).toNat)

/-- A core's clock, voltage and issue gate under one package factor. -/
def Health.runAt (h : Health) (k : Nat) : Health :=
  let target := targetOf h.curve k h.thermal h.tnow / 4096
  let clock := max 1450 target
  { h with
    fnow := clock, vnow := voltage h.curve.fmax h.curve.tslope clock h.tnow, gate := if target < 1450 then some target else none }

/-- The controller's action on a core: those that run, with their thermal factor. -/
def Health.operate (h : Health) (k : Nat) : Health :=
  if h.retired || h.curve.fmax.isEmpty then h else { h with thermal := thermalStep h.thermal h.tnow }.runAt k

/-- A core whose first record has been published runs from then on. -/
def Health.powerUp (h : Health) (k : Nat) : Health :=
  if h.retired || h.curve.fmax.isEmpty || h.fnow != 0 then h else h.runAt k

/-- The factor k in 64ths that the power cap allows now. -/
def State.factor (s : State) : Nat := 32 + Config.powerFactor s.free % 33

/-- What a publication does at its instant: retirements, records, classes, trials, and the channels (R380, R409, R425, R429,
R433, R434). -/
def State.publish (s : State) : State :=
  let going := (Tab.keys s.cores).filter fun c => (s.core c).health.retiring && !(s.core c).health.retired
  let one := fun (e : Nat × Core) => (e.1, { e.2 with health := e.2.health.instant.powerUp s.factor })
  let s : State := { s with cores := s.cores.map one }
  let s := (s.setClasses.setTrials).abortRetired going
  let lost := (Tab.keys s.channels).filter fun i => (s.channel i).retiring && !(s.channel i).retired
  lost.foldl State.retireChannel { s with epoch := (s.epoch + 1) % 2 ^ 32, cursor := s.stime / 1000000 }

/-- An instant that has not been published: STIME is a multiple of 1,000,000. -/
def State.dueInstant (s : State) : Bool := s.stime % 1000000 == 0 && decide (s.cursor < s.stime / 1000000)

/-- SPEED_PUBLICATION (R380). -/
def execSpeedPublication (s : State) : Out := if s.dueInstant then .next s.publish else .next s

/-- What happens at an instant: the publication, and the log lines of the cores (R342, R380). -/
def State.atInstant (s : State) : State :=
  if s.dueInstant then (Tab.keys s.cores).foldl State.flushLine s.publish else s

/-- OPERATING_POINT_CONTROL (R430): every 10 µs, with the factor k in 64ths that the power cap allows (DESIGN CHOICE,
log 36). -/
def execOperatingPointControl (k : Nat) (s : State) : Out :=
  if k < 32 || 64 < k || s.stime < s.control.opAt + 10000 then .next s
  else
    .next { s with
      control := { s.control with opAt := s.stime }
      cores := s.cores.map fun e => (e.1, { e.2 with health := e.2.health.operate k }) }

/-- MARGIN_MONITOR_FIRE (trigger 2 of R432). -/
def execMarginMonitorFire (core : Nat) (s : State) : Out :=
  if 5120 ≤ core || (s.core core).health.retired then .next s
  else
    .next (s.mapHealth core fun h =>
      { h.trigger 2 s.stime with
        margin := sat32 h.margin, thermal := max 32 (h.thermal - 4), canary := true, retest := true })

/-! ### Errors (R431, R432, R442, R443) -/

/-- A corrected error in a core's arrays: trigger 1 at 64 within the hour, CEHIGH at half of it. -/
def Health.corrects (h : Health) (now : Nat) : Health :=
  let xs := now :: recent now hour h.correctedAt
  let h := { h with corrected := sat32 h.corrected, correctedAt := xs, cehigh := h.cehigh || decide (32 ≤ xs.length) }
  if 64 ≤ xs.length then { h.trigger 1 now with retest := true } else h

/-- An uncorrectable error in a core's arrays: trigger 3 at 2 within 24 h. -/
def Health.fails (h : Health) (now : Nat) : Health :=
  let xs := now :: recent now day h.uncorrectableAt
  let h := { h with uncorrectable := sat32 h.uncorrectable, uncorrectableAt := xs }
  if 2 ≤ xs.length then { h.trigger 3 now with retiring := true } else h

/-- A corrected error of a channel: trigger 5 at 4,096 within the hour. -/
def Channel.corrects (c : Channel) (now : Nat) : Channel :=
  let xs := now :: recent now hour c.correctedAt
  let c := { c with corrected := sat32 c.corrected, correctedAt := xs }
  if 4096 ≤ xs.length then { c with trigTime := now, trigCode := 5, retiring := true } else c

/-- An uncorrectable error of a channel: trigger 6 at 2 within 24 h. -/
def Channel.fails (c : Channel) (now : Nat) : Channel :=
  let xs := now :: recent now day c.uncorrectableAt
  let c := { c with uncorrectable := sat32 c.uncorrectable, uncorrectableAt := xs }
  if 2 ≤ xs.length then { c with trigTime := now, trigCode := 6, retiring := true } else c

/-- The core whose arrays hold what an error hit: contexts, banks and mailboxes lie in them (DEDUCED, log 37). -/
def errorCore (site : ErrSite) : Option Nat :=
  match site with
  | .core c _ => some c
  | .context c _ => some c
  | .bank c _ => some c
  | .mailbox c _ => some c
  | _ => none

/-- The HBM channel that holds what an error hit: of memory itself, of the save arena (R392), or of the backing of the view arena (R273),
whose place there the error names (DESIGN CHOICE, log 83). -/
def errorChannel (site : ErrSite) : Option Nat :=
  match site with
  | .channel i _ => some i
  | .saved _ i => some i
  | .arena _ _ _ i => some i
  | _ => none

/-- CORRECTED_ERROR (R442): the correction counts; the data are as before. -/
def execCorrectedError (site : ErrSite) (s : State) : Out :=
  match errorCore site, errorChannel site with
  | some c, _ => .next (if c < 5120 then s.mapHealth c fun h => h.corrects s.stime else s)
  | none, some i => .next (if i < 512 then s.setChannel i ((s.channel i).corrects s.stime) else s)
  | none, none => .next s

/-- A line becomes poisoned (R443). -/
def State.poisonLine (s : State) (line : Nat) : State :=
  if s.poison.contains line then s else { s with poison := line :: s.poison }

/-- The launch that owns state an error hit (R443). -/
def State.errorOwner (s : State) (site : ErrSite) : Option Nat :=
  match site with
  | .context c x => (s.taskAt c x).bind fun e => e.2.ident.launch
  | .bank c b => (s.ctxs.find? fun e => ctxCore e.1 == c && e.2.bank == some b).bind fun e => e.2.ident.launch
  | .mailbox c i => (s.core c).mailbox[i]?.bind fun m => m.ident.launch
  | .spill c i => (s.core c).spill[i]?.bind fun m => m.ident.launch
  | .saved id _ => (s.saved.get? id).bind fun r => r.task.ident.launch
  | .arena c g n _ => if (s.heldLine c g n).isSome then (s.chains.get? c).bind fun x => x.launch else none
  | _ => none

/-- A private line of a segment, where it is held, with the error in it: a merge step that meets it raises MERGE (R278), beside the abort
of R443 (DEDUCED, log 67). -/
def State.poisonArena (s : State) (site : ErrSite) : State :=
  match site with
  | .arena c g n _ =>
    match s.chains.get? c, s.heldLine c g n with
    | some x, some _ => { s with chains := s.chains.set c { x with bad := if x.bad.contains (g, n) then x.bad else x.bad ++ [(g, n)] } }
    | _, _ => s
  | _ => s

/-- A line of memory that an error names lies in the channel it names. -/
def errorFits (site : ErrSite) : Bool :=
  match site with
  | .channel i n => channelOf (64 * n) == i
  | _ => true

/-- UNCORRECTABLE_ERROR (R443): it counts, and poisons its line or aborts the launch that owns the state. -/
def execUncorrectableError (site : ErrSite) (s : State) : Out :=
  let s := match errorCore site, errorChannel site with
    | some c, _ => if c < 5120 then s.mapHealth c fun h => h.fails s.stime else s
    | none, some i => if i < 512 && errorFits site then s.setChannel i ((s.channel i).fails s.stime) else s
    | none, none => s
  match site with
  | .line n => .next (s.poisonLine n)
  | .core c n => .next (if c < 5120 then s.poisonLine n else s)
  | .channel i n => .next (if i < 512 && errorFits site then s.poisonLine n else s)
  | _ => .next ((s.poisonArena site).abortOwner (s.errorOwner site))

/-- PATROL_SCRUB (R431, R442): a pass of a unit completes: an HBM channel once in 24 h (0 to 511), the L2 of a slice (512 to
1,151) or the memory-side cache of a channel (1,152 to 1,663) once per hour. An error that it finds is an event of its own. -/
def execPatrolScrub (part : Nat) (s : State) : Out :=
  if part < 512 then
    let c := s.channel part
    if s.stime < c.scrubbed + day then .next s
    else .next (s.setChannel part { c with scrubs := sat32 c.scrubs, scrubbed := s.stime })
  else if part < 1152 then
    let c := s.cluster (part - 512)
    if s.stime < c.scrubbed + hour then .next s else .next (s.setCluster (part - 512) { c with scrubbed := s.stime })
  else if part < 1664 then
    let c := s.channel (part - 1152)
    if s.stime < c.cacheScrubbed + hour then .next s
    else .next (s.setChannel (part - 1152) { c with cacheScrubbed := s.stime })
  else .next s

end Sys2Proof.Machine
end

