-- ==== Sys2Proof/Machine/Fetch.lean ====
section
/-! DEFINITION. Fetching the next instruction of a context (04 R86 to R88), and what the arbiter asks of it before it
issues (02 R47, R60). -/

namespace Sys2Proof.Machine

/-- What a fetch finds: an instruction, a word that names none (R100), or what stopped it. -/
inductive Fetched where
  | instr (i : Instr)
  | bad (w0 : BitVec 32)
  | stop (z : Stop)

/-- One word at an address of a task, changing nothing. -/
def State.fetchWord (s : State) (w : Who) (pc : Nat) : Except Stop Nat :=
  match s.locate w 3 pc 4 false false with
  | .error z => .error z
  | .ok p => .ok (s.readAt p pc 4)

/-- What a decoding gives. -/
def fetched (w0 : Nat) (d : Dec) : Fetched :=
  match d with
  | .ok i => .instr i
  | .error _ => .bad (BitVec.ofNat 32 w0)

/-- The instruction at the pc of context i: word 1 of a long form follows at the next word address (R86). Where word 0 alone is
already ILLEGAL, or its guard false, a fault of word 1 comes first (DESIGN CHOICE, log 55). -/
def State.fetch (s : State) (i : Nat) (t : Task) : Fetched :=
  let w := taskWho i t
  match s.fetchWord w t.regs.pc.toNat with
  | .error z => .stop z
  | .ok w0 =>
    if isLong w0 then
      match s.fetchWord w (t.regs.pc.toNat + 4) with
      | .error z => .stop z
      | .ok w1 => fetched w0 (decode w0 (some w1))
    else fetched w0 (decode w0 none)

/-- A fetched word has been translated, and its line is held where the directory says (R290, R328); a fetch hits no watchpoint and
looks up no line of L1 (DESIGN CHOICE, log 39). -/
def State.noteFetchWord (s : State) (w : Who) (pc : Nat) : State :=
  match s.locate w 3 pc 4 false false with
  | .ok (.mem pa home) =>
    let s := s.ready w (.mem pa home) pc
    if (linkOf pa).isNone then (s.countL2 pa home).holdLine w pc pa home else s
  | _ => s

/-- The word at an address is word 0 of a long form. -/
def State.fetchesLong (s : State) (w : Who) (pc : Nat) : Bool :=
  match s.fetchWord w pc with
  | .ok w0 => isLong w0
  | .error _ => false

/-- The lines of the instruction at the pc of context i have been fetched. -/
def State.noteFetch (s : State) (i : Nat) (t : Task) : State :=
  let w := taskWho i t
  let pc := t.regs.pc.toNat
  let first := s.noteFetchWord w pc
  if s.fetchesLong w pc && (pc + 4) / 64 != pc / 64 then first.noteFetchWord w (pc + 4) else first

/-- An operation of sub 0x10 that uses the array (R48): all but the mask logic. -/
def VOp.usesArray : VOp → Bool
  | .kand | .kor | .kxor | .kandn | .kmov => false
  | _ => true

/-- The instruction needs the array to issue (R48, R60). -/
def usesArray : Instr → Bool
  | .vadd .. | .vsub .. | .vmul .. | .vmulh .. | .vmin .. | .vmax .. | .vand .. | .vor .. | .vxor .. | .vandn .. => true
  | .vshl .. | .vshr .. | .vsha .. | .vfma .. | .vfms .. | .vfnma .. | .vsel .. | .vperm .. | .vscl .. | .vqnt .. => true
  | .vbin .. | .vabs .. | .vneg .. | .vrcp .. | .vrsq .. | .vcompress .. | .vexpand .. | .vexpmax .. | .vcmp .. => true
  | .viota .. | .vcvt .. | .vred .. | .vscan .. | .vcvtRfb .. | .vcvtBs .. | .vslideUp .. | .vslideDn .. => true
  | .vbcast .. | .vins .. | .vext .. => true
  | .vectorOpLong op _ _ _ _ _ _ => VOp.usesArray op
  | .mma .. | .mmas .. | .mmaq .. | .mmag .. | .tzero .. | .ttrn .. | .tcvt .. => true
  | _ => false

/-- A vector or tile load without a window, which writes back through the array as it issues (R48, R208). -/
def loadsNow : Instr → Bool
  | .vld _ _ _ _ la | .vldInc _ _ _ _ la | .vldRep _ _ _ _ la | .vmemLong false _ _ _ _ _ _ la => la.val == 0
  | .vlds _ _ _ _ _ _ la | .vldx _ _ _ _ _ _ la => la.val == 0
  | .tld _ _ _ la | .tldStrided _ _ _ _ la => la.val == 0
  | _ => false

/-- The counter event of an instruction's class, beside event 2: 8 for the mma family, 9 for the other vector and tile instructions, 0 for
none (R347). -/
def eventOf (i : Instr) : Nat :=
  match i with
  | .mma .. | .mmas .. | .mmaq .. | .mmag .. => 8
  | .vsetl .. | .vpopk .. | .vfirstk .. | .kand .. | .kor .. | .kxor .. | .kandn .. | .kmov .. | .vectorOpLong .. => 9
  | .vld .. | .vldInc .. | .vldRep .. | .vst .. | .vstInc .. | .vmemLong .. | .vlds .. | .vsts .. | .vldx .. | .vstx .. => 9
  | .tld .. | .tst .. | .tscat .. | .tldStrided .. | .tstStrided .. => 9
  | i => if usesArray i then 9 else 0

end Sys2Proof.Machine
end

