-- ==== Sys2Proof/Machine/EvCore.lean ====
section
/-! DEFINITION. Events of a core's contexts: completion of long-latency instructions, the arbiter's cycles, the grid,
upcalls, copy completions, task start, and quanta (02, 09 R245 to R247, 11 R301, 13 R332, 18 R389 to R395). An event
that cannot happen in a state leaves it as it is (DESIGN CHOICE, log 2). -/

namespace Sys2Proof.Machine

/-! ### Long-latency completion (R50, R54) -/

/-- The array is there for the write-back of a context: free, and reserved for no other (R47). A halted core does not use its reservation,
and what it has in flight drains (R351, R356). -/
def Core.writable (c : Core) (ctx : Nat) : Bool := !({ c with reserved := if c.halted then none else c.reserved } : Core).arrayBusy ctx

/-- An instruction in flight that may complete now: its latency is over (R48), the array is free for what it writes back, and
every earlier access it must follow has completed. -/
def State.completable (s : State) (i : Nat) (t : Task) (seq : Nat) : Option LLOp :=
  let c := s.core (ctxCore i)
  (t.flow.inflight.find? fun o => o.seq == seq && !o.done && o.failed.isNone).filter fun o =>
    decide (o.ready ≤ c.cycle) && (o.work.writeBack == 0 || c.writable (ctxNum i)) &&
      !(!o.work.ranges.isEmpty && s.asking t o.seq) &&
        !t.flow.inflight.any fun p => decide (p.seq < o.seq) && s.mustFollow i t p o.work

/-- The array is taken for the cycles of a write-back (R48, R208). -/
def State.writesBack (s : State) (core n : Nat) : State :=
  if n = 0 then s else s.setCore core { s.core core with arrayUntil := (s.core core).cycle + n }

/-- The instruction has completed; it is forgotten once its window is over. -/
def Task.finished (t : Task) (seq : Nat) : Task :=
  let mark := fun (o : LLOp) => if o.seq == seq then { o with done := true } else o
  { t with
    flow := { t.flow with
      inflight := (t.flow.inflight.map mark).filter fun o => !o.done || decide (t.flow.seq ≤ o.last) } }

/-- The instruction has failed with a cause. -/
def Task.failedOp (t : Task) (seq : Nat) (c : Trap) : Task :=
  let mark := fun (o : LLOp) => if o.seq == seq then { o with failed := some c } else o
  { t with flow := { t.flow with inflight := t.flow.inflight.map mark } }

/-- LONG_LATENCY_COMPLETION (R50). -/
def execLongLatencyCompletion (core ctx seq : Nat) (s : State) : Out :=
  match s.liveAt core ctx with
  | none => .next s
  | some (i, t) =>
    match s.completable i t seq with
    | none => .next s
    | some o =>
      match s.perform i t o.pc o.work with
      | .done s t => .next ((s.writesBack core o.work.writeBack).setTask i (t.finished seq))
      | .trap s t c => .next (s.setTask i (t.failedOp seq c))
      | .wait (.link l va) => .next (s.setTask i (s.stalled t l va o.work.acc (some seq) o.work.groups))
      | .wait z => .next (s.heldAt z)

/-! ### The arbiter (R46, R47, R152) -/

/-- The entry of a list with the least key; of several with the same key the one that stands first. -/
def leastBy (key : Nat × Task → Nat) : List (Nat × Task) → Option (Nat × Task)
  | [] => none
  | e :: es =>
    match leastBy key es with
    | some x => if key x < key e then some x else some e
    | none => some e

/-- The context of a core that has been ready longest without issuing (R47). Of several that have been ready equally long, which
the spec leaves open, it is the one earlier in the list (DESIGN CHOICE, log 51). -/
def State.longestReady (s : State) (core : Nat) : Option (Nat × Task) :=
  leastBy (fun e => e.2.rank.ready.getD 0) (s.ctxs.filter fun e => ctxCore e.1 == core && e.2.rank.ready.isSome)

/-- The next instruction of a context needs the array. -/
def State.wantsArray (s : State) (i : Nat) (t : Task) : Bool :=
  match s.fetch i t with
  | .instr i => usesArray i || (loadsNow i && !t.flow.busy)
  | _ => false

/-- An aging cycle grants the context ready longest the next cycle in which the core issues (R47, R409), and reserves the array for it
when its instruction needs it while it is occupied: the state, and how many reservations that made. -/
def State.agingGrant (s : State) (core : Nat) : State × Nat :=
  let c := s.core core
  if c.cycle % 32 != 0 then (s, 0)
  else
    match s.longestReady core with
    | none => (s, 0)
    | some (i, t) =>
      let c := { c with grant := some (ctxNum i) }
      if s.wantsArray i t && decide (c.cycle < c.arrayUntil) && c.reserved != some (ctxNum i) then
        (s.setCore core { c with reserved := some (ctxNum i) }, 1)
      else (s.setCore core c, 0)

/-- AGING_CYCLE (R47); a reservation counts as event 20 (R347). -/
def execAgingCycle (core : Nat) (s : State) : Out :=
  let r := s.agingGrant core
  .next (if r.2 = 0 then r.1 else r.1.setCore core ((r.1.core core).count 0 20 r.2))

/-- YIELD_EXPIRY (R152). -/
def execYieldExpiry (core ctx : Nat) (s : State) : Out :=
  match s.liveAt core ctx with
  | none => .next s
  | some (i, t) =>
    if t.rank.yieldUntil = 0 || (s.core core).cycle < t.rank.yieldUntil then .next s
    else .next (s.setTask i { t with rank := { t.rank with yieldUntil := 0 } })

/-- GRID_ACQUIRE (R58): the head of the waiting contexts takes the free grid; its mode.m then issues again. -/
def execGridAcquire (core ctx : Nat) (s : State) : Out :=
  let c := s.core core
  match s.liveAt core ctx with
  | none => .next s
  | some (i, t) =>
    if c.gridQueue.head? == some ctx && c.grid.isNone && s.drained i t && !c.dip then
      let wait := if t.flow.wait == .grid then .run else t.flow.wait
      .next ((s.setCore core { c with grid := some ctx, gridQueue := c.gridQueue.drop 1 }).setTask i
        { t with flow := { t.flow with wait := wait } })
    else .next s

/-! ### Upcalls (R52, R55, R332, R338) -/

/-- The first instruction that failed, with its cause. -/
def Task.firstFailed (t : Task) : Option (LLOp × Trap) :=
  t.flow.inflight.findSome? fun o => o.failed.map fun c => (o, c)

/-- An instruction of the window of a failed one has completed: it issued and is not in flight any more, or a plan still counts it
(R55). -/
def Task.windowDone (t : Task) (n : Nat) : Bool :=
  if n < t.flow.seq then !t.flow.inflight.any fun o => o.seq == n && !o.done
  else t.flow.skip.getD (n - t.flow.seq) false

/-- WDONE of a failed instruction (R55). -/
def Task.wdone (t : Task) (o : LLOp) : Nat :=
  ((List.range 15).map fun j =>
    if o.seq + j + 1 ≤ o.last && t.windowDone (o.seq + j + 1) then 2 ^ j else 0).sum

/-- The plan that is left, as WDONE carries it. -/
def planWord (skip : List Bool) : Nat := ((List.range 15).map fun j => if skip.getD (j + 1) false then 2 ^ j else 0).sum

/-- A boundary of R301: the context is running and ready, as the machine found it after the last turn (R45), nothing is in flight, it is
not halting, and it executes no handler; instructions a plan skips are passed first. -/
def Task.atBoundary (t : Task) (c : Core) : Bool :=
  !t.held c && t.rank.block.isNone && t.flow.woken == .no && !t.flow.busy && !t.flow.inUpcall && !t.flow.inXfer && !t.flow.halting &&
    !t.flow.skip.headD false

/-- The parked requests of causes that are not taken are dropped (DEDUCED, log 15). -/
def State.dropOthers (s : State) (t : Task) (taken : Nat) : State :=
  let others := t.flow.inflight.filterMap fun o => if o.seq == taken then none else o.failed
  (others ++ t.flow.trap.toList).foldl State.dropMonitor s

/-- The upcall of a soft fault at a boundary: without a handler, a KIND 2 record with the CAUSE that the upcall would carry (R369), and the
context runs on (R140, R338). -/
def State.enterSoft (s : State) (i : Nat) (t : Task) (c : Trap) : State :=
  let u := { t with flow := { t.flow with soft := t.flow.soft.drop 1 } }
  if t.ctl.upcVec == 0 then
    (s.setTask i u).postRecord t.ident.queue (Record.ofTask t.ident 2 0 (c.word (planWord t.flow.skip)) c.addr)
  else s.enterUpcall i u { c with pc := t.regs.pc } (planWord t.flow.skip)

/-- UPCALL_ENTRY (R332): the earliest failed instruction, else the cause that waited for the window, else a soft fault
at a boundary. Upcalls stay pending while the core is halted (R356), while the context is being saved (R186), and until a task restored
in M mode has the grid again (R393). -/
def execUpcallEntry (core ctx : Nat) (s : State) : Out :=
  match s.liveAt core ctx with
  | none => .next s
  | some (i, t) =>
    if (s.core core).halted || t.flow.saving || !s.drained i t || (t.window != 0 && (s.core core).grid != some ctx) then .next s
    else
      match t.firstFailed, t.flow.trap with
      | some (o, c), _ => .next ((s.dropOthers t o.seq).enterUpcall i t c (t.wdone o))
      | none, some c => .next (s.enterUpcall i t c 0)
      | none, none =>
        match t.flow.soft with
        | [] => .next s
        | c :: _ => if t.atBoundary (s.core core) then .next (s.enterSoft i t c) else .next s

/-! ### Copy completions (R237, R301) -/

/-- The pending completion of a task, in the order they completed, and the list without it. -/
def takeCompletion (tid : Word) : List Completion → Option (Completion × List Completion)
  | [] => none
  | d :: ds => if d.tid == tid then some (d, ds) else (takeCompletion tid ds).map fun r => (r.1, d :: r.2)

/-- The context enters the handler of a completion. -/
def Task.enterXfer (t : Task) (d : Completion) : Task :=
  { t with
    ctl := { t.ctl with xferId := BitVec.ofNat 64 d.tag, xferVec := addrField d.handler, xferPc := addrField t.regs.pc }
    regs := { t.regs with pc := addrField d.handler }
    flow := { t.flow with inXfer := true, held := some (t.flow.resumed, t.flow.skip), resumed := false, skip := [] } }

/-- COPY_COMPLETION_DELIVERY (R301); an upcall due at the same boundary goes first. -/
def execCopyCompletionDelivery (core ctx : Nat) (s : State) : Out :=
  match s.liveAt core ctx with
  | none => .next s
  | some (i, t) =>
    let n := coreCluster core
    let x := s.cluster n
    match takeCompletion t.ident.tid x.engine.done with
    | none => .next s
    | some (d, ds) =>
      if !t.atBoundary (s.core core) || !t.flow.soft.isEmpty then .next s
      else
        let s := s.setCluster n { x with engine := { x.engine with done := ds } }
        .next ((s.setTask i (t.enterXfer d)).countEvent i 19 1)

/-! ### Task start (R211, R214, R245 to R247) -/

/-- The id of the next task a context starts (R211). -/
def taskId (core ctx seq : Nat) : Word := BitVec.ofNat 64 (seq % 2 ^ 31 * 2 ^ 17 + ctx * 2 ^ 13 + core)

/-- The registers at task start (R39). -/
def startRegs (m : Msg) : Regs :=
  let arg := fun (r : Fin 64) =>
    if r.val = 5 then m.s5 else if h : 1 ≤ r.val ∧ r.val ≤ 4 then m.args[r.val - 1]'(by omega) else 0
  { s := Vector.ofFn arg, p := 0, pc := addrField m.hdr }

/-- The task a message starts (R39, R214, R247). -/
def Msg.task (m : Msg) (tid : Word) (bank : Option Nat) (order stime cycle : Nat) : Task :=
  { regs := startRegs m, ctl := Ctl.reset, ident := { m.ident with tid := tid },
    purse := { hoist := m.hoist, weight := m.weight, outer := none, quiet := false, spawnIx := 0 }, window := 0,
    bank := bank, views := m.views, token := none, flow := Flow.reset,
    rank := { order := order, start := stime, quantum := stime, ready := none, waiting := cycle, yieldUntil := 0, block := none } }

/-- The segments that a message carried now belong to the task. -/
def State.ownSegments (s : State) (tid : Word) (views : Tab View) : State :=
  views.foldl (fun s v =>
    match s.chains.get? v.2.chain with
    | some c => { s with chains := s.chains.set v.2.chain (c.mapSeg v.2.seg fun g => { g with owner := tid }) }
    | none => s) s

/-- The cycles from a start to the first instruction: four, or those that clear a bank, a register each (R39, R246). -/
def startCycles (bank : Option Nat) : Nat := if bank.isSome then 32 else 4

/-- No instruction of the context issues before then. -/
def Core.startAwait (c : Core) (ctx : Nat) (bank : Option Nat) (pc : Word) : Await :=
  { ctx := ctx, reg := none, until_ := c.cycle + startCycles bank, pc := pc, memory := false }

/-- The message at a place of the mailbox starts its task (R245, R246). -/
def State.startMsg (s : State) (core index : Nat) (m : Msg) : State :=
  match s.placeFor core (.msg index m) with
  | none => s
  | some (ctx, bank) =>
    let c := (s.core core).seats (.msg index m) ctx
    let seq := c.seqs.getD ctx 0 + 1
    let tid := taskId core ctx seq
    let c := ({ c with
      seqs := c.seqs.set ctx (seq % 2 ^ 31), mailbox := dropAt c.mailbox index
      results := c.results ++ [c.startAwait ctx bank (addrField m.hdr)] }.drain).count 0 14 1
    let t := m.task tid bank s.nextId s.stime c.cycle
    let s := ({ s with nextId := s.nextId + 1 }.setCore core c).ownSegments tid m.views
    let s := match bank with
      | some b => s.setBank core b Bank.reset
      | none => s
    s.setTask (16 * core + ctx) t

/-- TASK_START (R245): the chosen message of the core's mailbox. -/
def execTaskStart (core : Nat) (s : State) : Out :=
  match s.choice core with
  | some (.msg index m) => .next (s.startMsg core index m)
  | _ => .next s

/-! ### Saving and restoring (R390 to R395) -/

/-- A waiting task takes the place of a running one at its quantum end (R390). -/
def State.preempts (s : State) (t : Task) (w : Waiting) : Bool :=
  (!w.bank || t.bank.isSome) && (s.starved w || s.outranks w.launch t.ident.launch)

/-- The quantum of a task has ended (R389). -/
def State.quantumOver (s : State) (t : Task) : Bool :=
  let len := s.control.quantumLen * 1000
  if s.control.gang then decide (t.rank.quantum / len < s.stime / len) else decide (t.rank.quantum + len ≤ s.stime)

/-- The waiting task in whose favour a task is saved: the first of those that preempt it and for which no other save frees a place (R388,
R390). -/
def State.preemptor (s : State) (core : Nat) (t : Task) : Option Waiting :=
  s.firstOf ((s.waiters core).filter fun w => s.preempts t w && !(s.core core).due.any fun x => x.meant w && s.seatOpens core x)

/-- The place that the save of a task frees for a waiting one: its context, and its bank where one is needed (R390). -/
def Waiting.seat (w : Waiting) (ctx : Nat) (t : Task) : Seat :=
  { saved := match w with
      | .msg .. => false
      | .saved .. => true
    id := match w with
      | .msg _ m => m.id
      | .saved k _ => k
    ctx := ctx, bank := if w.bank then t.bank else none }

/-- QUANTUM_END (R390): the task stops for its save in favour of a waiting one, or runs on; timers stop while a DIP holds the core
(R356, R389). -/
def execQuantumEnd (core ctx : Nat) (s : State) : Out :=
  match s.liveAt core ctx with
  | none => .next s
  | some (i, t) =>
    if (s.core core).dip || t.flow.saving || !s.quantumOver t then .next s
    else
      let u := { t with rank := { t.rank with quantum := s.stime } }
      match (if t.flow.halting || t.flow.suspended then none else s.preemptor core t) with
      | some w =>
        let c := s.core core
        .next ((s.setCore core { c with due := c.due ++ [w.seat ctx t] }).setTask i { u with flow := { u.flow with saving := true } })
      | none => .next (s.setTask i u)

/-- Every DONE = 2 request of a task, wherever it is, changed: paused at a save, resumed into a bank at a restore
(R391). -/
def State.mapStreams (s : State) (tid : Word) (f : CopyReq → CopyReq) : State :=
  let one := fun (q : CopyReq) => if q.tid == tid && q.pf.isNone && q.done == 2 then f q else q
  { s with
    cores := s.cores.map fun c => (c.1, { c.2 with fifo := c.2.fifo.map one })
    clusters := s.clusters.map fun c => (c.1, { c.2 with engine := { c.2.engine with active := c.2.engine.active.map one } }) }

/-- CONTEXT_SAVE (R392): once nothing in flight will complete any more, no result is still to come (R391) and no send waits for
acceptance (R250), the whole context and its bank move into a saved record, and the grid, bank and context are free for the task that waits (R390). An upcall that is
due moves with it and is taken when the context next runs (R186). The save comes after every access before it, and before every access after
it (R309). -/
def execContextSave (core ctx : Nat) (s : State) : Out :=
  match s.liveAt core ctx with
  | none => .next s
  | some (i, t) =>
    if !t.flow.saving || (s.core core).halted || !s.settledAt i t || t.sending then .next s
    else
      let kept := if t.firstFailed.isSome then t.flow.inflight else []
      let u := { t with flow := { t.flow with saving := false, inflight := kept, fenced := true } }
      if t.flow.suspended then
        let c := s.core core
        .next ((s.setCore core { c with due := c.due.filter fun x => x.ctx != ctx }).setTask i u)
      else
        let c := (s.core core).releaseGrid ctx
        let c := { c with
          gridQueue := c.gridQueue.filter (· != ctx)
          reserved := if c.reserved == some ctx then none else c.reserved
          grant := if c.grant == some ctx then none else c.grant }
        let bank := t.bank.map (s.bankOf core)
        let r : Saved := { core := core, bank := bank, task := u, savedAt := s.stime }
        let s := (s.setCore core c).mapStreams t.ident.tid fun q => { q with paused := true }
        let banks := match t.bank with
          | some b => s.banks.erase (core * 4 + b)
          | none => s.banks
        .next { s with ctxs := s.ctxs.erase i, banks := banks, saved := s.saved.set s.saved.fresh r }

/-- How a restored task waits: for an answer still on its way, for the grid it held, or not at all (R243, R393). -/
def Task.restoredWait (t : Task) : Wait :=
  match t.flow.wait with
  | .accept m => .accept m
  | .borrow id => .borrow id
  | _ => if t.window = 0 then .run else .grid

/-- The forwarding entry of a task that lives elsewhere than it started (R395). -/
def State.forwardTask (s : State) (tid : Word) (core ctx : Nat) : State :=
  let home := tid.toNat % 2 ^ 13
  let c := s.core home
  let key := tid.toNat
  if home == core && bitsAt tid.toNat 16 13 == ctx then s.setCore home { c with forward := c.forward.erase key }
  else s.setCore home { c with forward := c.forward.set key (core, ctx) }

/-- A parked instruction issues again at the restore (R243); one whose borrow is on its way has issued. -/
def Task.restoredIssued (t : Task) : Bool :=
  match t.flow.wait with
  | .borrow _ => t.flow.issued
  | _ => false

/-- A record is written back into a context and a bank (R393). -/
def State.restoreSaved (s : State) (core key : Nat) (r : Saved) : State :=
  match s.placeFor core (.saved key r) with
  | none => s
  | some (ctx, bank) =>
    let t := r.task
    let c := (s.core core).seats (.saved key r) ctx
    let c := if t.window = 0 then c else { c with gridQueue := c.gridQueue ++ [ctx] }
    let u := { t with
      bank := bank, rank := { t.rank with quantum := s.stime, ready := none, waiting := c.cycle, block := none },
      flow := { t.flow with wait := t.restoredWait, issued := t.restoredIssued } }
    let s := (s.setCore core c).mapStreams t.ident.tid fun q => { q with paused := false, bank := bank, core := core }
    let s := match bank, r.bank with
      | some b, some x => s.setBank core b x
      | _, _ => s
    ((s.eraseSaved key).setTask (16 * core + ctx) u).forwardTask t.ident.tid core ctx

/-- TASK_RESTORE (R393): the core's choice, or a record of another core that R394 lets it take. How such a record ranks beside the core's own
waiting tasks the spec does not say: it is taken when the core has none that it could take, and the event names which (R245, R394, DESIGN
CHOICE, log 90). -/
def execTaskRestore (core saved : Nat) (s : State) : Out :=
  match s.choice core, s.saved.get? saved with
  | some (.saved key r), _ => if key = saved then .next (s.restoreSaved core key r) else .next s
  | none, some r =>
    if (s.core core).takes && s.mayRestore core r && s.fits core (.saved saved r) then
      .next (s.restoreSaved core saved r)
    else .next s
  | _, _ => .next s

/-! ### Kills and notices (R223, R336) -/

/-- The acknowledgement of a kill reaches its killer. -/
def State.ackKill (s : State) (id : Nat) (k : KillReq) : State :=
  let s := { s with kills := s.kills.erase id }
  match k.killer with
  | some x => s.mapTask x fun t => if t.flow.wait == .kill id then t.wake .yes else t
  | none => s

/-- KILL_ACKNOWLEDGEMENT (R223): the target stops once its instructions in flight, a send among them (R250), have completed; one
that a kill leaves alone, or that is gone, stays as it is. -/
def execKillAcknowledgement (id : Nat) (s : State) : Out :=
  match s.kills.get? id with
  | none => .next s
  | some k =>
    match s.taskOf k.target with
    | none => .next (s.ackKill id k)
    | some t =>
      if s.unkillable t then .next (s.ackKill id k)
      else if !s.stopped? k.target t then .next s
      else .next ((s.killTask k.target).ackKill id k)

/-- The completion notice of a parked request (R336). -/
def Monitor.notice (m : Monitor) (pc cause : Word) : Msg :=
  { id := 0, dst := .core m.core, hdr := m.hdr, args := #v[m.va, m.tid, pc, cause], s5 := m.tid, weight := 0,
    hoist := m.hoist, ident := { m.ident with tid := 0, path := emptyPath, parent := none }, views := [],
    sender := none, senderPath := emptyPath, launchStart := false, arrived := 0 }

/-- MONITOR_FIRE (R336): a fired monitor is freed and its notice leaves, once the core has sent UPC_PC and UPC_CAUSE. -/
def execMonitorFire (slice mon : Nat) (s : State) : Out :=
  let c := s.cluster slice
  match c.monitors.get? mon with
  | none => .next s
  | some m =>
    match m.upc with
    | some (pc, w) =>
      if m.fired then .next ((s.setCluster slice { c with monitors := c.monitors.erase mon }).depart (m.notice pc w))
      else .next s
    | none => .next s

end Sys2Proof.Machine
end

