-- ==== Sys2Proof/Machine/EvHost.lean ====
section
/-! DEFINITION. Events of the host ports and the links: barrier doorbells (11 R306), peer arrivals (08 R232), semaphores
(17 R378), the memory window (19 R403), UALink peers and time limits (19 R405), PTP (19 R407), credit (19 R408), and writes
of shared registers (01 R17, 18 R389, 20 R409, 14 R349). -/

namespace Sys2Proof.Machine

/-! ### Barrier doorbells (R306) -/

/-- The descriptor of a slot: ASID, queue and VA; unbound where the ASID is 0. -/
def State.doorSlot (s : State) (slot : Nat) : Option (Nat × Nat × Word) :=
  let d := s.control.doorTable.getD slot (0, 0)
  if d.1.toNat % 65536 = 0 then none else some (d.1.toNat % 65536, bitsAt d.1.toNat 47 32, d.2)

/-- A host port as an agent: its doorbells, and the memory window of port A, are one agent's (R308). -/
def portAgent (port : Port) : Nat :=
  match port with
  | .a => 6004
  | .b => 6005

/-- A refused arrival is lost, with a KIND 10 record, whatever the cause (DEDUCED, log 4). -/
def State.doorRefused (s : State) (asid queue code : Nat) (va : Word) : State :=
  s.postRecord queue (Record.event asid 10 0 (windowCause code true) va)

/-- The arrival of a write to a bound slot, checked as an engine write of die 0; one that a UALink has held for 2 ms is refused (R405). -/
def State.doorWrite (s : State) (bell : Doorbell) (asid queue : Nat) (va : Word) : Out :=
  let key := doorKey bell.port bell.slot
  match stepCause va 64 with
  | some code => .next (s.doorRefused asid queue code va)
  | none =>
    match s.arrive (outsideWho asid (portAgent bell.port)) 5 va.toNat with
    | .ok (_, s) => .next (s.unlink key)
    | .error (.refuse code addr slice entry) =>
      .next (((s.noteRefused 0 asid code addr slice entry).unlink key).doorRefused asid queue code va)
    | .error z => .next (if s.lateStop key z then (s.unlink key).doorRefused asid queue POISON va else s.holdLink key z)

/-- A read of a bound slot: the barrier's GEN, or 0 where the VA is refused, by a UALink's time limit too (R405). -/
def State.doorRead (s : State) (bell : Doorbell) (asid : Nat) (va : Word) : Out :=
  let key := doorKey bell.port bell.slot
  if (stepCause va 64).isSome then .next (s.replyNat 0)
  else
    match s.load (outsideWho asid (portAgent bell.port)) 4 va.toNat 64 with
    | .ok (line, s) => .next ((s.unlink key).replyNat (fieldOf line 16 8))
    | .error (.refuse code addr slice entry) => .next (((s.noteRefused 0 asid code addr slice entry).unlink key).replyNat 0)
    | .error z => .next (if s.lateStop key z then (s.unlink key).replyNat 0 else s.holdLink key z)

/-- HOST_BARRIER_DOORBELL (R306). -/
def execHostBarrierDoorbell (bell : Doorbell) (write : Bool) (s : State) : Out :=
  if 8192 ≤ bell.slot || !s.open then .next s
  else
    match s.doorSlot bell.slot with
    | some (asid, queue, va) => if write then s.doorWrite bell asid queue va else s.doorRead bell asid va
    | none => .next (if write then s else s.replyNat 0)

/-! ### UALink peers (R405) -/

/-- A peer as an agent: it names local physical addresses and reaches the memory-side cache. -/
def peerWho (peer : Nat) : Who := outsideWho 0 (7000 + peer)

/-- What stops a peer's access: the range (R401), or a line of the weight-store image (R292); then it waits for a line that a copy
request owns (R320); or poison. -/
def State.peerStop (s : State) (peer pa len : Nat) (write whole : Bool) : Option Stop :=
  if 2 ^ 40 ≤ pa || pa / 64 != (pa + len - 1) / 64 || len = 0 then some (.refuse PERM pa 0 none)
  else if write && (s.imageLine pa).isSome then some (.refuse PERM pa 0 none)
  else if s.owned (peerWho peer) (pa / 64) then some .hold
  else if s.poisonHit (if write then 5 else 4) pa whole then some (.refuse POISON pa 0 none)
  else none

/-- The answer to a peer whose request is refused; one that only has to wait has none yet. -/
def State.peerAnswer (s : State) (z : Stop) : State :=
  match z with
  | .refuse code _ _ _ => s.reply (if code == POISON then .poisoned else .unsupported)
  | _ => s

/-- A peer's write of bytes of one line, which a slice that holds it gives up first (R290, R405); of the whole line it clears the poison (DEDUCED, log 32). -/
def State.peerStore (s : State) (pa len x : Nat) (whole : Bool) : State :=
  ((s.recall (pa / 64)).writeAt (.mem pa 0) pa len x whole).fireMonitors (pa / 64)

/-- The watchpoints see a peer's access, which names no address space and a local physical address, as one of address space 0 at that
address (R354, DESIGN CHOICE, log 25). -/
def State.peerSeen (s : State) (peer acc pa len : Nat) : State := s.noteWatch (peerWho peer) acc pa len

/-- PEER_BARRIER_ARRIVAL (R232): the effect of bar.arv without a token, on a named barrier at a local address. -/
def execPeerBarrierArrival (peer pa : Nat) (s : State) : Out :=
  if 1024 ≤ peer || pa % 64 != 0 then .next s
  else
    match s.peerStop peer pa 64 true false with
    | some z => .next (s.peerAnswer z)
    | none =>
      let old := s.readPa pa 64
      let new := arrivedLine s.stime old
      let s := (s.peerStore pa 64 new false).peerSeen peer 5 pa 64
      .next (if fieldOf old 16 8 = fieldOf new 16 8 then s else s.wakeWhere (s.waitsOnLine (pa / 64)))

/-- The operand width of a peer's atomic, and whether its address is aligned to it. -/
def peerAtomicOk (op : AmoOp) (len pa : Nat) : Bool := op != .trig && pa % len == 0

/-- UALINK_PEER_ACCESS (R405): a request of at most 64 bytes of one line, performed at the memory-side cache; a refused one
changes nothing here, and is answered so. -/
def execUalinkPeerAccess (peer pa : Nat) (req : PeerReq) (s : State) : Out :=
  if 1024 ≤ peer then .next s
  else
    match req with
    | .read len =>
      match s.peerStop peer pa len false false with
      | none => .next (((s.recall (pa / 64)).replyNat (s.readPa pa len)).peerSeen peer 4 pa len)
      | some z => .next (s.peerAnswer z)
    | .write data =>
      match s.peerStop peer pa data.length true (data.length == 64) with
      | none => .next ((s.peerStore pa data.length (leNat data) (data.length == 64)).peerSeen peer 5 pa data.length)
      | some z => .next (s.peerAnswer z)
    | .atomic op half x e =>
      let len := if half then 4 else 8
      let w := 8 * len
      match (if peerAtomicOk op len pa then s.peerStop peer pa len true false else some (.refuse PERM pa 0 none)) with
      | none =>
        let m := s.readPa pa len
        let s := s.peerStore pa len (amoValue op w (x.toNat % 2 ^ w) (e.toNat % 2 ^ w) m) false
        .next ((s.replyNat m).peerSeen peer 2 pa len)
      | some z => .next (s.peerAnswer z)

/-- The address of an instruction in flight. -/
def Task.opPc (t : Task) (seq : Nat) : Word := (t.flow.inflight.find? fun o => o.seq == seq).elim t.regs.pc fun o => o.pc

/-- The VA at which a UALink without credit stops the work of an instruction in flight. -/
def State.linkStop (s : State) (i : Nat) (t : Task) (o : LLOp) : Option Nat :=
  match s.perform i t o.pc o.work with
  | .wait (.link (.ualink _) va) => some va
  | _ => none

/-- The instruction in flight that a UALink has held for 2 ms and still holds, with the VA. -/
def State.lateOp (s : State) (i : Nat) (t : Task) : Option (LLOp × Nat) :=
  t.flow.inflight.findSome? fun o =>
    if !o.done && o.failed.isNone && overdue o.since s.stime then (s.linkStop i t o).map fun va => (o, va) else none

/-- UALINK_TIMEOUT (R405): an access of a context held by a UALink for 2 ms raises POISON, at the instruction it belongs to
(DESIGN CHOICE, log 31); while its core is halted no upcall is entered (R356). -/
def execUalinkTimeout (core ctx : Nat) (s : State) : Out :=
  match s.liveAt core ctx with
  | none => .next s
  | some (i, t) =>
    let trap := fun (addr : Word) (acc : Nat) (vdone : Option Word) (pc : Word) =>
      ({ cause POISON addr pc with acc := acc, vdone := vdone } : Trap)
    let inFlight : Out :=
      match s.lateOp i t with
      | some (o, va) => .next (s.setTask i (t.failedOp o.seq (trap (BitVec.ofNat 64 va) o.work.acc o.work.groups o.pc)))
      | none => .next s
    match t.flow.wait with
    | .link x =>
      match x.link with
      | .port _ => inFlight
      | .ualink _ =>
        if s.stime < x.since + linkLimit || (s.core core).halted then .next s
        else
          let t := { t with flow := { t.flow with wait := .run } }
          match x.op with
          | some seq => .next (s.setTask i (t.failedOp seq (trap x.addr x.acc x.vdone (t.opPc seq))))
          | none => .next (s.raise i t (trap x.addr x.acc x.vdone t.regs.pc))
    | _ => inFlight

/-! ### Semaphores (R378) -/

/-- The id of a port as a holder. -/
def Port.holder (p : Port) : Nat :=
  match p with
  | .a => 1
  | .b => 2

/-- SEMAPHORE_READ (R378). -/
def execSemaphoreRead (port : Port) (n : Nat) (s : State) : Out :=
  if 64 ≤ n then .next s
  else
    let h := s.control.semaphores.getD n 0
    let s := s.replyNat h
    if h = 0 then
      .next { s with control := { s.control with semaphores := s.control.semaphores.set n (Port.holder port) } }
    else .next s

/-- SEMAPHORE_WRITE (R378): a write of the holder's id releases it, from either port. -/
def execSemaphoreWrite (_port : Port) (n : Nat) (value : Word) (s : State) : Out :=
  let h := s.control.semaphores.getD n 0
  if h != 0 && value.toNat == h then
    .next { s with control := { s.control with semaphores := s.control.semaphores.erase n } }
  else .next s

/-- PORT_RESET (R378). -/
def execPortReset (port : Port) (s : State) : Out :=
  let kept := s.control.semaphores.filter fun e => e.2 != Port.holder port
  .next { s with control := { s.control with semaphores := kept } }

/-! ### The memory window (R403) -/

def State.mwinAsid (s : State) : Nat := s.control.mwin.toNat % 65536
def State.mwinQueue (s : State) : Nat := bitsAt s.control.mwin.toNat 31 16
def State.mwinBase (s : State) : Nat := bitsAt s.control.mwin.toNat 55 36 * 2 ^ 36

/-- A refused access of the window leaves a KIND 10 record. -/
def State.windowRefused (s : State) (asid queue va code : Nat) (write : Bool) : State :=
  s.postRecord queue (Record.event asid 10 0 (windowCause code write) (BitVec.ofNat 64 va))

/-- Posted writes are performed in order, each once the line it writes is free; one that a UALink has held for 2 ms is refused (R405). -/
def State.drainInbound (s : State) : List Inbound → State
  | [] => { s with inbound := [] }
  | x :: xs =>
    match s.store (outsideWho x.asid (portAgent .a)) 5 x.va x.bytes.length (leNat x.bytes) false (x.bytes.length == 64) with
    | .ok s => (s.unlink inboundKey).drainInbound xs
    | .error (.refuse code addr slice entry) =>
      (((s.noteRefused 0 x.asid code addr slice entry).unlink inboundKey).windowRefused x.asid x.queue x.va code true).drainInbound xs
    | .error z =>
      if s.lateStop inboundKey z then ((s.unlink inboundKey).windowRefused x.asid x.queue x.va POISON true).drainInbound xs
      else { s.holdLink inboundKey z with inbound := x :: xs }

/-- The posted writes that have not been performed. -/
def State.settleInbound (s : State) : State := if s.inbound.isEmpty then s else s.drainInbound s.inbound

/-- A posted write of at most 512 bytes, line by line in the order of its addresses (R404). -/
def State.windowWrite (s : State) (va : Nat) (bytes : List Byte) : State :=
  let part := fun (p : Nat × Nat) =>
    ({ asid := s.mwinAsid, queue := s.mwinQueue, va := p.1, bytes := (bytes.drop (p.1 - va)).take p.2 } : Inbound)
  ({ s with inbound := s.inbound ++ (linePieces va bytes.length).map part } : State).settleInbound

/-- A read of at most 4,096 bytes, which follows every posted write; a read of poisoned data, as of a line that a UALink has held for 2 ms (R405),
completes with the poisoned-data bit set (R443), and leaves no record. -/
def State.windowRead (s : State) (va len : Nat) : State :=
  let w := outsideWho s.mwinAsid (portAgent .a)
  let s := s.settleInbound
  if !s.inbound.isEmpty then s
  else if s.rangeWaits w 4 va len (s.lateLink windowKey) then s.holdRange windowKey w 4 va len
  else
    match (s.unlink windowKey).readRange w (linePieces va len) with
    | (s, bs, none) => s.reply (if len ≤ 64 then .data (BitVec.ofNat 512 (leNat bs)) else .bytes bs)
    | (s, _, some (code, addr)) =>
      if code = POISON then s.reply .poisoned
      else (s.windowRefused s.mwinAsid s.mwinQueue (max va addr) code false).reply .unsupported

/-- MEMORY_WINDOW_ACCESS (R403). The window's requests come from one requester, whose order PCI Express keeps (DESIGN CHOICE,
log 61). -/
def execMemoryWindowAccess (off len : Nat) (data : Option (BitVec 4096)) (s : State) : Out :=
  let va := s.mwinBase + off
  if 2 ^ 36 < off + len || len = 0 || (if data.isSome then 512 else 4096) < len || !s.open then .next s
  else if !s.control.mwin.getLsbD 63 then .next (if data.isSome then s else s.reply .unsupported)
  else
    match data with
    | some x => .next (s.windowWrite va (leBytes len x.toNat))
    | none => .next (s.windowRead va len)

/-! ### Time and credit (R407, R408) -/

/-- Quantum timers of cores that a DIP holds stand while STIME moves on by d (R356, R389). -/
def State.holdQuanta (s : State) (d : Nat) : State :=
  let hold := fun (e : Nat × Task) =>
    if (s.core (ctxCore e.1)).dip then (e.1, { e.2 with rank := { e.2.rank with quantum := e.2.rank.quantum + d } }) else e
  { s with ctxs := s.ctxs.map hold }

/-- PTP_DISCIPLINE (R407): `offset` is PTP time less STIME. Behind by 1 ms or more, STIME steps forward; otherwise the offset is
slewed away (DEDUCED, log 33). The instants that a step passes over are no instants of this machine (R380). -/
def execPtpDiscipline (offset : Int) (s : State) : Out :=
  if 1000000 ≤ offset then
    let stepped : State := { s with stime := s.stime + offset.toNat, slew := 0, slewPart := 0 }
    .next (stepped.holdQuanta offset.toNat).refresh.atInstant
  else .next { s with slew := offset }

/-- A context held by a link. -/
def Task.onLink (t : Task) (l : Link) : Bool :=
  match t.flow.wait with
  | .link x => x.link == l
  | _ => false

/-- LINK_CREDIT_RETURN (R408): the link has credit, and what it held goes on. -/
def execLinkCreditReturn (link : Link) (s : State) : Out :=
  let free := fun (t : Task) => if t.onLink link then { t with flow := { t.flow with wait := .run } } else t
  .next { s with
    noCredit := s.noCredit.filter (· != link)
    ctxs := s.ctxs.map fun e => (e.1, free e.2) }

/-! ### Shared registers (R17) -/

/-- The word with the writable bits of a value. -/
def masked (x : Word) (mask : Word) : Word := x &&& mask

/-- QUANTUM (R389): a LEN out of its range is dropped, GANG is not. -/
def Control.writeQuantum (c : Control) (x : Word) : Control :=
  let len := x.toNat % 2 ^ 32
  { c with gang := x.getLsbD 32, quantumLen := if 50 ≤ len && len ≤ 100000 then len else c.quantumLen }

/-- QUANTUM is written: with GANG set the quanta that run end at multiples of LEN that lie after the write, but for those that are over already
(R389, DESIGN CHOICE, log 104). -/
def State.writeQuantum (s : State) (x : Word) : State :=
  let c := s.control.writeQuantum x
  let one := fun (e : Nat × Task) =>
    if c.gang && !s.quantumOver e.2 then (e.1, { e.2 with rank := { e.2.rank with quantum := s.stime } }) else e
  { s with control := c, ctxs := s.ctxs.map one }

/-- The doorbell table's words (R306). -/
def Control.writeDoor (c : Control) (slot word : Nat) (x : Word) : Control :=
  let d := c.doorTable.getD slot (0, 0)
  if 8192 ≤ slot || 2 ≤ word then c
  else
    { c with
      doorTable := c.doorTable.set slot (if word = 0 then (masked x 0x0000FFFF0000FFFF, d.2) else (d.1, x)) }

/-- A breakpoint word (R353). -/
def writeBp (p : Word × Word) (hi : Bool) (x : Word) : Word × Word :=
  if hi then (p.1, masked x 0x00000000FFFF00FF) else (masked x 0xC0FFFFFFFFFFFFFC, p.2)

/-- A debug module after a write at an offset that has no row of its own (R349); RO registers and offsets not listed drop it,
and a locked firewall drops breakpoints (R439). -/
def Debug.write (d : Debug) (locked : Bool) (off : Nat) (x : Word) : Debug :=
  if off = 0 then { d with ctl := masked x 0x000000000000F7FF }
  else if off = 0x20 then { d with sel := masked x 0x0000FFFFFFFFFF7F }
  else if 0x60 ≤ off && off < 0x80 && off % 8 = 0 then
    { d with ssel := d.ssel.set! ((off - 0x60) / 8) (if x.toNat % 256 ≤ 9 then masked x 0xFF else 0) }
  else if 0x80 ≤ off && off < 0xA0 && off % 8 = 0 then { d with scnt := d.scnt.set! ((off - 0x80) / 8) x }
  else if 0x100 ≤ off && off < 0x200 && off % 8 = 0 then
    if locked then d
    else
      let n := (off - 0x100) / 16
      { d with bp := d.bp.set! n (writeBp (d.bp.toList.getD n (0, 0)) (off % 16 == 8) x) }
  else d

/-- FWALL exists in the column's clusters; once locked it keeps its value (R439). -/
def State.writeFwall (s : State) (n : Nat) (x : Word) : State :=
  if !s.inColumn n || s.fwLocked n then s else s.setCluster n { s.cluster n with fwall := masked x 0x101 }

/-- A debug module's register written; without MIXCHK its slice keeps no mixed-size records (R323). -/
def State.writeDbg (s : State) (n off : Nat) (x : Word) : State :=
  let c := s.cluster n
  let d := c.dbg.write (s.fwLocked n) off x
  s.setCluster n { c with dbg := d, lastWrites := if d.ctl.getLsbD 9 then c.lastWrites else [] }

/-- A word of LOAD_REQ, dropped while a load runs; a load itself is CONTAINER_LOAD (R441). -/
def Control.writeLoadReq (c : Control) (word : Nat) (x : Word) : Control :=
  if c.loadStat = 0xFF then c
  else match word with
    | 0 => { c with loadReq := x }
    | 1 => { c with loadAsid := masked x 0xFFFF }
    | _ => c

/-- A register of the shared control space or of a debug module written; those that are RO keep their value. -/
def State.writeHostReg (s : State) (reg : HostReg) (x : Word) : State :=
  let c := s.control
  match reg with
  | .quantum => s.writeQuantum x
  | .mwin => { s with control := { c with mwin := masked x 0x80FFFFF0FFFFFFFF } }
  | .xasid => { s with control := { c with xasid := masked x 0x800000000000FFFF } }
  | .trial core => if 5120 ≤ core then s else { s with control := { c with trials := c.trials.set core (masked x 0x80000FFF) } }
  | .doorTable slot word => { s with control := c.writeDoor slot word x }
  | .fwall n => s.writeFwall n x
  | .dbg n off =>
    if 640 ≤ n then s else s.writeDbg n off x
  | .staging table image => { s with base := { s.base with stagedTable := table, stagedImage := image } }
  | .loadReq word => { s with control := c.writeLoadReq word x }
  | .bootStat | .loadStat | .pm _ | .am _ _ | .health _ => s

/-- REGISTER_WRITE (R17): the debug windows open at stage 7, the rest of the shared control space at once (R437). -/
def execRegisterWrite (reg : HostReg) (value : Word) (s : State) : Out :=
  match reg with
  | .dbg _ _ => .next (if s.open then s.writeHostReg reg value else s)
  | _ => .next (s.writeHostReg reg value)

/-! ### Reading shared registers (R17) -/

/-- A debug module's status word (R351). -/
def Debug.stat (d : Debug) : Word :=
  BitVec.ofNat 64 (d.err.toNat * 2 ^ 32 + d.bpi % 16 * 2 ^ 24 + d.cause % 8 * 2 ^ 20 + d.engf.toNat * 2 ^ 16 +
    d.drained.toNat * 2 ^ 8 + d.halted.toNat)

/-- A word of the watch hit record, 0 where there is none (R354). -/
def Debug.whitWord (d : Debug) (word : Nat) : Word :=
  match d.whit with
  | none => 0
  | some w =>
    match word with
    | 0 => w.addr
    | 1 => w.who
    | 2 => BitVec.ofNat 64 (w.index + w.acc * 2 ^ 8)
    | _ => BitVec.ofNat 64 w.count

/-- A word of a watchpoint. -/
def Watch.word (w : Watch) (word : Nat) : Word :=
  match word with
  | 0 => w.word0
  | 1 => w.len
  | _ => w.word2

/-- A register of a debug module (R349): one that is WO, or an offset that is not listed, reads as zero; DBG_DATA has a row of its
own. -/
def State.readDbg (s : State) (n off : Nat) : Word :=
  let d := (s.cluster n).dbg
  let k := off / 8
  if off % 8 != 0 || 640 ≤ n then 0
  else if off = 0 then d.ctl
  else if off = 0x08 then d.stat
  else if off = 0x20 then d.sel
  else if off = 0x30 then d.logWptr
  else if off = 0x38 then d.smpWptr
  else if 0x40 ≤ off && off < 0x60 then d.whitWord (k - 8)
  else if 0x60 ≤ off && off < 0x80 then d.ssel.toList.getD (k - 12) 0
  else if 0x80 ≤ off && off < 0xA0 then d.scnt.toList.getD (k - 16) 0
  else if 0x100 ≤ off && off < 0x200 then
    let b := d.bp.toList.getD ((k - 32) / 2) (0, 0)
    if k % 2 = 0 then b.1 else b.2
  else if 0x200 ≤ off && off < 0x2C0 then (s.watches.toList.getD ((k - 64) / 3) Watch.reset).word ((k - 64) % 3)
  else 0

/-- Word j of the health entry of a core (R431). -/
def State.coreHealth (s : State) (core j : Nat) : Nat :=
  let h := (s.core core).health
  match j with
  | 0 => h.corrected + h.uncorrectable * 2 ^ 32
  | 1 => h.margin + h.measurements * 2 ^ 32
  | 2 => h.trigTime
  | _ => h.trigCode + s.coreStateField core * 2 ^ 8

/-- Word j of the health entry of a channel (R431). -/
def Channel.health (c : Channel) (j : Nat) : Nat :=
  match j with
  | 0 => c.corrected + c.uncorrectable * 2 ^ 32
  | 1 => c.scrubs
  | 2 => c.trigTime
  | _ => c.trigCode + (if c.retired then 2 * 2 ^ 8 else 0)

/-- A word of the health table: 5,120 entries of cores and 512 of channels, of four words each; 0 past its end. -/
def State.healthWord (s : State) (n : Nat) : Word :=
  let e := n / 4
  if e < 5120 then BitVec.ofNat 64 (s.coreHealth e (n % 4))
  else if e < 5632 then BitVec.ofNat 64 ((s.channel (e - 5120)).health (n % 4))
  else 0

/-- A word of a digest, of eight. -/
def digestWord (d : BitVec 512) (word : Nat) : Word := BitVec.ofNat 64 (d.toNat / 2 ^ (64 * word))

/-- BOOT_STAT (R438). -/
def Control.bootStat (c : Control) : Word := BitVec.ofNat 64 (c.bootErr % 256 * 2 ^ 8 + c.bootStage % 8)

/-- What a port reads of a register. -/
def State.readHostReg (s : State) (reg : HostReg) : Word :=
  let c := s.control
  match reg with
  | .quantum => BitVec.ofNat 64 (c.gang.toNat * 2 ^ 32 + c.quantumLen % 2 ^ 32)
  | .mwin => c.mwin
  | .xasid => c.xasid
  | .trial core => c.trials.getD core 0
  | .doorTable slot word =>
    let d := c.doorTable.getD slot (0, 0)
    if word = 0 then d.1 else if word = 1 then d.2 else 0
  | .fwall n => (s.cluster n).fwall
  | .dbg n off => s.readDbg n off
  | .staging .. => 0
  | .bootStat => c.bootStat
  | .loadReq word => if word = 0 then c.loadReq else if word = 1 then c.loadAsid else 0
  | .loadStat => c.loadStat
  | .pm word => digestWord c.pm word
  | .am asid word => digestWord (c.am.getD asid 0) word
  | .health word => s.healthWord word

/-- A read through a port: the debug window is there from stage 7 on (R437). What the staging area returns is not stated: it holds no
register (R438), and no turn reads it. -/
def State.hostReads (s : State) (reg : HostReg) : State :=
  match reg with
  | .dbg _ _ => if s.open then s.replyNat (s.readHostReg reg).toNat else s
  | .staging .. => s
  | _ => s.replyNat (s.readHostReg reg).toNat

end Sys2Proof.Machine
end

