-- ==== Sys2Proof/Machine/EvBoot.lean ====
section
/-! DEFINITION. Package reset, boot and program containers (24 R436 to R441). -/

namespace Sys2Proof.Machine

/-! ### The configuration table (R436) -/

/-- n bytes of a list from an offset, as a little-endian number. -/
def bytesAt (bs : List Byte) (off n : Nat) : Nat := leNat ((bs.drop off).take n)

/-- Every byte of a part of a list is 0. -/
def zeroAt (bs : List Byte) (off n : Nat) : Bool := ((bs.drop off).take n).all (· == 0)

/-- The bytes a signature covers, and the signature. -/
def tableBody (t : List Byte) : List Byte := t.take 4096
def tableSig (t : List Byte) : List Byte := (t.drop 4096).take 29792

/-- Every field lies in its range. -/
def tableFields (t : List Byte) : Bool :=
  let colw := bytesAt t 8 1
  bytesAt t 0 4 == 0x55434647 && decide (1 ≤ colw) && decide (colw ≤ 4) && decide (bytesAt t 9 1 ≤ 1) &&
    decide (bytesAt t 10 2 ≤ 1023) && decide (bytesAt t 12 4 ≤ 511) &&
    ((t.drop 32).take 320).all (fun b => decide (b.toNat ≤ 5)) && zeroAt t 1120 2976

/-- ERR of a table, 0 where it is accepted (R438). -/
def State.tableErr (s : State) (t : List Byte) : Nat :=
  if t.length != 33888 || !Config.slhVerify Config.rootKey (tableBody t) (tableSig t) then 1
  else if bytesAt t 4 4 < s.base.minVersion then 2
  else if !tableFields t then 3
  else 0

/-- The numbers below n whose bit is set from an offset of a list. -/
def bitList (bs : List Byte) (off n : Nat) : List Nat :=
  (List.range n).filter fun i => bitAt (bytesAt bs (off + i / 8) 1) (i % 8)

/-- The fields of an accepted table. -/
def tableCfg (t : List Byte) : Cfg :=
  { version := bytesAt t 4 4, colw := bytesAt t 8 1, ptpr := bytesAt t 9 1, ualn := bytesAt t 10 2,
    domn := bytesAt t 12 4, qtab := bytesAt t 16 8, astab := bytesAt t 24 8,
    role := ((t.drop 32).take 320).map fun b => b.toNat, retc := bitList t 352 5120, reth := bitList t 992 512,
    fwd := BitVec.ofNat 512 (bytesAt t 1056 64) }

/-! ### Boot (R437, R438) -/

/-- STAGE and ERR. -/
def State.stage (s : State) (stage err : Nat) : State :=
  { s with control := { s.control with bootStage := stage, bootErr := err } }

/-- SHAKE256 of a digest register followed by more bytes. -/
def extendDigest (pm : BitVec 512) (d : List Byte) : BitVec 512 := Config.shake256 (leBytes 64 pm.toNat ++ d)

/-- Step 4: PM from the table and the firmware digest. -/
def bootPm (table : List Byte) (fwd : BitVec 512) : BitVec 512 :=
  extendDigest (extendDigest 0 (leBytes 64 (Config.shake256 (tableBody table)).toNat)) (leBytes 64 fwd.toNat)

/-- Step 5: FWALL of every cluster of the column is written and locked; one that is locked keeps its value (R439). -/
def State.lockColumn (s : State) : State :=
  ((List.range 160).filter fun n => s.inColumn n && !s.fwLocked n).foldl
    (fun s n => s.setCluster n { s.cluster n with fwall := 0x101 }) s

/-- What bring-up finds of a core: a free value (DESIGN CHOICE, log 24). -/
def bringUpCurve (counter core : Nat) : Curve :=
  let f := Config.bringUp counter core
  { fmax := (List.range 8).map fun i => f i % 2 ^ 16, leak := (List.range 8).map fun i => f (8 + i) % 2 ^ 16,
    tslope := bitsInt true 16 (f 16 % 2 ^ 16), passed := f 17 != 0 }

/-- A core after bring-up: retired by RETC, or measured at a time (R427). -/
def State.bringUpCore (s : State) (t core : Nat) : Core :=
  let c := s.core core
  let h := c.health
  let h := if s.cfg.retc.contains core then { h with retired := true }
    else { h.measured (bringUpCurve s.free core) t with lastMeasure := some t, lastScheduled := some t }
  { c with health := h }

/-- The measurement of a column core failed with no spare left (ERR 5 of R438): a core that RETC retires is never measured (R424), but its
role takes a spare too. -/
def State.noSpare (s : State) : Bool :=
  let fails := fun (c : Nat) => !s.cfg.retc.contains c && !curveOk (bringUpCurve s.free c)
  let lost := (s.columnCores.filter fun c => s.roleOf c != 0 && (s.cfg.retc.contains c || fails c)).length
  let spares := (s.columnCores.filter fun c => s.roleOf c == 0 && !s.cfg.retc.contains c && !fails c).length
  (s.columnCores.any fun c => s.roleOf c != 0 && fails c) && decide (spares < lost)

/-- The channels of RETH are out of service; what has been counted stays (R431, R436). -/
def State.retireListed (s : State) : State :=
  s.cfg.reth.foldl (fun s i => s.setChannel i { s.channel i with retired := true }) s

/-- STIME is brought into step with PTP time once the cores have been measured (R407, R437): a device that is the grandmaster is in
step. How far it is behind is a free value (DESIGN CHOICE, log 24). -/
def State.lagAtBoot (s : State) : Nat := if s.cfg.ptpr = 1 then 0 else Config.bringUp s.free 5120 1

/-- Step 6: every core is measured, RETC and RETH apply, STIME comes into step, and the first records are published at the instant
that follows (DESIGN CHOICE, log 24). -/
def State.bringUp (s : State) : State :=
  let t := s.stime + 1 + Config.bringUp s.free 5120 0
  let off := s.lagAtBoot
  let inStep := if 1000000 ≤ off then t + off else t
  let epoch := (s.epoch + (t / 1000000 - s.cursor) + 1) % 2 ^ 32
  let s := { s with
    cores := (List.range 5120).map fun c => (c, s.bringUpCore t c)
    stime := (inStep / 1000000 + 1) * 1000000
    slew := if 1000000 ≤ off then 0 else off }.retireListed
  { s.publish with epoch := epoch, free := s.free + 1 }.refresh

/-- Steps 2 to 7, with what is in flash. -/
def State.boot (s : State) : State :=
  let table := s.base.table
  let err := s.tableErr table
  if err != 0 then s.stage 2 err
  else
    let cfg := tableCfg table
    let s := { s with cfg := cfg, base := { s.base with minVersion := cfg.version } }
    if Config.shake256 s.base.image != cfg.fwd then s.stage 3 4
    else
      let s := { s with control := { s.control with pm := bootPm table cfg.fwd } }.lockColumn
      if s.noSpare then s.stage 6 5 else s.bringUp.stage 7 0

/-- PACKAGE_RESET (R437): everything is at its reset value but the base die's flash and nonvolatile store; then it boots. The
schedule and the free counter are the model's own. -/
def execPackageReset (s : State) : Out :=
  .next { State.reset with base := s.base, free := s.free + 1, sched := s.sched }.boot

/-- BOOT_RETRY (R438): after a failed stage, with what the host has staged (DEDUCED, log 26). -/
def execBootRetry (s : State) : Out :=
  if s.control.bootErr = 0 then .next s
  else
    let b := s.base
    let b := { b with
      table := if b.stagedTable.isEmpty then b.table else b.stagedTable
      image := if b.stagedImage.isEmpty then b.image else b.stagedImage
      stagedTable := [], stagedImage := [] }
    .next { s with base := b, free := s.free + 1 }.boot

/-! ### Containers (R440, R441) -/

/-- A segment entry: VA, SIZE, OFF, X and DIG, and its 128 bytes. -/
structure Segm where
  va : Nat
  size : Nat
  off : Nat
  x : Bool
  dig : BitVec 512
  bytes : List Byte
deriving DecidableEq, Repr

/-- Entry i of a container. -/
def segmentAt (c : List Byte) (i : Nat) : Segm :=
  let e := (c.drop (128 + 128 * i)).take 128
  { va := bytesAt e 0 8, size := bytesAt e 8 8, off := bytesAt e 16 8, x := bitAt (bytesAt e 24 1) 0,
    dig := BitVec.ofNat 512 (bytesAt e 64 64), bytes := e }

/-- An entry is as R440 lays it out; one that is not counts as a malformed header (DEDUCED, log 7). -/
def Segm.ok (g : Segm) : Bool :=
  g.va % 4096 == 0 && decide (1 ≤ g.size) && decide (g.size ≤ 2 ^ 30) && decide (bytesAt g.bytes 24 1 < 2) &&
    zeroAt g.bytes 25 39

/-- A range of physical memory holds poison, or lies in a retired channel: its bytes cannot be read (R434, R443). -/
def State.unreadable (s : State) (pa n : Nat) : Bool := (linesOf pa n).any fun l => s.poisonedAt (64 * l)

/-- The segments of a container, or nothing where its header is malformed, or cannot be read (DESIGN CHOICE, log 7). -/
def State.segments (s : State) (pa : Nat) : Option (List Segm) :=
  let n := s.readPa (pa + 4) 4
  if s.unreadable pa (128 + 128 * n) || s.readPa pa 4 != 0x50584301 || n = 0 || 64 < n || s.readPa (pa + 72) 56 != 0 then none
  else
    let c := s.mem.readBytes pa (128 + 128 * n)
    let gs := (List.range n).map (segmentAt c)
    if gs.all Segm.ok then some gs else none

/-- PKEY. -/
def State.containerKey (s : State) (pa : Nat) : List Byte := s.mem.readBytes (pa + 8) 64

/-- Where the signatures begin: after the last segment byte (DEDUCED, log 7). -/
def sigBase (gs : List Segm) : Nat := (gs.map fun g => g.off + g.size).foldl max 0

/-- A segment copied to its VA, as the front end writes. -/
def State.copySegment (s : State) (asid pa : Nat) (g : Segm) : State :=
  (s.writeRange (frontWho asid) g.va (s.mem.readBytes (pa + g.off) g.size) (linePieces g.va g.size)).1

/-- The bytes at a VA range, line by line; one that no leaf maps, or that cannot be read, reads as nothing. -/
def State.bytesAtVa (s : State) (asid va n : Nat) : List Byte :=
  ((linePieces va n).map fun p =>
    match s.translate (nearSlice 0 p.1) asid p.1 with
    | .ok l =>
      let pa := s.localPa (l.phys p.1)
      if s.poisonedAt pa || (linkOf pa).any s.noCredit.contains then [] else s.mem.readBytes pa p.2
    | .error _ => []).flatten

/-- AM of an address space extended by a segment. -/
def State.extendAm (s : State) (asid : Nat) (key : List Byte) (g : Segm) : State :=
  let am := extendDigest (s.control.am.getD asid 0) (leBytes 64 (Config.shake256 key).toNat ++ leBytes 64 g.dig.toNat)
  { s with control := { s.control with am := s.control.am.set asid am } }

/-- Segment by segment: copied, its digest and signature checked, AM extended; the code and segment of a failure. Bytes of the container
that cannot be read fail the check that needs them (DESIGN CHOICE, log 7). -/
def State.loadSegments (s : State) (asid pa base : Nat) (key : List Byte) : List (Nat × Segm) → State × Option (Nat × Nat)
  | [] => (s, none)
  | (i, g) :: gs =>
    let s := if s.unreadable (pa + g.off) g.size then s else s.copySegment asid pa g
    if s.unreadable (pa + g.off) g.size || Config.shake256 (s.bytesAtVa asid g.va g.size) != g.dig then (s, some (2, i))
    else if s.unreadable (pa + base + 29792 * i) 29792 || !Config.slhVerify key g.bytes (s.mem.readBytes (pa + base + 29792 * i) 29792) then (s, some (3, i))
    else (s.extendAm asid key g).loadSegments asid pa base key gs

/-- X := 1, W := 0 in an entry. -/
def execEntry (e : Nat) : Nat := (if bitAt e 4 then e else e + 2 ^ 4) - (if bitAt e 3 then 2 ^ 3 else 0)

/-- The entries of the leaf that covers a page: one, or the 16 of a 64 KiB group; none where the descriptor cannot be read (R434). -/
def State.leafEntries (s : State) (asid va : Nat) : List Nat :=
  if s.poisonedAt (s.descPa asid) then []
  else
    match s.walk (s.readDesc asid) va with
    | .ok l => if l.size = 16 then (List.range 16).map fun i => l.entry / 128 * 128 + 8 * i else [l.entry]
    | .error _ => []

/-- Every leaf of a range becomes executable and not writable. -/
def State.setExec (s : State) (asid va n : Nat) : State :=
  ((List.range ((n + 4095) / 4096)).map fun i => s.leafEntries asid (va + 4096 * i)).flatten.foldl
    (fun s e => s.deviceWrite e 8 (execEntry (s.readPa e 8))) s

/-- An executable segment: its leaves, and the invalidation of its range. -/
def State.sealSegment (s : State) (asid : Nat) (g : Segm) : State :=
  let s := s.setExec asid g.va g.size
  let v : Inval := { issuer := .loader, asid := asid, start := g.va, len := g.size, arrived := [], acked := [] }
  { s with nextId := s.nextId + 1, invals := s.invals.set s.nextId v }

/-- LOAD_STAT. -/
def State.loadStat (s : State) (x : Nat) : State := { s with control := { s.control with loadStat := BitVec.ofNat 64 x } }

/-- A load has to wait for a line of the header or of an entry (R320). -/
def State.headerWaits (s : State) (pa : Nat) : Bool :=
  (linesOf pa (128 + 128 * min (s.readPa (pa + 4) 4) 64)).any fun l => s.heldBack (64 * l)

/-- A load has to wait for a line that it reads or writes: a copy owns it (R320), or a link holds the access, a UALink for 2 ms at most
(R405). -/
def State.loadWaits (s : State) (asid pa : Nat) (gs : List Segm) : Bool :=
  let source := fun (a n : Nat) => (linesOf a n).any fun l => s.heldBack (64 * l)
  source (pa + sigBase gs) (29792 * gs.length) ||
    gs.any fun g => source (pa + g.off) g.size || s.rangeWaits (frontWho asid) 5 g.va g.size (s.lateLink loadKey) ||
      (g.x && ((List.range ((g.size + 4095) / 4096)).map fun i => s.leafEntries asid (g.va + 4096 * i)).flatten.any s.heldBack)

/-- The load that LOAD_REQ names, in one step; while it has to wait LOAD_STAT stays 0xFF (R441). -/
def State.runLoad (s : State) : State :=
  let pa := s.localPa s.control.loadReq.toNat
  let asid := s.control.loadAsid.toNat
  if s.headerWaits pa then s
  else match s.segments pa with
  | none => s.loadStat 4
  | some gs =>
    if s.loadWaits asid pa gs then gs.foldl (fun s g => s.holdRange loadKey (frontWho asid) 5 g.va g.size) s
    else
      let s := s.unlink loadKey
      let r := s.loadSegments asid pa (sigBase gs) (s.containerKey pa) ((List.range gs.length).zip gs)
      match r.2 with
      | some (code, i) => r.1.loadStat (i * 2 ^ 8 + code)
      | none =>
        let xs := gs.filter fun g => g.x
        (xs.foldl (fun s g => s.sealSegment asid g) r.1).loadStat (if xs.isEmpty then 1 else 0xFF)

/-- CONTAINER_LOAD (R441): it runs until its invalidations are done, and LOAD_STAT then reads 1. -/
def execContainerLoad (pa asid : Nat) (s : State) : Out :=
  if s.control.loadStat = 0xFF || 65536 ≤ asid || !s.open then .next s
  else
    let c := { s.control with loadReq := BitVec.ofNat 64 pa, loadAsid := BitVec.ofNat 64 asid }
    .next (({ s with control := c }.loadStat 0xFF).runLoad)

/-- A load that had to wait goes on. -/
def State.settleLoad (s : State) : State :=
  if s.control.loadStat = 0xFF && !s.invals.any fun v => v.2.issuer == .loader then s.runLoad else s

end Sys2Proof.Machine
end

