-- ==== Sys2Proof/Machine/EvDebug.lean ====
section
/-! DEFINITION. Events of trace and debug (14 R340 to R344, R349 to R358). -/

namespace Sys2Proof.Machine

/-! ### The state of a core (R340) -/

/-- Parked, as R243 lists it. -/
def Wait.parked (w : Wait) : Bool :=
  match w with
  | .quiet | .join | .drop _ | .kill _ | .bar _ _ | .sig _ _ _ | .xinv _ | .borrow _ | .fifo => true
  | _ => false

/-- The code of R340 for a blocking context, as the machine found it when its next instruction would not issue; RUN where it would
(DEDUCED, log 34). -/
def Task.blockCode (t : Task) : Nat := t.rank.block.elim 0 fun b => b.1

/-- The blocking context of a core: live, not suspended or halted by DIP, and its next instruction has waited longest. -/
def State.blocking (s : State) (core : Nat) : Option (Nat × Task) :=
  if (s.core core).dip then none
  else leastBy (fun e => e.2.rank.waiting) (s.ctxs.filter fun e => ctxCore e.1 == core && !e.2.flow.suspended)

/-- The state of a core in a cycle in which nothing issues, and its context. -/
def State.idleState (s : State) (core : Nat) : Nat × Nat :=
  match s.blocking core with
  | some (i, t) => (t.blockCode, ctxNum i)
  | none => (3, 0)

/-! ### The log (R341, R342) -/

/-- Cycles without a record after which an overflow record is written. -/
def overflowAfter : Nat := 2 ^ 26 - 1

/-- LOG_OVERFLOW_RECORD (R341); before the first record of a log there is no interval that could overflow. -/
def execLogOverflowRecord (core : Nat) (s : State) : Out :=
  let c := s.core core
  if c.logging && c.log.started && decide (c.log.lastCycle + overflowAfter ≤ c.cycle) then
    .next (s.addRecord core c.log.st c.log.ctx overflowAfter)
  else .next s

/-- LOG_LINE_FLUSH (R342): at each STIME instant that is a multiple of 1 ms. -/
def execLogLineFlush (core : Nat) (s : State) : Out :=
  if s.stime % 1000000 = 0 then .next (s.flushLine core) else .next s

/-! ### Samples (R344) -/

/-- The two words of a sample. -/
def sampleRecord (core ctx : Nat) (pc : Word) (st cycle : Nat) : Word × Word :=
  (BitVec.ofNat 64 (core % 8 * 2 ^ 61 + ctx % 16 * 2 ^ 57 + (addrField pc).toNat + st % 4), BitVec.ofNat 64 cycle)

/-- A sample enters the cluster's ring, one in a cycle (R343). -/
def State.takeSample (s : State) (core ctx : Nat) (pc : Word) (st : Nat) : State :=
  let n := coreCluster core
  let x := s.cluster n
  let w := x.dbg.smpWptr
  let s := s.setCore core { s.core core with sampled := some (s.core core).cycle }
  s.setCluster n { x with
    sampleRing := x.sampleRing.set (w.toNat % 4096) (sampleRecord core ctx pc st (s.core core).cycle)
    dbg := { x.dbg with smpWptr := w + 1 } }

/-- A cycle in which a core samples, and has not yet. -/
def Core.samples (c : Core) : Bool := c.period != 0 && c.cycle % 2 ^ c.period == 0 && c.sampled != some c.cycle

/-- The instruction charged for a cycle without an issue. -/
def Task.charged (t : Task) : Word := t.rank.block.elim t.regs.pc fun b => b.2

/-- SAMPLE (R344), for a cycle in which the core issues nothing; a cycle that issues samples its own instruction. -/
def execSample (core : Nat) (s : State) : Out :=
  if !(s.core core).samples || s.ctxs.any fun e => ctxCore e.1 == core && e.2.rank.block.isNone then .next s
  else
    match s.blocking core with
    | some (i, t) => .next (s.takeSample core (ctxNum i) t.charged t.blockCode)
    | none => .next (s.takeSample core 0 0 3)

/-! ### Halting and running (R351, R356, R357) -/

/-- Nothing of a core is in flight: no instruction of a context, no product whose cycles still run, and no send that waits for acceptance
(R250). -/
def State.coreDrained (s : State) (core : Nat) : Bool :=
  s.ctxs.all fun e => ctxCore e.1 != core || (s.settledAt e.1 e.2 && !e.2.sending)

/-- DRAINED of a cluster: its halted cores with nothing in flight. -/
def State.drainedBits (s : State) (n : Nat) : BitVec 8 :=
  BitVec.ofNat 8 (((List.range 8).map fun i =>
    if (s.core (8 * n + i)).halted && s.coreDrained (8 * n + i) then 2 ^ i else 0).sum)

/-- DBG_STAT follows what has drained. -/
def State.noteDrained (s : State) (n : Nat) : State :=
  let x := s.cluster n
  s.setCluster n { x with dbg := { x.dbg with drained := s.drainedBits n } }

/-- DBG_HALT (R356); a locked firewall drops it (R439). -/
def execDbgHalt (cluster : Nat) (s : State) : Out :=
  if 640 ≤ cluster || !s.open || s.fwLocked cluster then .next s else .next ((s.dipNow cluster 1 0 0).noteDrained cluster)

/-- DIP (R356) takes hold of a cluster for which it has been asserted: cores, engine, and what has drained. -/
def execDip (cluster : Nat) (s : State) : Out :=
  let x := s.cluster cluster
  if x.dbg.cause = 0 then .next s
  else
    let s := (List.range 8).foldl (fun s i =>
      if (s.core (8 * cluster + i)).halted then s else s.dipCore (8 * cluster + i)) s
    let x := s.cluster cluster
    .next ((s.setCluster cluster { x with
      engine := { x.engine with frozen := true }, dbg := { x.dbg with engf := true } }).noteDrained cluster)

/-- DIP_RELAY (R357). -/
def execDipRelay (cluster : Nat) (s : State) : Out :=
  if s.relays.contains cluster then
    .next ({ s with relays := s.relays.filter (· != cluster) }.dipNow cluster 5 0 0 |>.noteDrained cluster)
  else .next s

/-- With GANG = 1 a context's quantum ends at the multiples of LEN that lie after the release: those that the DIP has met are no ends (R389,
DEDUCED, log 95). -/
def State.regang (s : State) (k : Nat) (t : Task) : Task :=
  if (s.core k).dip && s.control.gang then { t with rank := { t.rank with quantum := s.stime } } else t

/-- A core resumes, and what woke its contexts meanwhile takes effect. -/
def State.runCore (s : State) (k : Nat) : State :=
  let run := fun (e : Nat × Task) => if ctxCore e.1 == k then (e.1, (s.regang k e.2).thaw) else e
  { s.setCore k { s.core k with halted := false, dip := false } with ctxs := s.ctxs.map run }

/-- DBG_RUN (R356): cores and engine resume, and the status and the watch hit record clear. -/
def execDbgRun (cluster : Nat) (s : State) : Out :=
  if 640 ≤ cluster || !s.open then .next s
  else
    let s := (List.range 8).foldl (fun s i => s.runCore (8 * cluster + i)) s
    let x := s.cluster cluster
    .next (s.setCluster cluster { x with
      engine := { x.engine with frozen := false }
      dbg := { x.dbg with cause := 0, bpi := 0, bpCore := 0, dipAt := 0, engf := false, drained := 0, halted := 0, whit := none } })

/-- DBG_STAT_CLEAR (R351). -/
def execDbgStatClear (cluster : Nat) (s : State) : Out :=
  if 640 ≤ cluster || !s.open then .next s
  else .next (s.setCluster cluster { s.cluster cluster with dbg := { (s.cluster cluster).dbg with err := false } })

/-! ### Breakpoints and watchpoints (R353, R354) -/

/-- A breakpoint matches the next instruction of a task of a core. -/
def bpMatches (b : Word × Word) (core : Nat) (t : Task) : Bool :=
  b.1.getLsbD 63 && bitsAt b.1.toNat 55 2 == bitsAt t.regs.pc.toNat 55 2 && bitsAt b.2.toNat 31 16 == t.ident.asid &&
    b.2.getLsbD (core % 8)

/-- A breakpoint of a core's cluster. -/
def State.bpAt (s : State) (core n : Nat) : Word × Word := (s.cluster (coreCluster core)).dbg.bp.toList.getD n (0, 0)

/-- The breakpoints that stop the next issue of a task, outside the skip after a release (DEDUCED, log 35); an instruction that has issued and
waited is not about to issue. -/
def State.bpMatches (s : State) (core : Nat) (t : Task) : List Nat :=
  if (s.core core).bpSkip.contains t.regs.pc || t.flow.issued then []
  else (List.range 16).filter fun i => Sys2Proof.Machine.bpMatches (s.bpAt core i) core t

/-- The lowest of them. -/
def State.bpMatch (s : State) (core : Nat) (t : Task) : Option Nat := (s.bpMatches core t).head?

/-- The lowest of them with ALL = 1, which asserts the DIP (DEDUCED, log 35). -/
def State.bpAll (s : State) (core : Nat) (t : Task) : Option Nat :=
  (s.bpMatches core t).find? fun n => (s.bpAt core n).1.getLsbD 62

/-- A DIP has stopped the core at this very time: a breakpoint it meets in the same cycle is a cause too (R351). -/
def State.dippingNow (s : State) (core : Nat) : Bool :=
  (s.core core).dip && (s.cluster (coreCluster core)).dbg.dipAt == s.stime

/-- BREAKPOINT_MATCH (R353): the core stops before the instruction issues, or the cluster takes a DIP. A turn lets it happen only for the
context whose instruction the core would issue in this cycle. -/
def execBreakpointMatch (core ctx : Nat) (s : State) : Out :=
  match s.taskAt core ctx with
  | none => .next s
  | some (_, t) =>
    let c := s.core core
    let again := s.dippingNow core
    if t.held (if again then { c with halted := false } else c) || (s.bpMatch core t).isNone then .next s
    else
      let all := s.bpAll core t
      let s := s.setCore core { c with bpSkip := c.bpSkip ++ [t.regs.pc] }
      match all with
      | some n => .next ((s.dipNow (coreCluster core) 2 n core).noteDrained (coreCluster core))
      | none => .next (if again then s else (s.haltCore core).noteDrained (coreCluster core))

/-- The first hit is kept until DBG_RUN, and later ones are counted. -/
def Debug.watched (d : Debug) (h : Hit) : Debug :=
  { d with whit := some (match d.whit with
      | some w => { w with count := w.count + 1 }
      | none => { addr := h.addr, who := h.who, index := h.index, acc := h.acc, count := 0 }) }

/-- WATCHPOINT_HIT (R354): the oldest hit is recorded and halts the accessor's cluster; an access from outside halts nothing,
and is recorded in cluster 0's module (DESIGN CHOICE, log 25). -/
def execWatchpointHit (s : State) : Out :=
  match s.hits with
  | [] => .next s
  | h :: hs =>
    let n := h.cluster.getD 0
    let s := { s with hits := hs }.setCluster n { s.cluster n with dbg := (s.cluster n).dbg.watched h }
    .next (if h.cluster.isSome then (s.dipNow n 3 0 0).noteDrained n else s)

/-- WATCHPOINT_WRITE (R354): through any module to the one package copy. -/
def execWatchpointWrite (cluster off : Nat) (value : Word) (s : State) : Out :=
  if 640 ≤ cluster || !s.open || off < 0x200 || 0x2C0 ≤ off || off % 8 != 0 then .next s
  else
    let n := (off - 0x200) / 24
    let w := s.watches.toList.getD n Watch.reset
    let w := match (off - 0x200) / 8 % 3 with
      | 0 => { w with word0 := masked value 0xC0FFFFFFFFFFFFC0 }
      | 1 => { w with len := value }
      | _ => { w with word2 := masked value 0xFFFF }
    .next { s with watches := s.watches.set! n w }

/-! ### Reading and writing state (R358) -/

/-- What a state access finds: a word and what a write of it does, a word that no write reaches, or a refusal. -/
inductive Probe where
  | word (x : Word) (put : Option (Word → State))
  | refused

/-- A word of a context that holds no task, or of a mailbox or ring entry, whose value the spec does not state (DESIGN CHOICE, log 23). -/
def State.unstated (s : State) (core space index : Nat) : Word :=
  Config.freeWord (((s.free * 5120 + core) * 16 + space) * 2 ^ 32 + index)

/-- Word n of a wide value, and the value with it replaced. -/
def wordOf {w : Nat} (x : BitVec w) (n : Nat) : Word := BitVec.ofNat 64 (x.toNat / 2 ^ (64 * n))
def putWord {w : Nat} (x : BitVec w) (n : Nat) (y : Word) : BitVec w :=
  BitVec.ofNat w (x.toNat / 2 ^ (64 * (n + 1)) * 2 ^ (64 * (n + 1)) + y.toNat * 2 ^ (64 * n) + x.toNat % 2 ^ (64 * n))

/-- Context state: 0 free, 1 running, 2 parked, 3 suspended (R358). A context that waits for the grid in mode.m, or in a halt for its merge or its
kills, is none of the parked ones that R243 lists, and reads as running (DESIGN CHOICE, log 110). -/
def Task.stateCode (t : Task) : Word := if t.flow.suspended then 3 else if t.flow.wait.parked then 2 else 1

/-- A control register written by a debugger follows R17 and R18: a refused value leaves it. -/
def State.probeCreg (s : State) (core i : Nat) (t : Task) (n : Nat) (x : Word) : State :=
  match writeMask n with
  | none => s
  | some m =>
    if x &&& ~~~m != 0 || !cregValueOk n x then s
    else if coreReg n then s.writeCoreReg core n x
    else s.setTask i { t with ctl := t.ctl.write n x }

/-- A context with nothing in it, for the registers a core owns. -/
def emptyTask : Task :=
  { regs := { s := Vector.replicate 64 0, p := 0, pc := 0 }, ctl := Ctl.reset,
    ident := { tid := 0, path := 0, asid := 0, queue := 0, launch := none, coreSet := .all, parent := none },
    purse := { hoist := 0, weight := 0, outer := none, quiet := false, spawnIx := 0 }, window := 0, bank := none,
    views := [], token := none, flow := Flow.reset,
    rank := { order := 0, start := 0, quantum := 0, ready := none, waiting := 0, yieldUntil := 0, block := none } }

/-- Control registers whose value is the core's or the package's, whatever the context holds (R40). -/
def sharedReg (n : Nat) : Bool := n == 0x20 || n == 0x21 || n == 0x22 || n == 0x24 || n == 0x25 || n == 0x26 || coreReg n

/-- Spaces 0 to 3, of a context. A write of a state code (space 3, index 1) and of a word of a context without a task changes
nothing (DESIGN CHOICE, log 23). -/
def State.probeCtx (s : State) (core ctx space index : Nat) : Probe :=
  let i := 16 * core + ctx
  let bound := match space with
    | 0 => decide (index < 64)
    | 1 => decide (index < 8)
    | 2 => (s.readCreg core emptyTask index).isSome
    | _ => decide (index < 2)
  if !bound then .refused
  else
    match s.task? i with
    | none =>
      if space = 3 && index = 1 then .word 0 none
      else if space = 2 && sharedReg index then
        .word ((s.readCreg core emptyTask index).getD 0) (some (s.probeCreg core i emptyTask index))
      else .word (s.unstated core space index) none
    | some t =>
      match space with
      | 0 => .word (t.getS (Fin.ofNat 64 index)) (some fun x => s.setTask i (t.setS (Fin.ofNat 64 index) x))
      | 1 => .word (if t.getP index then 1 else 0) (some fun x => s.setTask i (t.setP index (x.getLsbD 0)))
      | 2 => .word ((s.readCreg core t index).getD 0) (some (s.probeCreg core i t index))
      | _ =>
        if index = 0 then .word (addrField t.regs.pc) (some fun x => s.setTask i (t.setPc (addrField x)))
        else .word t.stateCode none

/-- TAG of the request a stream register is bound to; all ones where it is bound to none. -/
def State.streamTag (s : State) (k : Bank) (q : QReg) : Word :=
  match k.q[q] with
  | none => BitVec.allOnes 64
  | some r =>
    match k.bufferOf r with
    | some (_, x) => BitVec.ofNat 64 x.tag
    | none =>
      let all := (s.cores.map fun c => c.2.fifo).flatten ++ (s.clusters.map fun c => c.2.engine.active).flatten
      (all.find? fun x => x.id == r).elim (BitVec.allOnes 64) fun x => BitVec.ofNat 64 x.tag

/-- The TAG of a bound stream register written: of its request, wherever it is, and of its buffer; a value past 8 bits is dropped
(R18), and an unbound register has none. -/
def State.retag (s : State) (core b : Nat) (q : QReg) (x : Word) : State :=
  let k := s.bankOf core b
  match k.q[q] with
  | none => s
  | some r =>
    if 256 ≤ x.toNat then s
    else
      let one := fun (c : CopyReq) => if c.id == r then { c with tag := x.toNat } else c
      let buf := k.buf.map fun o => o.map fun y => if y.req == r then { y with tag := x.toNat } else y
      ({ s with
        cores := s.cores.map fun c => (c.1, { c.2 with fifo := c.2.fifo.map one })
        clusters := s.clusters.map fun c =>
          (c.1, { c.2 with engine := { c.2.engine with active := c.2.engine.active.map one } }) } : State).setBank core b
        { k with buf := buf }

/-- Spaces 4 and 5, of a core's banks. -/
def State.probeBank (s : State) (core space index : Nat) : Probe :=
  if space = 4 then
    let b := index / 4096
    let r : VReg := Fin.ofNat 32 (index % 4096 / 128)
    let k := s.bankOf core b
    if 16384 ≤ index then .refused
    else .word (wordOf (k.getV r) (index % 128)) (some fun x => s.setBank core b (k.setV r (putWord (k.getV r) (index % 128) x)))
  else
    let b := index / 256
    let j := index % 256
    let k := s.bankOf core b
    let m : KReg := Fin.ofNat 8 (j / 16)
    if 1024 ≤ index || 132 ≤ j then .refused
    else if j < 128 then
      .word (wordOf (k.getK m) (j % 16)) (some fun x => s.setBank core b (k.setK m (putWord (k.getK m) (j % 16) x)))
    else
      .word (s.streamTag k (Fin.ofNat 4 (j - 128))) (some (s.retag core b (Fin.ofNat 4 (j - 128))))

/-- Spaces 6 to 9: mailbox, spill ring, log ring and sample ring. -/
def State.probeRing (s : State) (cluster core space index : Nat) : Probe :=
  let x := s.cluster cluster
  match space with
  | 6 => if index < 1024 then .word (s.unstated core 6 index) none else .refused
  | 7 => if index < 8192 then .word (s.unstated core 7 index) none else .refused
  | 8 => if index < 32768 then .word ((x.logRing.getD (index / 8) []).getD (index % 8) 0) none else .refused
  | 9 =>
    let r := x.sampleRing.getD (index / 2) (0, 0)
    if index < 8192 then .word (if index % 2 = 0 then r.1 else r.2) none else .refused
  | _ => .refused

/-- The word DBG_SEL chooses. -/
def State.probe (s : State) (cluster : Nat) : Probe :=
  let sel := (s.cluster cluster).dbg.sel.toNat
  let core := 8 * cluster + sel % 8
  let space := bitsAt sel 15 8
  let index := bitsAt sel 47 16
  if space < 6 && !((s.core core).halted && s.coreDrained core) then .refused
  else if space < 4 then s.probeCtx core (bitsAt sel 6 3) space index
  else if space < 6 then s.probeBank core space index
  else s.probeRing cluster core space index

/-- A refused state access sets ERR. -/
def State.probeError (s : State) (cluster : Nat) : State :=
  s.setCluster cluster { s.cluster cluster with dbg := { (s.cluster cluster).dbg with err := true } }

/-- DBG_DATA (R358): a read returns the word, a write changes it in spaces 0 to 5; a locked firewall drops the write (R439). -/
def execDbgData (cluster : Nat) (write : Option Word) (s : State) : Out :=
  if 640 ≤ cluster || !s.open then .next s
  else
    match write, s.probe cluster with
    | none, .word x _ => .next { s.replyNat x.toNat with free := s.free + 1 }
    | none, .refused => .next ((s.replyNat 0).probeError cluster)
    | some y, .word _ put =>
      if s.fwLocked cluster then .next s
      else if 6 ≤ bitsAt (s.cluster cluster).dbg.sel.toNat 15 8 then .next (s.probeError cluster)
      else .next (put.elim s fun f => f y)
    | some _, .refused => .next (if s.fwLocked cluster then s else s.probeError cluster)

end Sys2Proof.Machine
end

