-- ==== Sys2Proof/Machine/EvSlice.lean ====
section
/-! DEFINITION. Events of the slices: walks (13 R328), directory recalls (11 R290), range invalidations (19 R398, R399)
and the weight store's refresh windows (11 R294). -/

namespace Sys2Proof.Machine

/-- TRANSLATION_WALK (R328): a walk for an address its translating slice does not hold. The slice keeps the descriptor it
read (R397), where it can be read (R434); a walk that is refused caches nothing, and one that a link without credit keeps waits (R408). -/
def execTranslationWalk (slice asid va : Nat) (s : State) : Out :=
  if 640 ≤ slice || 65536 ≤ asid || 2 ^ 56 ≤ va || nearSlice (clusterDie slice) va != slice ||
      (s.cached slice asid va).isSome then .next s
  else
    match s.translate slice asid va with
    | .error (.stalled _) => .next s
    | _ => .next (s.noteTranslation slice asid va)

/-- LINE_RECALL (R290): the directory takes a line back from the slice that holds it; an image line stays (R292), and so does a
pinned one (R376). -/
def execLineRecall (line : Nat) (s : State) : Out :=
  if s.pinnedLine line then .next s else .next (s.recall line)

/-- A leaf lies in an invalidated range; a length of 0 covers every one (R242). -/
def Inval.covers (v : Inval) (l : Leaf) : Bool :=
  v.len == 0 || (decide (l.vbase < v.start + v.len) && decide (v.start < l.vbase + 2 ^ l.size))

/-- A slice after an invalidation arrives: matching leaves go, with LEN 0 the kept descriptor too (R397), and for an
address space torn down its monitors (R398). -/
def Cluster.invalidate (c : Cluster) (v : Inval) (torn : Bool) : Cluster :=
  let all := v.len == 0
  { c with
    cache := c.cache.filter fun e => !(e.1 == v.asid && v.covers e.2)
    descs := if all then c.descs.erase v.asid else c.descs
    monitors := if all && torn then c.monitors.filter fun m => m.2.asid != v.asid else c.monitors
    engineMonitors :=
      if all && torn then c.engineMonitors.filter fun m => m.2.asid != v.asid else c.engineMonitors }

/-- INVALIDATION_ARRIVAL (R399). Walks are single steps of this machine, so none is in progress. -/
def execInvalidationArrival (id slice : Nat) (s : State) : Out :=
  match s.invals.get? id with
  | none => .next s
  | some v =>
    if 640 ≤ slice || v.arrived.contains slice then .next s
    else
      let c := (s.cluster slice).invalidate v (s.spaceInvalid v.asid)
      .next ({ s with invals := s.invals.set id { v with arrived := slice :: v.arrived } }.setCluster slice c)

/-- INVALIDATION_ACK (R399): the accesses a slice translated are performed in the step that translates them, so none is
left to wait for (DESIGN CHOICE, log 14). -/
def execInvalidationAck (id slice : Nat) (s : State) : Out :=
  match s.invals.get? id with
  | none => .next s
  | some v =>
    if !v.arrived.contains slice || v.acked.contains slice then .next s
    else .next { s with invals := s.invals.set id { v with acked := slice :: v.acked } }

/-- An engine without the parked copy requests of an address space. -/
def Engine.unparked (e : Engine) (asid : Nat) : Engine :=
  { e with active := e.active.filter fun q => !(q.stuck.isSome && q.ident.asid == asid) }

/-- A queue without its parked command. -/
def Queue.unparked (x : Queue) : Queue := if x.stuck.isSome then { x with command := none, stuck := none, since := none } else x

/-- The parked requests of an address space, copy requests and commands, are freed without notices (R398). -/
def State.freeParked (s : State) (asid : Nat) : State :=
  { s with
    clusters := s.clusters.map fun c => (c.1, { c.2 with engine := c.2.engine.unparked asid })
    queues := s.queues.map fun q => (q.1, if s.queueAsid q.1 == asid then q.2.unparked else q.2) }

/-- An address space is torn down: its digest is 0 again, and nothing of it stays parked (R398, R441). -/
def State.tornDown (s : State) (asid : Nat) : State :=
  { s.freeParked asid with control := { s.control with am := s.control.am.erase asid }, regions := s.regions.erase asid }

/-- INVALIDATION_DONE (R399): the xinv goes on, the command counts as dispatched, or the load is done (R441). -/
def execInvalidationDone (id : Nat) (s : State) : Out :=
  match s.invals.get? id with
  | none => .next s
  | some v =>
    if v.acked.length < 640 then .next s
    else
      let s := { s with invals := s.invals.erase id }
      let s := if v.len = 0 && s.spaceInvalid v.asid then s.tornDown v.asid else s
      match v.issuer with
      | .task tid => .next (s.mapTask tid fun t => if t.flow.wait == .xinv id then t.wake .yes else t)
      | .command q => .next (s.setQueue q { s.queue q with command := none })
      | .loader =>
        .next (if s.invals.any fun x => x.2.issuer == .loader then s
          else { s with control := { s.control with loadStat := 1 } })

/-- WEIGHT_STORE_REFRESH (R294). -/
def execWeightStoreRefresh (s : State) : Out := .next s.refresh

end Sys2Proof.Machine
end

