-- ==== Sys2Proof/Machine/Fences.lean ====
section
/-! DEFINITION. Fences, handover and range invalidation (08 R240 to R242). -/

namespace Sys2Proof.Machine

/-- A fence: it ends the open windows, after which every access of the context before it has been performed (R240, 12 R307). Of the
accesses in a later window, a fence.rel and a fence.sc make every write a release, in whatever scope (R311). -/
def fenceOp (i : Instr) (releases : Bool) (s : State) : Out :=
  let tr := { traits i with ends := true, orders := true }
  issue tr (fun s t => .next (s.retire tr { t with flow := { t.flow with fenced := t.flow.fenced || releases } })) s

/-- fence.acq (R240). -/
def execFenceAcq (sc : Scope) (s : State) : Out := fenceOp (.fenceAcq sc) false s

/-- fence.rel (R240). -/
def execFenceRel (sc : Scope) (s : State) : Out := fenceOp (.fenceRel sc) true s

/-- fence.sc (R240). -/
def execFenceSc (sc : Scope) (s : State) : Out := fenceOp (.fenceSc sc) true s

/-- The task may hand the region on: it is the current writer, or runs beside the engine that is (R241). -/
def Region.writtenBy (r : Region) (core : Nat) (path : Word) : Bool :=
  if r.engine then coreCluster core == r.writer.toNat else samePrefix r.prefixLen path r.writer

/-- handover (R241). -/
def execHandover (a b : SReg) (s : State) : Out :=
  let tr := { regTraits (.handover a b) 0 [a, b] with ends := true, orders := true }
  issue tr (fun s t =>
    let x := (t.getS a).toNat
    let index := x % 256
    let engine := bitAt x 15
    let l := bitsAt x 14 8
    match (s.regions.getD t.ident.asid []).find? fun r => r.index == index with
    | none => s.trapAt t WRITER (BitVec.ofNat 64 index)
    | some r =>
      if !r.writtenBy (ctxCore s.focus) t.ident.path then s.trapAt t WRITER (BitVec.ofNat 64 index)
      else if (!engine && 64 < l) || (engine && 639 < (t.getS b).toNat) then s.illegal tr t
      else
        match t.need 1 with
        | .borrow => .next (s.sendBorrow s.focus t)
        | .late => s.borrowLate t
        | .refused => s.trapAt t PENNANT 0
        | .ok =>
          let h : Handover :=
            { src := coreOrigin (ctxCore s.focus) t.ident.tid, asid := t.ident.asid, region := index, engine := engine, prefixLen := l, writer := t.getS b,
              hoist := t.purse.hoist }
          .next ({ s with nextId := s.nextId + 1, handovers := s.handovers.set s.nextId h }.retire tr (t.give 1))) s

/-- The checks of a range invalidation (R242). -/
def xinvCause (start len : Nat) : Option Nat :=
  if start % 4096 != 0 || len % 4096 != 0 then some ALIGN
  else if 2 ^ 56 < start + len then some XLATE
  else none

/-- xinv, which exists only in the firmware column: the context parks until every slice has acknowledged (R242). UPC_ADDR of ALIGN and of XLATE
is the start, be it the length that is refused or the end of the range (DESIGN CHOICE, log 44). -/
def execXinv (a b : SReg) (s : State) : Out :=
  let tr := { regTraits (.xinv a b) 0 [a, b] with ends := true }
  issue tr (fun s t =>
    let start := (t.getS a).toNat
    let len := (t.getS b).toNat % 2 ^ 48
    if !s.inColumn (coreCluster (ctxCore s.focus)) then s.illegal tr t
    else if t.flow.woken == .yes then .next (s.retire tr t)
    else
      match xinvCause start len with
      | some code => s.trapAt t code (t.getS a)
      | none =>
        let id := s.nextId
        let v : Inval :=
          { issuer := .task t.ident.tid, asid := bitsAt (t.getS b).toNat 63 48, start := start, len := len,
            arrived := [], acked := [] }
        .next ({ s with nextId := id + 1, invals := s.invals.set id v }.setTask s.focus
          { t with flow := { t.flow with wait := .xinv id, woken := .no } })) s

end Sys2Proof.Machine
end

