-- ==== Sys2Proof/Machine/Vector.lean ====
section
/-! DEFINITION. Vector arithmetic, compares, masks, permutes, conversions, quantization, reductions and scans
(06 R154 to R178, 03 R66 to R82). The 32-bit word and the long form of an operation share one effect. -/

namespace Sys2Proof.Machine

/-! ### One element (R159 to R161, R170, R173) -/

/-- The bitwise operations, which take a floating type as its width (R156). -/
def bitElem (op : VOp) (w x y : Nat) : Option Nat :=
  match op with
  | .vand => some (x &&& y)
  | .vor => some (x ||| y)
  | .vxor => some (x ^^^ y)
  | .vandn => some (x &&& (2 ^ w - 1 - y))
  | _ => none

/-- vabs and vneg of a floating element: a NaN gives the canonical NaN (R159). -/
def signElem (f : FloatFormat) (neg : Bool) (x : Nat) : Res2 Nat :=
  let half := 2 ^ (f.ebits + f.fbits)
  match f.decode x with
  | .nan s => ⟨f.nanEnc, (FVal.nan s).sigFlag⟩
  | _ => ⟨if neg && x / half % 2 == 0 then x + half else x % half, 0⟩

/-- A floating element. -/
def floatElem (f : FloatFormat) (op : VOp) (rm : Rm) (x y z : Nat) : Res2 Nat :=
  match op with
  | .vadd => f.add rm x y
  | .vsub => f.sub rm x y
  | .vmul => f.mul rm x y
  | .vmin => f.minMax false x y
  | .vmax => f.minMax true x y
  | .vabs => signElem f false x
  | .vneg => signElem f true x
  | .vfma => f.fma rm false false x y z
  | .vfms => f.fma rm false true x y z
  | .vfnma => f.fma rm true false x y z
  | .vrcp => f.rcp rm x
  | .vrsq => f.rsq rm x
  | .vscl => f.scale rm x (bitsInt true f.width y)
  | _ => ⟨0, 0⟩

/-- An integer element, or a bin (R63, R78). -/
def intElem (signed : Bool) (w : Nat) (op : VOp) (x y : Nat) : Nat :=
  let sx := bitsInt signed w x
  let sy := bitsInt signed w y
  let sh := y % w
  match op with
  | .vadd => (x + y) % 2 ^ w
  | .vsub => (x + 2 ^ w - y) % 2 ^ w
  | .vmul => x * y % 2 ^ w
  | .vmulh => intBits w (sx * sy / 2 ^ w)
  | .vmin => if sx ≤ sy then x else y
  | .vmax => if sx ≤ sy then y else x
  | .vshl => x * 2 ^ sh % 2 ^ w
  | .vshr => x / 2 ^ sh
  | .vsha => intBits w (bitsInt true w x / 2 ^ sh)
  | .vabs => if bitsInt true w x < 0 then (2 ^ w - x) % 2 ^ w else x
  | .vneg => (2 ^ w - x) % 2 ^ w
  | _ => 0

/-- One element of an operation that works element by element. -/
def elemVal (op : VOp) (ty : Ty) (rm : Rm) (x y z : Nat) : Res2 Nat :=
  match bitElem op ty.bits x y with
  | some r => ⟨r, 0⟩
  | none =>
    match floatFormat ty with
    | some f => floatElem f op rm x y z
    | none => ⟨intElem ty.isSigned ty.bits op x y, 0⟩

/-- An element converted from st to dt (R71, R170). -/
def convertElem (dt st : Ty) (rm : Rm) (x : Nat) : Res2 Nat :=
  match floatFormat st, floatFormat dt with
  | some f, some g => convertFloat f g rm x
  | some f, none => convertToInt f dt.isSigned dt.bits rm x
  | none, some g => convertFromInt g st.isSigned st.bits rm x
  | none, none => ⟨intBits dt.bits (bitsInt st.isSigned st.bits x), 0⟩

/-- A comparison of two elements (R97, R162): of integers the condition code alone fixes the signedness. -/
def cmpElem (cc : Cc) (ty : Ty) (x y : Nat) : Res2 Bool :=
  match floatFormat ty with
  | some f => f.cmp cc x y
  | none =>
    let e := fun (v : Nat) => BitVec.ofInt 64 (bitsInt (decide (cc.code ≤ 5)) ty.bits v)
    ⟨cc.holds (e x) (e y), 0⟩

/-- The residue-feedback step of R72: the narrowed element and the new residue. -/
def feedback (dt st : Ty) (rm : Rm) (x r : Nat) : Res2 (Nat × Nat) :=
  let wide := convertElem .f32 st .rne x
  let u := fmtF32.add .rne wide.val r
  let y := convertElem dt .f32 rm u.val
  let back := convertElem .f32 dt .rne y.val
  let special := match fmtF32.decode u.val, fmtF32.decode back.val with
    | .fin .., .nan _ => true
    | .fin .., _ => false
    | _, _ => true
  let d := fmtF32.sub .rne u.val back.val
  ⟨(y.val, if special then 0 else d.val), wide.flags ||| u.flags ||| y.flags ||| (if special then 0 else d.flags)⟩

/-! ### Whole registers -/

/-- The operands of an instruction, read before anything is written (R154): the effective length, the sources, the
old destination, the mask, the old mask destination, the rounding mode and the task. -/
structure VecIn where
  task : Task
  n : Nat
  x : VWord
  y : VWord
  z : VWord
  k : KWord
  kd : KWord
  rm : Rm

/-- What an instruction writes: a vector register, a mask, or nothing because an operand is refused. -/
inductive VecOut where
  | v (x : VWord) (flags : Flags)
  | k (x : KWord) (flags : Flags)
  | illegal

/-- Elements of z replaced, in order, with the flags of their computations. -/
def overwrite (z : VWord) (w : Nat) (es : List Nat) (f : Nat → Res2 Nat) : VecOut :=
  let r := es.foldl (fun (p : VWord × Flags) e => let o := f e; (elemSet p.1 w e o.val, p.2 ||| o.flags)) (z, 0)
  .v r.1 r.2

/-- A mask with the bits of some elements replaced. -/
def overwriteBits (z : KWord) (es : List Nat) (f : Nat → Res2 Bool) : VecOut :=
  let one := fun (p : KWord × Flags) (e : Nat) =>
    let o := f e
    (if o.val then p.1 ||| BitVec.twoPow 1024 e else p.1 &&& ~~~(BitVec.twoPow 1024 e), p.2 ||| o.flags)
  let r := es.foldl one (z, 0)
  .k r.1 r.2

/-- Elements with their targets: the j-th of the listed elements goes to j (vcompress), or comes from j (vexpand). -/
def packed (es : List Nat) : List (Nat × Nat) := es.zip (List.range es.length)

/-- vqnt of one block (R174): the shift, the codes of its elements, and flags. A block whose scale is unusable raises NV also where none of its
elements is active, as R174's steps have it for every block, though R84 lets only active elements raise flags (DEDUCED, log 86). -/
def quantBlock (g : FloatFormat) (rm : Rm) (scale : FVal) (xs : List FVal) : Nat × List Nat × Flags :=
  let usable := match scale with
    | .fin _ m _ => m != 0
    | _ => false
  if !usable || xs.any FVal.isNan then (15, xs.map fun _ => 0, flagNV)
  else
    match scale with
    | .fin sn sm se =>
      let top := match g.decode g.maxEnc with
        | .fin _ m e => FVal.fin false (m * sm) (e + se)
        | v => v
      let fits := fun (s : Nat) => xs.all fun x => match x with
        | .fin _ m e => decide (compareVal (.fin false m (e + s)) top ≤ 0)
        | _ => false
      let s := ((List.range 15).reverse.find? fits).getD 0
      let code := fun (x : FVal) => match x with
        | .fin n m e =>
          let k := bitLength sm + g.fbits + 4
          g.round rm (n != sn) (m * 2 ^ k / sm) (e + s - se - k) (m * 2 ^ k % sm != 0)
        | .inf n => ⟨g.signed (n != sn) g.maxEnc, flagOF⟩
        | .nan _ => ⟨0, 0⟩
      let cs := xs.map code
      (s, cs.map fun c => c.val, cs.foldl (fun f c => f ||| c.flags) 0)
    | _ => (15, [], flagNV)

/-- vqnt (R174): the codes, and the shift of block b in its nibble of bytes 768 to 799. -/
def quantize (ty : Ty) (i : VecIn) : VecOut :=
  let g := (floatFormat ty).getD fmtF32
  let scale := fmtF32.decode (elemGet i.y 32 0)
  let one := fun (p : VWord × Flags) (b : Nat) =>
    let ks := (List.range 4).map (4 * b + ·) |>.filter fun e => decide (e < i.n) && i.k.getLsbD e
    let q := quantBlock g i.rm scale (ks.map fun e => fmtF32.decode (elemGet i.x 32 e))
    (fieldSet (elemSets p.1 ty.bits (ks.zip q.2.1)) (6144 + 4 * b) 4 q.1, p.2 ||| q.2.2)
  let r := (List.range ((i.n + 3) / 4)).foldl one (i.z, 0)
  .v r.1 r.2

/-- floor(log2 |x|) of a finite nonzero value. -/
def exponentOf : FVal → Option Int
  | .fin _ m e => if m = 0 then none else some (e + (bitLength m : Int) - 1)
  | _ => none

/-- vexpmax (R175): the largest exponent of the active elements, in every i32 element of vd. -/
def expMax (ty : Ty) (i : VecIn) : VecOut :=
  let f := (floatFormat ty).getD fmtF32
  let es := (actives i.k ty i.n).filterMap fun e => exponentOf (f.decode (elemGet i.x ty.bits e))
  let least : Int := if ty == .f64 then -1074 else -149
  let e := match es with
    | [] => least
    | a :: as => as.foldl max a
  .v (elemSets i.z 32 ((List.range 256).map fun j => (j, intBits 32 e))) 0

/-- e_ref of a binning instruction: element 0 of vb as i32 (R171, R176). -/
def VecIn.eref (i : VecIn) : Int := bitsInt true 32 (elemGet i.y 32 0)

/-- vbin (R176, R77). -/
def binElems (ty : Ty) (i : VecIn) : VecOut :=
  let wide := ty == .bs64
  let f := if wide then fmtF64 else fmtF32
  if !erefOk wide i.eref then .illegal
  else overwrite i.z ty.bits (actives i.k ty i.n) fun e => binVal wide i.eref (f.decode (elemGet i.x f.width e))

/-- vcvt from a binned sum (R171, R79). -/
def unbinElems (dt : Ty) (i : VecIn) : VecOut :=
  let wide := dt == .f64
  let f := if wide then fmtF64 else fmtF32
  if !erefOk wide i.eref then .illegal
  else overwrite i.z dt.bits (actives i.k dt i.n) fun e => unbin wide f i.eref (elemGet i.x (binBits wide) e)

/-! ### Reductions and scans (R81, R177, R178) -/

/-- Two elements combined. -/
def redElem (op : RedOp) (ty : Ty) (rm : Rm) (x y : Nat) : Res2 Nat :=
  match op with
  | .add => elemVal .vadd ty rm x y 0
  | .min | .minn => elemVal .vmin ty rm x y 0
  | .max | .maxn => elemVal .vmax ty rm x y 0
  | .and => ⟨x &&& y, 0⟩
  | .or => ⟨x ||| y, 0⟩
  | .xor => ⟨x ^^^ y, 0⟩

/-- The identity written when no element is active (R177). -/
def redIdentity (op : RedOp) (ty : Ty) : Nat :=
  let w := ty.bits
  match op, floatFormat ty with
  | .min, some f | .max, some f => f.nanEnc
  | .min, none => 2 ^ (w - 1) - 1
  | .max, none => 2 ^ (w - 1)
  | .minn, _ | .and, _ => 2 ^ w - 1
  | _, _ => 0

/-- An element read by a reduction or scan: a NaN becomes canonical, and a signalling one sets NV (R66). -/
def leafElem (ty : Ty) (x : Nat) : Res2 Nat :=
  match floatFormat ty with
  | some f => match f.decode x with
    | .nan s => ⟨f.nanEnc, (FVal.nan s).sigFlag⟩
    | _ => ⟨x, 0⟩
  | none => ⟨x, 0⟩

/-- One level of the pairwise tree: an absent side passes the other on (R81). -/
def pairUp (f : Nat → Nat → Res2 Nat) : List (Option Nat) → List (Option Nat) × Flags
  | some a :: some b :: t =>
    let r := f a b
    let q := pairUp f t
    (some r.val :: q.1, r.flags ||| q.2)
  | a :: b :: t =>
    let q := pairUp f t
    ((a.orElse fun _ => b) :: q.1, q.2)
  | l => (l, 0)

/-- The pairwise tree over all positions, by levels. -/
def treeFold (f : Nat → Nat → Res2 Nat) : Nat → List (Option Nat) → Option Nat × Flags
  | 0, l => (l.head?.join, 0)
  | n + 1, l =>
    let p := pairUp f l
    let q := treeFold f n p.1
    (q.1, p.2 ||| q.2)

/-- vred (R177): element 0 takes the result. -/
def reduce (op : RedOp) (ty : Ty) (i : VecIn) : VecOut :=
  let leaf := fun (e : Nat) => if maskAt i.k ty e then some (leafElem ty (elemGet i.x ty.bits e)) else none
  let leaves := (List.range i.n).map leaf
  let fl := leaves.foldl (fun (f : Flags) l => f ||| (l.elim 0 fun r => r.flags)) 0
  let r := treeFold (redElem op ty i.rm) 11 (leaves.map fun l => l.map fun r => r.val)
  .v (elemSet i.z ty.bits 0 (r.1.getD (redIdentity op ty))) (fl ||| r.2)

/-- vscan (R178): each active element takes the combination of the active elements up to it. -/
def scan (op : RedOp) (ty : Ty) (i : VecIn) : VecOut :=
  let one := fun (p : Option Nat × VWord × Flags) (e : Nat) =>
    let l := leafElem ty (elemGet i.x ty.bits e)
    let r := match p.1 with
      | some a => redElem op ty i.rm a l.val
      | none => ⟨l.val, 0⟩
    (some r.val, elemSet p.2.1 ty.bits e r.val, p.2.2 ||| l.flags ||| r.flags)
  let r := (actives i.k ty i.n).foldl one (none, i.z, 0)
  .v r.2.1 r.2.2

/-! ### The effect of an operation -/

/-- The type of the source elements. -/
def srcTyOf (op : VOp) (ty : Ty) : Ty :=
  match op with
  | .vcvt st => st
  | .vqnt => .f32
  | .vbin => if ty == .bs64 then .f64 else .f32
  | _ => ty

/-- The effective length (R36, R170, R174, R176). -/
def lenOf (op : VOp) (ty : Ty) (t : Task) : Nat := min (t.effLen ty) (srcTyOf op ty).vlmax

/-- The result of an operation on its operands. -/
def effectOf (op : VOp) (ty : Ty) (i : VecIn) : VecOut :=
  let w := ty.bits
  let es := actives i.k ty i.n
  match op with
  | .vcmp cc => overwriteBits i.kd es fun e => cmpElem cc ty (elemGet i.x w e) (elemGet i.y w e)
  | .vsel =>
    overwrite i.z w (List.range i.n) fun e => ⟨if maskAt i.k ty e then elemGet i.x w e else elemGet i.y w e, 0⟩
  | .viota => overwrite i.z w es fun e => ⟨e, 0⟩
  | .vcompress => .v (elemSets i.z w ((packed es).map fun p => (p.2, elemGet i.x w p.1))) 0
  | .vexpand => .v (elemSets i.z w ((packed es).map fun p => (p.1, elemGet i.x w p.2))) 0
  | .vperm =>
    overwrite i.z w es fun e =>
      let j := elemGet i.y w e
      ⟨if j < i.n then elemGet i.x w j else 0, 0⟩
  | .vcvt st => overwrite i.z w es fun e => convertElem ty st i.rm (elemGet i.x st.bits e)
  | .vqnt => quantize ty i
  | .vexpmax => expMax ty i
  | .vbin => binElems ty i
  | .vred op => reduce op ty i
  | .vscan op => scan op ty i
  | op => overwrite i.z w es fun e => elemVal op ty i.rm (elemGet i.x w e) (elemGet i.y w e) (elemGet i.z w e)

/-- The sources an operation reads. -/
def srcsOf (op : VOp) (a b : VSrc) : List VSrc :=
  if op == .viota then [] else if op.isUnary then [a] else [a, b]

/-- The cross-lane operations (R59, R185). -/
def crossLane : VOp → Bool
  | .vperm | .vred _ | .vscan _ | .vcompress | .vexpand => true
  | _ => false

/-- Cycles of the array (R48). -/
def cyclesOf (op : VOp) (ty : Ty) : Nat :=
  if op == .vrcp || op == .vrsq || 64 ≤ ty.bits || 64 ≤ (srcTyOf op ty).bits then 2 else 1

/-! ### Issue of a vector instruction -/

/-- v registers and stream registers among sources. -/
def vRegs (l : List VSrc) : List Nat := l.filterMap fun x => match x with
  | .v r => some r.val
  | .q _ => none
def qRegs (l : List VSrc) : List QReg := l.filterMap fun x => match x with
  | .v _ => none
  | .q q => some q

/-- Registers as resources. -/
def vRes (l : List Nat) : List Res := l.map .v
def qRes (q : QReg) : Res := .q q.val
def kRes (k : KReg) : List Res := if k = 0 then [] else [.k k.val]

/-- Cycles to the result of a vector instruction that takes the array for n (R48). -/
def vecLatency (n : Nat) : Nat := if n = 1 then 6 else 8

/-- The traits of a vector instruction: with effective length 0 it raises no trap (R36, R154), so it then needs no bank, touches
nothing and reads no stream. Its flags are there with its result, whether or not it can raise one (R49, DESIGN CHOICE, log 97). -/
def vecTraits (i : Instr) (bytes : Nat) (n : Task → Nat) (srcs : List VSrc) (regs : List Nat) (masks : List KReg)
    (cross : Bool) (cycles : Nat) : Traits :=
  { traits i with
    bytes := bytes, bank := fun t => n t != 0, array := cycles, event := 9
    streams := fun t => if n t = 0 then [] else qRegs srcs
    touched := fun t => if n t = 0 then [] else vRes (vRegs srcs ++ regs) ++ (qRegs srcs).map qRes ++ (masks.map kRes).flatten
    results := if cycles = 0 then [] else (vRes regs ++ [Res.flags]).map fun r => (some r, vecLatency cycles)
    modeFault := fun t => n t != 0 && cross && (vRegs srcs ++ regs).any fun r => decide (r < t.window) }

/-- The bank after its sources are read, each stream register once (R37, R158). -/
def Bank.takes (b : Bank) (n w : Nat) (srcs : List VSrc) : Bank :=
  srcs.eraseDups.foldl (fun b x => b.take n w x) b

/-- The destination written, and flags raised. -/
def State.vecDone (s : State) (tr : Traits) (t : Task) (b : Bank) (flags : Flags) : Out :=
  .next ((s.setBank (ctxCore s.focus) (t.bank.getD 0) b).retire tr (t.raiseFlags flags))

/-- A vector instruction: it waits for its stream elements, reads all its operands, and writes its result. A stream gives n elements of the
width w of the sources, whatever the width of the result (R171, R176, DESIGN CHOICE, log 65). -/
def vecRun (tr : Traits) (n : Task → Nat) (w : Nat) (srcs : List VSrc) (d : VReg) (k : KReg) (rc : Rc)
    (effect : VecIn → VecOut) (s : State) : Out :=
  issue tr (fun s t =>
    if n t = 0 then .next (s.retire { tr with results := [] } t)
    else
      let b := s.bankOf (ctxCore s.focus) (t.bank.getD 0)
      if !srcs.all (b.arrived (n t) w) then .next s
      else
        let src := fun (j : Nat) => (srcs[j]?).elim 0 (b.srcVal (n t) w)
        let kd := Fin.ofNat 8 d.val
        let i : VecIn :=
          { task := t, n := n t, x := src 0, y := src 1, z := b.getV d, k := b.getK k, kd := b.getK kd, rm := t.rounding rc }
        let b := b.takes (n t) w srcs
        match effect i with
        | .illegal => s.illegal tr t
        | .v x f => s.vecDone tr t (b.setV d x) f
        | .k x f => s.vecDone tr t (b.setK kd x) f) s

/-- An operation in its 32-bit word or its long form. -/
def vecOp (i : Instr) (bytes : Nat) (op : VOp) (ty : Ty) (d : VReg) (a b : VSrc) (k : KReg) (rc : Rc) (s : State) : Out :=
  let srcs := srcsOf op a b
  let isCmp := match op with
    | .vcmp _ => true
    | _ => false
  let regs := if isCmp then [] else [d.val]
  let masks := if isCmp then [k, Fin.ofNat 8 d.val] else [k]
  let latency := if op == .vrcp || op == .vrsq then 12 else vecLatency (cyclesOf op ty)
  let tr := vecTraits i bytes (lenOf op ty) srcs regs masks (crossLane op) (cyclesOf op ty)
  vecRun (tr.after latency ((if isCmp then kRes (Fin.ofNat 8 d.val) else vRes [d.val]) ++ [.flags])) (lenOf op ty) (srcTyOf op ty).bits srcs
    d k rc (effectOf op ty) s

/-- The mask group on all 1,024 bits, whatever VL holds (R163). -/
def maskOp (i : Instr) (bytes : Nat) (op : VOp) (d a b : KReg) (s : State) : Out :=
  let tr := { traits i with
    bytes := bytes, bank := fun _ => true, event := 9, touched := fun _ => kRes d ++ kRes a ++ kRes b
    results := (kRes d).map fun r => (some r, 2) }
  issue tr (fun s t =>
    let k := s.bankOf (ctxCore s.focus) (t.bank.getD 0)
    let x := k.getK a
    let y := k.getK b
    let r := match op with
      | .kand => x &&& y
      | .kor => x ||| y
      | .kxor => x ^^^ y
      | .kandn => x &&& ~~~y
      | _ => x
    s.vecDone tr t (k.setK d r) 0) s

/-! ### The 32-bit words (R105, R106); a floating one rounds as RND says (R157) -/

/-- vadd (R159). -/
def execVadd (ty : Ty) (d a b : VReg) (k : KReg) (s : State) : Out :=
  vecOp (.vadd ty d a b k) 4 .vadd ty d (.v a) (.v b) k .dyn s

/-- vsub (R159). -/
def execVsub (ty : Ty) (d a b : VReg) (k : KReg) (s : State) : Out :=
  vecOp (.vsub ty d a b k) 4 .vsub ty d (.v a) (.v b) k .dyn s

/-- vmul (R159). -/
def execVmul (ty : Ty) (d a b : VReg) (k : KReg) (s : State) : Out :=
  vecOp (.vmul ty d a b k) 4 .vmul ty d (.v a) (.v b) k .dyn s

/-- vmulh (R159). -/
def execVmulh (ty : Ty) (d a b : VReg) (k : KReg) (s : State) : Out :=
  vecOp (.vmulh ty d a b k) 4 .vmulh ty d (.v a) (.v b) k .dyn s

/-- vmin (R159, R82). -/
def execVmin (ty : Ty) (d a b : VReg) (k : KReg) (s : State) : Out :=
  vecOp (.vmin ty d a b k) 4 .vmin ty d (.v a) (.v b) k .dyn s

/-- vmax (R159, R82). -/
def execVmax (ty : Ty) (d a b : VReg) (k : KReg) (s : State) : Out :=
  vecOp (.vmax ty d a b k) 4 .vmax ty d (.v a) (.v b) k .dyn s

/-- vand (R159). -/
def execVand (ty : Ty) (d a b : VReg) (k : KReg) (s : State) : Out :=
  vecOp (.vand ty d a b k) 4 .vand ty d (.v a) (.v b) k .dyn s

/-- vor (R159). -/
def execVor (ty : Ty) (d a b : VReg) (k : KReg) (s : State) : Out :=
  vecOp (.vor ty d a b k) 4 .vor ty d (.v a) (.v b) k .dyn s

/-- vxor (R159). -/
def execVxor (ty : Ty) (d a b : VReg) (k : KReg) (s : State) : Out :=
  vecOp (.vxor ty d a b k) 4 .vxor ty d (.v a) (.v b) k .dyn s

/-- vandn (R159). -/
def execVandn (ty : Ty) (d a b : VReg) (k : KReg) (s : State) : Out :=
  vecOp (.vandn ty d a b k) 4 .vandn ty d (.v a) (.v b) k .dyn s

/-- vshl (R159). -/
def execVshl (ty : Ty) (d a b : VReg) (k : KReg) (s : State) : Out :=
  vecOp (.vshl ty d a b k) 4 .vshl ty d (.v a) (.v b) k .dyn s

/-- vshr (R159). -/
def execVshr (ty : Ty) (d a b : VReg) (k : KReg) (s : State) : Out :=
  vecOp (.vshr ty d a b k) 4 .vshr ty d (.v a) (.v b) k .dyn s

/-- vsha (R159). -/
def execVsha (ty : Ty) (d a b : VReg) (k : KReg) (s : State) : Out :=
  vecOp (.vsha ty d a b k) 4 .vsha ty d (.v a) (.v b) k .dyn s

/-- vfma: va x vb + vd, rounded once (R160). -/
def execVfma (ty : Ty) (d a b : VReg) (k : KReg) (s : State) : Out :=
  vecOp (.vfma ty d a b k) 4 .vfma ty d (.v a) (.v b) k .dyn s

/-- vfms: va x vb - vd, rounded once (R160). -/
def execVfms (ty : Ty) (d a b : VReg) (k : KReg) (s : State) : Out :=
  vecOp (.vfms ty d a b k) 4 .vfms ty d (.v a) (.v b) k .dyn s

/-- vfnma: -(va x vb) + vd, rounded once (R160). -/
def execVfnma (ty : Ty) (d a b : VReg) (k : KReg) (s : State) : Out :=
  vecOp (.vfnma ty d a b k) 4 .vfnma ty d (.v a) (.v b) k .dyn s

/-- vsel: the mask chooses (R166). -/
def execVsel (ty : Ty) (d a b : VReg) (k : KReg) (s : State) : Out :=
  vecOp (.vsel ty d a b k) 4 .vsel ty d (.v a) (.v b) k .dyn s

/-- vperm (R168). -/
def execVperm (ty : Ty) (d a b : VReg) (k : KReg) (s : State) : Out :=
  vecOp (.vperm ty d a b k) 4 .vperm ty d (.v a) (.v b) k .dyn s

/-- vscl (R173). -/
def execVscl (ty : Ty) (d a b : VReg) (k : KReg) (s : State) : Out :=
  vecOp (.vscl ty d a b k) 4 .vscl ty d (.v a) (.v b) k .dyn s

/-- vqnt (R174). -/
def execVqnt (ty : Ty) (d a b : VReg) (k : KReg) (s : State) : Out :=
  vecOp (.vqnt ty d a b k) 4 .vqnt ty d (.v a) (.v b) k .dyn s

/-- vbin (R176). -/
def execVbin (ty : Ty) (d a b : VReg) (k : KReg) (s : State) : Out :=
  vecOp (.vbin ty d a b k) 4 .vbin ty d (.v a) (.v b) k .dyn s

/-- vabs (R159). -/
def execVabs (ty : Ty) (d a : VReg) (k : KReg) (s : State) : Out :=
  vecOp (.vabs ty d a k) 4 .vabs ty d (.v a) (.v 0) k .dyn s

/-- vneg (R159). -/
def execVneg (ty : Ty) (d a : VReg) (k : KReg) (s : State) : Out :=
  vecOp (.vneg ty d a k) 4 .vneg ty d (.v a) (.v 0) k .dyn s

/-- vrcp: the correctly rounded reciprocal (R161). -/
def execVrcp (ty : Ty) (d a : VReg) (k : KReg) (s : State) : Out :=
  vecOp (.vrcp ty d a k) 4 .vrcp ty d (.v a) (.v 0) k .dyn s

/-- vrsq: the correctly rounded reciprocal square root (R161). -/
def execVrsq (ty : Ty) (d a : VReg) (k : KReg) (s : State) : Out :=
  vecOp (.vrsq ty d a k) 4 .vrsq ty d (.v a) (.v 0) k .dyn s

/-- vcompress (R167). -/
def execVcompress (ty : Ty) (d a : VReg) (k : KReg) (s : State) : Out :=
  vecOp (.vcompress ty d a k) 4 .vcompress ty d (.v a) (.v 0) k .dyn s

/-- vexpand (R167). -/
def execVexpand (ty : Ty) (d a : VReg) (k : KReg) (s : State) : Out :=
  vecOp (.vexpand ty d a k) 4 .vexpand ty d (.v a) (.v 0) k .dyn s

/-- vexpmax (R175). -/
def execVexpmax (ty : Ty) (d a : VReg) (k : KReg) (s : State) : Out :=
  vecOp (.vexpmax ty d a k) 4 .vexpmax ty d (.v a) (.v 0) k .dyn s

/-- vcmp (R162). -/
def execVcmp (cc : Cc) (ty : Ty) (kd : KReg) (a b : VReg) (k : KReg) (s : State) : Out :=
  vecOp (.vcmp cc ty kd a b k) 4 (.vcmp cc) ty (Fin.ofNat 32 kd.val) (.v a) (.v b) k .dyn s

/-- viota (R166). -/
def execViota (ty : Ty) (d : VReg) (k : KReg) (s : State) : Out :=
  vecOp (.viota ty d k) 4 .viota ty d (.v 0) (.v 0) k .dyn s

/-- vcvt (R170, R71). -/
def execVcvt (dt st : Ty) (d a : VReg) (k : KReg) (s : State) : Out :=
  vecOp (.vcvt dt st d a k) 4 (.vcvt st) dt d (.v a) (.v 0) k .dyn s

/-- vred (R177, R81). -/
def execVred (op : RedOp) (ty : Ty) (d a : VReg) (k : KReg) (s : State) : Out :=
  vecOp (.vred op ty d a k) 4 (.vred op) ty d (.v a) (.v 0) k .dyn s

/-- vscan (R178, R81). -/
def execVscan (op : RedOp) (ty : Ty) (d a : VReg) (k : KReg) (s : State) : Out :=
  vecOp (.vscan op ty d a k) 4 (.vscan op) ty d (.v a) (.v 0) k .dyn s

/-- kand (R163). -/
def execKand (d a b : KReg) (s : State) : Out := maskOp (.kand d a b) 4 .kand d a b s

/-- kor (R163). -/
def execKor (d a b : KReg) (s : State) : Out := maskOp (.kor d a b) 4 .kor d a b s

/-- kxor (R163). -/
def execKxor (d a b : KReg) (s : State) : Out := maskOp (.kxor d a b) 4 .kxor d a b s

/-- kandn (R163). -/
def execKandn (d a b : KReg) (s : State) : Out := maskOp (.kandn d a b) 4 .kandn d a b s

/-- kmov (R163). -/
def execKmov (d a : KReg) (s : State) : Out := maskOp (.kmov d a) 4 .kmov d a 0 s

/-! ### The long forms (R115, R116) -/

/-- The mask register a v field names. -/
def maskField : VSrc → KReg
  | .v r => Fin.ofNat 8 r.val
  | .q _ => 0

/-- The long form of sub 0x10 (R116): stream sources and a rounding code. -/
def execVectorOpLong (op : VOp) (ty : Ty) (d : VReg) (a b : VSrc) (k : KReg) (rc : Rc) (s : State) : Out :=
  let i : Instr := .vectorOpLong op ty d a b k rc
  if op.isMask then maskOp i 8 op (Fin.ofNat 8 d.val) (maskField a) (maskField b) s else vecOp i 8 op ty d a b k rc s

/-- vcvt.rfb (R172): vr holds f32 residues and is a source and a destination. -/
def execVcvtRfb (dt st : Ty) (d : VReg) (a : VSrc) (vr : VReg) (k : KReg) (rc : Rc) (s : State) : Out :=
  let n := fun (t : Task) => min (min (t.effLen dt) st.vlmax) 256
  let tr := vecTraits (.vcvtRfb dt st d a vr k rc) 8 n [a] [d.val, vr.val] [k] false 1
  issue tr (fun s t =>
    if n t = 0 then .next (s.retire { tr with results := [] } t)
    else
      let b := s.bankOf (ctxCore s.focus) (t.bank.getD 0)
      if !b.arrived (n t) st.bits a then .next s
      else
        let x := b.srcVal (n t) st.bits a
        let r := b.getV vr
        let one := fun (p : VWord × VWord × Flags) (e : Nat) =>
          let o := feedback dt st (t.rounding rc) (elemGet x st.bits e) (elemGet r 32 e)
          (elemSet p.1 dt.bits e o.val.1, elemSet p.2.1 32 e o.val.2, p.2.2 ||| o.flags)
        let o := (actives (b.getK k) dt (n t)).foldl one (b.getV d, r, 0)
        s.vecDone tr t (((b.take (n t) st.bits a).setV d o.1).setV vr o.2.1) o.2.2) s

/-- vcvt from bs32 or bs64 (R171). -/
def execVcvtBs (dt : Ty) (d : VReg) (a b : VSrc) (k : KReg) (s : State) : Out :=
  let st : Ty := if dt == .f64 then .bs64 else .bs32
  let n := fun (t : Task) => min (t.effLen dt) st.vlmax
  vecRun (vecTraits (.vcvtBs dt d a b k) 8 n [a, b] [d.val] [k] false 2) n st.bits [a, b] d k (.fixed .rne)
    (unbinElems dt) s

/-! ### Lane moves and scalar transfers (R164 to R166, R169) -/

/-- The traits of a form that also names scalar registers. -/
def Traits.naming (tr : Traits) (n : Task → Nat) (regs : List SReg) : Traits :=
  { tr with touched := fun t => tr.touched t ++ if n t = 0 then [] else (regs.map sRes).flatten }

/-- vslide.up (R169). -/
def execVslideUp (ty : Ty) (d : VReg) (a : VSrc) (b : SReg) (k : KReg) (s : State) : Out :=
  let n := fun (t : Task) => t.effLen ty
  let tr := (vecTraits (.vslideUp ty d a b k) 8 n [a] [d.val] [k] true (cyclesOf .vperm ty)).naming n [b]
  vecRun tr n ty.bits [a] d k (.fixed .rne) (fun i =>
    let m := (i.task.getS b).toNat
    overwrite i.z ty.bits ((actives i.k ty i.n).filter fun e => decide (m ≤ e)) fun e =>
      ⟨elemGet i.x ty.bits (e - m), 0⟩) s

/-- vslide.dn (R169). -/
def execVslideDn (ty : Ty) (d : VReg) (a : VSrc) (b : SReg) (k : KReg) (s : State) : Out :=
  let n := fun (t : Task) => t.effLen ty
  let tr := (vecTraits (.vslideDn ty d a b k) 8 n [a] [d.val] [k] true (cyclesOf .vperm ty)).naming n [b]
  vecRun tr n ty.bits [a] d k (.fixed .rne) (fun i =>
    let m := (i.task.getS b).toNat
    overwrite i.z ty.bits (actives i.k ty i.n) fun e => ⟨if e + m < i.n then elemGet i.x ty.bits (e + m) else 0, 0⟩) s

/-- vbcast (R166). -/
def execVbcast (ty : Ty) (d : VReg) (a : SReg) (k : KReg) (s : State) : Out :=
  let n := fun (t : Task) => t.effLen ty
  let tr := (vecTraits (.vbcast ty d a k) 4 n [] [d.val] [k] false (cyclesOf .vperm ty)).naming n [a]
  vecRun tr n ty.bits [] d k (.fixed .rne) (fun i =>
    overwrite i.z ty.bits (actives i.k ty i.n) fun _ => ⟨(i.task.getS a).toNat % 2 ^ ty.bits, 0⟩) s

/-- vins (R169): VL and the mask play no part. -/
def execVins (ty : Ty) (d : VReg) (a b : SReg) (s : State) : Out :=
  let one := fun (_ : Task) => 1
  let tr := (vecTraits (.vins ty d a b) 8 one [] [d.val] [] false (cyclesOf .vperm ty)).naming one [a, b]
  vecRun tr one ty.bits [] d 0 (.fixed .rne) (fun i =>
    let e := (i.task.getS b).toNat
    .v (if e < ty.vlmax then elemSet i.z ty.bits e ((i.task.getS a).toNat % 2 ^ ty.bits) else i.z) 0) s

/-- vext (R169): a stream gives n elements, and VL plays no other part; an element of a stream from n on, of which the spec states no
value, reads as 0 (DESIGN CHOICE, log 64). An unbound stream register is ILLEGAL at VL 0 too: R37 says it of every read of one, and the element is
chosen by s[b] (R169, DEDUCED, log 87). -/
def execVext (ty : Ty) (d : SReg) (a : VSrc) (b : SReg) (s : State) : Out :=
  let one := fun (_ : Task) => 1
  let tr := ((vecTraits (.vext ty d a b) 8 one [a] [] [] false (cyclesOf .vperm ty)).naming one [d, b]).after
    (vecLatency (cyclesOf .vperm ty)) (sRes d)
  issue tr (fun s t =>
    let w := ty.bits
    let n := t.effLen ty
    let k := s.bankOf (ctxCore s.focus) (t.bank.getD 0)
    if !k.arrived n w a then .next s
    else
      let e := (t.getS b).toNat
      let r := if e < ty.vlmax then extend ty.isSigned w (elemGet (k.srcVal n w a) w e) else 0
      s.vecDone tr (t.setS d r) (k.take n w a) 0) s

/-- vsetl (R165). -/
def execVsetl (ty : Ty) (d a : SReg) (s : State) : Out :=
  let tr := { regTraits (.vsetl ty d a) 0 [d, a] with event := 9 }
  issue tr (fun s t =>
    let x := BitVec.ofNat 64 (min (t.getS a).toNat ty.vlmax)
    .next (s.retire tr ({ t with ctl := { t.ctl with vl := x } }.setS d x))) s

/-- The mask bits that govern elements 0 to n - 1 (R164). -/
def maskBits (ty : Ty) (n : Nat) : List Nat := List.range (if ty == .e2m1 then (n + 1) / 2 else n)

/-- An instruction that reads a mask into s[d] (R164): it writes s[d] even when n is zero, and then reads no mask and raises no trap, also in a
task without a bank: R36 over R38 (DEDUCED, log 49). -/
def maskRead (i : Instr) (ty : Ty) (d : SReg) (k : KReg) (f : List Nat → Word) (s : State) : Out :=
  let tr := { regTraits i 0 [d] with
    bank := fun t => t.effLen ty != 0, event := 9, touched := fun t => sRes d ++ if t.effLen ty = 0 then [] else kRes k, results := (sRes d).map fun r => (some r, 4) }
  issue tr (fun s t =>
    let m := (s.bankOf (ctxCore s.focus) (t.bank.getD 0)).getK k
    .next (s.retire tr (t.setS d (f ((maskBits ty (t.effLen ty)).filter m.getLsbD))))) s

/-- vpopk (R164). -/
def execVpopk (ty : Ty) (d : SReg) (k : KReg) (s : State) : Out :=
  maskRead (.vpopk ty d k) ty d k (fun es => BitVec.ofNat 64 es.length) s

/-- vfirstk (R164): the first element of a byte counts for e2m1. -/
def execVfirstk (ty : Ty) (d : SReg) (k : KReg) (s : State) : Out :=
  let first := fun (es : List Nat) => match es.head? with
    | some e => BitVec.ofNat 64 (if ty == .e2m1 then 2 * e else e)
    | none => BitVec.allOnes 64
  maskRead (.vfirstk ty d k) ty d k first s

end Sys2Proof.Machine
end

