-- ==== Sys2Proof/Machine/Matrix.lean ====
section
/-! DEFINITION. Matrix products, mode switches and tile control (07 R187 to R202): operands are exact values, blocks of
four are summed exactly, and each block is added to the accumulator once (R80). -/

namespace Sys2Proof

/-- The element type of a format that has one. -/
def Fmt.ty : Fmt → Ty
  | .i8 => .i8
  | .f16 => .f16
  | .bf16 => .bf16
  | .f32 => .f32
  | .f64 => .f64
  | .e4m3 | .m8 => .e4m3
  | .e5m2 => .e5m2
  | .e2m1 | .m4 => .e2m1
  | .q8 | .q4 => .n8
  | .bs32 => .bs32

end Sys2Proof

namespace Sys2Proof.Machine

/-! ### Tiles as lists of elements in row order (R57) -/

/-- Elements packed into a register. -/
def packNat (w : Nat) : List Nat → Nat
  | [] => 0
  | x :: xs => x % 2 ^ w + 2 ^ w * packNat w xs

/-- The 256 elements of a tile. -/
def Bank.tile (b : Bank) (w j : Nat) : List Nat :=
  ((tileRegs w j).map fun r =>
    let v := b.getV (Fin.ofNat 32 r)
    (List.range (8192 / w)).map fun e => elemGet v w e).flatten

/-- The registers of a tile with new elements. -/
def tileWrites (w j : Nat) (xs : List Nat) : List (Nat × VWord) :=
  let per := 8192 / w
  (tileRegs w j).zipIdx.map fun r => (r.1, BitVec.ofNat 8192 (packNat w ((xs.drop (per * r.2)).take per)))

/-- The bank with a tile replaced. -/
def Bank.setTile (b : Bank) (w j : Nat) (xs : List Nat) : Bank :=
  (tileWrites w j xs).foldl (fun k r => k.setV (Fin.ofNat 32 r.1) r.2) b

/-- A tile lies inside the window (R57); none does in V mode. -/
def Task.tileIn (t : Task) (w j : Nat) : Bool := (tileRegs w j).all fun r => decide (r < t.window)

/-! ### Accumulators (R80, R196) -/

/-- An accumulator format. -/
inductive Acc where
  | i32
  | f32
  | f64
  | bs (eref : Int)
deriving DecidableEq, Repr

/-- Width of an accumulator. -/
def Acc.bits : Acc → Nat
  | .i32 | .f32 => 32
  | .f64 => 64
  | .bs _ => 128

/-- EREF of MFMT (R191). -/
def mfmtEref (mfmt : Word) : Int := bitsInt true 16 (bitsAt mfmt.toNat 31 16)

/-- The accumulator of a product: MFMT.ACC chooses for floating formats other than f64 (R191). -/
def accOf (fmt : Fmt) (t : Task) : Acc :=
  match fmt with
  | .i8 => .i32
  | .f64 => .f64
  | _ => if t.ctl.mfmt.getLsbD 0 then .bs (mfmtEref t.ctl.mfmt) else .f32

/-- The integer of an exact value without fraction. -/
def FVal.toInt : FVal → Int
  | .fin n m e => if n then -((m * 2 ^ e.toNat : Nat) : Int) else (m * 2 ^ e.toNat : Nat)
  | _ => 0

/-- One block added to an accumulator. -/
def Acc.add (a : Acc) (saturate : Bool) (c : Nat) (p : FVal) : Res2 Nat :=
  match a with
  | .i32 => ⟨intBits 32 (c + FVal.toInt p), 0⟩
  | .f32 => accumulate fmtF32 saturate c p
  | .f64 => accumulate fmtF64 saturate c p
  | .bs eref =>
    let b := binVal false eref p
    ⟨(c + b.val) % 2 ^ 128, b.flags⟩

/-! ### Operands (R187, R188, R194, R199) -/

/-- K elements of w bits from byte `off` of a register. -/
def rowOf (b : Bank) (reg off w k : Nat) : List Nat :=
  let x := (b.getV (Fin.ofNat 32 reg)).toNat / 2 ^ (8 * off)
  (List.range k).map fun e => x / 2 ^ (w * e) % 2 ^ w

/-- An integer as an exact value. -/
def intVal (x : Int) : FVal := .fin (decide (x < 0)) x.natAbs 0

/-- An operand element: the array takes a bf16 subnormal as a zero of its sign (R67). -/
def operand (ty : Ty) (x : Nat) : FVal :=
  match floatFormat ty with
  | some f =>
    match f.decode x with
    | .fin n m e => if ty == .bf16 && decide (m < 2 ^ f.fbits) then .fin n 0 e else .fin n m e
    | v => v
  | none => intVal (bitsInt ty.isSigned ty.bits x)

/-- A list in blocks of four. -/
def fours {α : Type} : List α → List (List α)
  | a :: b :: c :: d :: t => [a, b, c, d] :: fours t
  | _ => []

/-- K of a format (R187). -/
def depth (fmt : Fmt) : Nat :=
  match fmt with
  | .m8 | .q8 => 64
  | .m4 | .q4 => 128
  | f => 512 / f.ty.bits

/-- A row, or a column of B, of mma and mmag. -/
def plainRow (b : Bank) (fmt : Fmt) (reg off : Nat) : List FVal :=
  (rowOf b reg off fmt.ty.bits (depth fmt)).map (operand fmt.ty)

/-- Row or column i of an m8 or m4 run, with the shift of each block (R187, R188). -/
def scaledRow (b : Bank) (fmt : Fmt) (reg i : Nat) : List (List FVal × Nat) :=
  let per := if fmt == .m8 then 4 else 2
  let blocks := depth fmt / 4
  let xs := fours (plainRow b fmt (reg + i / per) (64 * (i % per)))
  let shifts := (rowOf b (reg + i / per) 768 4 64).drop (blocks * (i % per))
  xs.zip shifts

/-- Row i of the activations of mmaq (R187), in the format AFMT gives (R191). -/
def activations (b : Bank) (mfmt : Word) (fmt : Fmt) (reg i : Nat) : List FVal :=
  let ty : Ty := if bitsAt mfmt.toNat 11 8 = 12 then .e4m3 else if bitsAt mfmt.toNat 11 8 = 13 then .e5m2 else .i8
  (if fmt == .q8 then rowOf b reg (64 * i) 8 64 else rowOf b (reg + i / 8) (128 * (i % 8)) 8 128).map (operand ty)

/-- Column j of the codes of mmaq, each block with its group (R194). -/
def codesOf (b : Bank) (mfmt : Word) (fmt : Fmt) (reg j : Nat) : List (List Nat × Nat) :=
  let k := depth fmt
  let g := 32 * 2 ^ bitsAt mfmt.toNat 7 6
  (fours (rowOf b reg (64 * j) (if fmt == .q8 then 8 else 4) k)).zipIdx.map fun x =>
    (x.1, if k < g then 0 else 4 * x.2 / g)

/-- Scale and zero point of a group and column (R194). -/
def groupParam (b : Bank) (mzp : Word) (fmt : Fmt) (g j : Nat) : FVal × Nat :=
  let v := b.getV (Fin.ofNat 32 mzp.toNat)
  let z := elemGet v 8 (512 + 16 * g + j)
  (operand .f16 (elemGet v 16 (16 * g + j)), if fmt == .q8 then z else z % 16)

/-! ### Block contributions (R74, R75, R80) -/

/-- A finite value times another, as an exact value. -/
def timesVal (x y : FVal) : FVal := (mulVal x y).val

/-- A finite contribution: more than the largest f32 becomes it with OF, and a zero is +0 whichever of its factors is zero (R74, R192;
the spec gives the sign for a zero sum and for zero scales only: DEDUCED, log 13). -/
def finiteBlock (v : FVal) : Res2 FVal :=
  match v with
  | .fin _ 0 _ => ⟨.fin false 0 0, 0⟩
  | v => clampF32 v

def FVal.isFin : FVal → Bool
  | .fin .. => true
  | _ => false

/-- The contribution of an mmas block (R74). -/
def scaledBlock (sa sb : FVal) (a b : List FVal × Nat) : Res2 FVal :=
  let nan : Res2 FVal := ⟨.nan false, flagNV⟩
  if !FVal.isFin sa || !FVal.isFin sb then nan
  else if a.2 = 15 || b.2 = 15 || (a.1 ++ b.1).any FVal.isNan then nan
  else
    let p := timesVal (timesVal sa sb) (blockSum (a.1.zip b.1)).val
    match p with
    | .fin n m e => finiteBlock (.fin n m (e - a.2 - b.2))
    | v => ⟨v, 0⟩

/-- The contribution of an mmaq block (R75, R198); of a zero, whose sign they do not state, +0 as of mmas (DEDUCED, log 13). -/
def quantBlockSum (c : FVal) (z : Nat) (codes : List Nat) (acts : List FVal) : Res2 FVal :=
  if !FVal.isFin c then ⟨.nan false, flagNV⟩
  else
    let s := blockSum ((codes.map fun (q : Nat) => intVal ((q : Int) - (z : Int))).zip acts)
    match s.val with
    | .fin .. =>
      let p := finiteBlock (timesVal c s.val)
      ⟨p.val, s.flags ||| p.flags⟩
    | .inf _ =>
      let p := mulVal c s.val
      ⟨p.val, s.flags ||| p.flags⟩
    | v => ⟨v, s.flags⟩

/-! ### The products (R196 to R200) -/

/-- One element: its blocks added in ascending K. -/
def accumulateAll (a : Acc) (saturate : Bool) (c : Nat) (ps : List (Res2 FVal)) : Res2 Nat :=
  ps.foldl (fun (r : Res2 Nat) p =>
    let o := a.add saturate r.val p.val
    ⟨o.val, r.flags ||| p.flags ||| o.flags⟩) ⟨c, 0⟩

/-- What a product computes from its rows and columns. -/
def productTile {α β : Type} (a : Acc) (saturate : Bool) (old : List Nat) (rows : List (List α)) (cols : List (List β))
    (block : α → β → Res2 FVal) : List (Res2 Nat) :=
  let blocks := (rows.map fun r => cols.map fun c => (r.zip c).map fun p => block p.1 p.2).flatten
  (old.zip blocks).map fun x => accumulateAll a saturate x.1 x.2

/-- The numbers 0 to 15. -/
def sixteen : List Nat := List.range 16

/-- mma on rows already formed, and mmag (R196, R199). -/
def plainProduct (b : Bank) (t : Task) (fmt : Fmt) (td : Nat) (rows : List (List FVal)) (vb : Nat) : List (Res2 Nat) :=
  let a := accOf fmt t
  productTile a false (b.tile a.bits td) (rows.map fours) (sixteen.map fun j => fours (plainRow b fmt vb (64 * j)))
    fun x y => blockSum (x.zip y)

/-- mmas (R197). -/
def scaledProduct (b : Bank) (t : Task) (fmt : Fmt) (td va vb : Nat) : List (Res2 Nat) :=
  let a := accOf fmt t
  let sa := fmtF32.decode (t.ctl.mscaleA.toNat % 2 ^ 32)
  let sb := fmtF32.decode (t.ctl.mscaleB.toNat % 2 ^ 32)
  productTile a true (b.tile a.bits td) (sixteen.map (scaledRow b fmt va)) (sixteen.map (scaledRow b fmt vb))
    (scaledBlock sa sb)

/-- mmaq (R198). -/
def quantProduct (b : Bank) (t : Task) (fmt : Fmt) (td va vb : Nat) : List (Res2 Nat) :=
  let a := accOf fmt t
  let col := fun (j : Nat) => (codesOf b t.ctl.mfmt fmt vb j).map fun x => (groupParam b t.ctl.mzp fmt x.2 j, x.1)
  productTile a true (b.tile a.bits td) (sixteen.map fun i => fours (activations b t.ctl.mfmt fmt va i))
    (sixteen.map col) fun x y => quantBlockSum y.1.1 y.1.2 y.2 x

/-- The registers of a run. -/
def runRegs (r n : Nat) : List Nat := (List.range n).map fun i => r + i

/-- A product: modes and windows as R200 says, its result computed from the values at issue, in flight until it
completes with its flags. -/
def productOp (i : Instr) (bytes : Nat) (fmt : Fmt) (td : Nat) (srcs : List Nat) (extra : Task → List Nat) (la : Nat)
    (f : Bank → Task → List (Res2 Nat)) (s : State) : Out :=
  let dst := fun (t : Task) => tileRegs (accOf fmt t).bits td
  let tr : Traits := { traits i with
    bytes := bytes, bank := fun _ => true, array := if fmt == .f64 then 32 else 16, event := 8
    touched := fun t => vRes (dst t ++ srcs ++ extra t)
    modeFault := fun t => !t.tileIn (accOf fmt t).bits td || (dst t).any srcs.contains }
  issue tr (fun s t =>
    let b := s.bankOf (ctxCore s.focus) (t.bank.getD 0)
    let r := f b t
    let flags := r.foldl (fun (x : Flags) o => x ||| o.flags) 0
    s.longOp tr t la (.regs (tileWrites (accOf fmt t).bits td (r.map fun o => o.val)) flags (if fmt == .f64 then 34 else 18)) (vRes (dst t ++ srcs))) s

/-- mma (R196). -/
def execMma (fmt : Fmt) (td va vb : VReg) (la : Fin 16) (s : State) : Out :=
  productOp (.mma fmt td va vb la) 4 fmt td.val [va.val, vb.val] (fun _ => []) la.val (fun b t =>
    plainProduct b t fmt td.val (sixteen.map fun i => plainRow b fmt va.val (64 * i)) vb.val) s

/-- mmas (R197). -/
def execMmas (fmt : Fmt) (td va vb : VReg) (la : Fin 16) (s : State) : Out :=
  let n := if fmt == .m8 then 4 else 8
  productOp (.mmas fmt td va vb la) 4 fmt td.val (runRegs va.val n ++ runRegs vb.val n) (fun _ => []) la.val (fun b t =>
    scaledProduct b t fmt td.val va.val vb.val) s

/-- mmaq (R198); the parameter register that MZP names is read at issue and is not pending (R194). -/
def execMmaq (fmt : Fmt) (td va vb : VReg) (la : Fin 16) (s : State) : Out :=
  productOp (.mmaq fmt td va vb la) 4 fmt td.val (runRegs va.val (if fmt == .q4 then 2 else 1) ++ [vb.val])
    (fun t => [t.ctl.mzp.toNat % 32]) la.val (fun b t => quantProduct b t fmt td.val va.val vb.val) s

/-- Row i of the gathered A: row r of the four registers, or zeros (R199). -/
def gatheredRow (b : Bank) (fmt : Fmt) (va r : Nat) : List FVal :=
  if r < 64 then plainRow b fmt (va + r / 16) (64 * (r % 16)) else (List.replicate (depth fmt) 0).map (operand fmt.ty)

/-- mmag (R199). -/
def execMmag (fmt : Fmt) (td va vb vl : VReg) (la : Fin 16) (s : State) : Out :=
  productOp (.mmag fmt td va vb vl la) 8 fmt td.val (runRegs va.val 4 ++ [vb.val]) (fun _ => [vl.val]) la.val (fun b t =>
    let list := rowOf b vl.val 0 32 16
    plainProduct b t fmt td.val (list.map (gatheredRow b fmt va.val)) vb.val) s

/-! ### Mode switches (R58, R195) -/

/-- mode.m: at once when the grid is free and nobody waits, or held already; otherwise it waits in issue order. It waits first for the
results still to come in the registers of its window (R58). -/
def execModeM (n1 : Fin 32) (s : State) : Out :=
  let tr := { traits (.modeM n1) with ends := true, bank := fun _ => true, touched := fun _ => vRes (List.range (n1.val + 1)) }
  issue tr (fun s t =>
    let k := ctxCore s.focus
    let me := ctxNum s.focus
    let c := s.core k
    if c.grid == some me || (c.grid.isNone && c.gridQueue.isEmpty) then
      .next ((s.setCore k { c with grid := some me }).retire tr { t with window := n1.val + 1 })
    else
      .next ((s.setCore k { c with gridQueue := c.gridQueue ++ [me] }).setTask s.focus
        { t with flow := { t.flow with wait := .grid } })) s

/-- mode.v: in M mode the grid is released; in V mode nothing changes. -/
def execModeV (s : State) : Out :=
  let tr := { traits .modeV with ends := true }
  issue tr (fun s t =>
    let k := ctxCore s.focus
    let c := s.core k
    let c := if t.window = 0 then c else if c.grid == some (ctxNum s.focus) then { c with grid := none } else c
    .next ((s.setCore k c).retire tr { t with window := 0 })) s

/-! ### Tile control (R201, R202) -/

/-- Cycles to the result of a tile instruction that takes the array for n (R208). -/
def tileLatency (n : Nat) : Nat := if n = 1 then 6 else if n = 2 then 8 else 10

/-- A tile instruction that is not long-latency; the first tile of the list is its destination, and its flags are there with its result
(R49, DESIGN CHOICE, log 97). -/
def tileOp (i : Instr) (cycles : Nat) (tiles : List (Nat × Nat)) (f : Bank → Task → Bank × Flags) (s : State) : Out :=
  let tr : Traits := { traits i with
    bank := fun _ => true, array := cycles, event := 9
    touched := fun _ => vRes (tiles.map fun x => tileRegs x.1 x.2).flatten
    results := (vRes (tiles.take 1 |>.map fun x => tileRegs x.1 x.2).flatten ++ [Res.flags]).map fun r => (some r, tileLatency cycles)
    modeFault := fun t => !tiles.all fun x => t.tileIn x.1 x.2 }
  issue tr (fun s t =>
    let r := f (s.bankOf (ctxCore s.focus) (t.bank.getD 0)) t
    s.vecDone tr t r.1 r.2) s

/-- tzero (R201). -/
def execTzero (td : VReg) (s : State) : Out :=
  tileOp (.tzero td) 1 [(32, td.val)] (fun b _ => (b.setV td 0, 0)) s

/-- ttrn (R201). -/
def execTtrn (td ta : VReg) (s : State) : Out :=
  tileOp (.ttrn td ta) 2 [(32, td.val), (32, ta.val)] (fun b _ =>
    let x := b.tile 32 ta.val
    let turned := (sixteen.map fun i => sixteen.map fun j => x.getD (16 * j + i) 0).flatten
    (b.setTile 32 td.val turned, 0)) s

/-- The element a conversion of tiles gives (R202). -/
def tcvtElem (fmt : Fmt) (eref : Int) (rm : Rm) (x : Nat) : Res2 Nat :=
  match fmt with
  | .f32 => unbin false fmtF32 eref x
  | .bs32 => binVal false eref (fmtF32.decode x)
  | .f64 => convertElem .f64 .f32 .rne x
  | .i8 => convertElem .i32 .f32 rm x
  | f => convertElem f.ty .f32 rm x

/-- Width of the tile a tile format names: of tcvt's destination, and of tld, tst and tscat (R202, R203). -/
def fmtTile (fmt : Fmt) : Nat :=
  match fmt with
  | .f64 => 64
  | .bs32 => 128
  | _ => 32

/-- tcvt (R202). Of formats 8, 9, 12, 13 and 14 the destination, which R202 calls a vector and the table of R201 a tile, has to lie in the
window as a 32-bit tile does (DESIGN CHOICE, log 99). -/
def execTcvt (fmt : Fmt) (td ta : VReg) (s : State) : Out :=
  let src := if fmt == .f32 then 128 else 32
  tileOp (.tcvt fmt td ta) 4 [(fmtTile fmt, td.val), (src, ta.val)] (fun b t =>
    let rs := (b.tile src ta.val).map (tcvtElem fmt (mfmtEref t.ctl.mfmt) (t.rounding .dyn))
    let xs := rs.map fun r => r.val
    let flags := rs.foldl (fun (x : Flags) o => x ||| o.flags) 0
    match fmt with
    | .f32 | .bs32 | .f64 | .i8 => (b.setTile (fmtTile fmt) td.val xs, flags)
    | f => (b.setV td (fieldSet (b.getV td) 0 (256 * f.ty.bits) (packNat f.ty.bits xs)), flags)) s

end Sys2Proof.Machine
end

