-- ==== Sys2Proof/Machine/Tasks.lean ====
section
/-! DEFINITION. Creating tasks and sending messages, and halt, join and kill (08 R215 to R223, 10 R274 to R278). -/

namespace Sys2Proof.Machine

/-! ### spawn, spawnc, callat, sendm, reply (R215 to R220) -/

/-- The five forms (R217). -/
inductive Send where
  | spawn
  | spawnc
  | callat
  | sendm
  | reply
deriving DecidableEq, Repr

/-- spawn and spawnc hand views on and split the weight. -/
def Send.child (f : Send) : Bool := f == .spawn || f == .spawnc

/-- sendm and reply take a header word; the others a handler address. -/
def Send.named (f : Send) : Bool := f == .sendm || f == .reply

/-- The registers a form reads. -/
def Send.reads (f : Send) (a b : SReg) : List SReg :=
  let n := if f == .spawnc || f == .sendm then 5 else 4
  a :: (List.range n).map (fun j => Fin.ofNat 64 (b.val + j)) ++ if f == .reply then [5] else []

/-- The operand that names the destination (R217). -/
def Send.target (f : Send) (b : SReg) (t : Task) : Word :=
  match f with
  | .reply => t.getS 5
  | _ => t.sAt (b.val + 4)

/-- The header word: the handler address with BANK, or s[a] (R216). -/
def Send.header (f : Send) (a : SReg) (bank : Bool) (t : Task) : Word :=
  if f.named then t.getS a else (if bank then 0x8000000000000000 else 0) ||| addrField (t.getS a)

/-- The checks of the handler address and of a callat data address, in order (R216, R219). -/
def Send.addressCause (f : Send) (a b : SReg) (t : Task) : Option (Nat × Word) :=
  if f.named then none
  else
    let h := t.getS a
    if h.toNat % 4 != 0 then some (ALIGN, h)
    else if !addrOk h then some (XLATE, h)
    else if f == .callat && !addrOk (t.getS b) then some (XLATE, t.getS b)
    else none

/-- Where a message goes: a destination, a refused operand, or nowhere yet while the whole core set is being measured
(R256). -/
inductive Route where
  | to (d : Dest)
  | refused (operand : Word)
  | none

/-- The route of a core, or none. -/
def Route.ofCore : Option Nat → Route
  | some c => .to (.core c)
  | .none => .none

/-- The destination of a descriptor word (R212, R218, R406). -/
def State.descriptorRoute (s : State) (x : CoreSet) (w : Word) : Route :=
  let q := w.toNat % 2 ^ 32
  let core := w.toNat % 2 ^ 13
  if w.getLsbD 63 then
    if q == 65534 then .to (.transfer 0) else if q == 65535 then .to (.transfer 1) else .to (.queue q)
  else if bitsAt w.toNat 62 48 != 0 || s.coreRefused x core then .refused w
  else .to (.core core)

/-- The destination of a message (R217 to R219). -/
def State.route (s : State) (f : Send) (b : SReg) (i : Nat) (t : Task) (path : Word) : Route :=
  let x := t.ident.coreSet
  let det := s.determ t.ident.launch
  let w := f.target b t
  match f with
  | .spawn => Route.ofCore (s.spawnCore x det (coreCluster (ctxCore i)) path)
  | .spawnc => if s.coreRefused x (w.toNat % 2 ^ 13) then .refused w else .to (.core (w.toNat % 2 ^ 13))
  | .callat => Route.ofCore (s.callatCore x det (ctxCore i) (t.getS b) path)
  | .sendm | .reply => s.descriptorRoute x w

/-- A destination that consumes a spawn index. -/
def Dest.isCore : Dest → Bool
  | .core _ => true
  | _ => false

/-- The message departs: the pc advances, and the context stalls until it is accepted (R216, R250). -/
def State.sendOff (s : State) (tr : Traits) (f : Send) (hdr : Word) (b : SReg) (t : Task) (d : Dest) (path : Word) :
    Out :=
  let i := s.focus
  let carried := if f.child then t.purse.weight / 2 else 1
  let u := t.give carried
  let u := if d.isCore then u.nextIndex else u
  let r := if f.child then s.splitViews t.ident.tid (coreCluster (ctxCore i)) t.views else (s, t.views, [])
  let args := Vector.ofFn fun (j : Fin 4) => t.sAt (b.val + j.val)
  let parent := if f.child then some t.ident.tid else none
  let m := taskMsg i t d hdr args carried (if d.isCore then path else t.ident.path) parent r.2.2
  let u := { u with views := r.2.1, flow := { u.flow with wait := .accept r.1.nextId } }
  .next (((r.1.depart m).countEvent i 15 1).retire tr u)

/-- The five forms share one procedure (R216). -/
def sendOp (i : Instr) (f : Send) (a b : SReg) (bank : Bool) (s : State) : Out :=
  let tr := { regTraits i 0 (f.reads a b) with ends := true, orders := true }
  issue tr (fun s t =>
    if f.child && s.inMergeHandler t then s.illegal tr t
    else
      match f.addressCause a b t with
      | some (code, x) => s.trapAt t code x
      | none =>
        let path := childPath t.ident.path t.purse.spawnIx
        match s.route f b s.focus t path with
        | .refused x => s.trapAt t PERM x
        | .none => .next s
        | .to d =>
          match t.need (if f.child then 2 else 1) with
          | .borrow => .next (s.sendBorrow s.focus t)
          | .late => s.borrowLate t
          | .refused => s.trapAt t PENNANT 0
          | .ok => s.sendOff tr f (f.header a bank t) b t d path) s

/-- spawn (R216, R217). -/
def execSpawn (a b : SReg) (bank : Bool) (s : State) : Out := sendOp (.spawn a b bank) .spawn a b bank s

/-- spawnc (R216, R217). -/
def execSpawnc (a b : SReg) (bank : Bool) (s : State) : Out := sendOp (.spawnc a b bank) .spawnc a b bank s

/-- callat (R216, R219). -/
def execCallat (a b : SReg) (bank : Bool) (s : State) : Out := sendOp (.callat a b bank) .callat a b bank s

/-- sendm (R216, R212). -/
def execSendm (a b : SReg) (s : State) : Out := sendOp (.sendm a b) .sendm a b false s

/-- reply (R216, R212): the destination is in s5. -/
def execReply (a b : SReg) (s : State) : Out := sendOp (.reply a b) .reply a b false s

/-! ### halt and join (R221, R222, R276 to R278) -/

/-- Combinations a task owes, by its closings, have been performed (R277). -/
def State.worksDone (s : State) (tid : Word) : Bool := s.chains.all fun c => c.2.work.all fun w => w.tid != tid

/-- A declared chain has combined into one segment (R222). -/
def Chain.combined (c : Chain) : Bool := decide (c.segs.length ≤ 1) && c.work.isEmpty && c.segs.all (·.complete)

/-- A declared chain has been merged into the real tile. -/
def Chain.joined (c : Chain) : Bool := c.joining && c.segs.all (·.lines.isEmpty)

/-- The part of a halt or join that waits for others (R222): children, and the combinations of its declared chains; and those it
owes itself, on chains it inherited too (R221, R277). -/
def State.mergeWaits (s : State) (t : Task) (halting : Bool) : Bool :=
  let ds := t.declaredChains
  ((!halting || !ds.isEmpty) && s.childAlive t.ident.tid) || !s.chainsAll ds Chain.combined ||
    !s.worksDone t.ident.tid

/-- A halt or join that waits can go on: a fault to take, or nothing left to wait for. -/
def State.mergeReady (s : State) (t : Task) (halting : Bool) : Bool :=
  (s.mergeFault t.ident.tid).isSome ||
    (!s.mergeWaits t halting &&
      (s.chainsAll t.declaredChains Chain.joined || !s.chainsAll t.declaredChains (·.joining)))

/-- The declared chains go on to their real tiles. -/
def State.startJoin (s : State) (ds : List Nat) : State :=
  { s with chains := s.chains.map fun c => (c.1, if ds.contains c.1 then { c.2 with joining := true } else c.2) }

/-- The segments that the first step of a halt or join closes: of the declared entries; and where a halting task has declared none, of those it
inherited (R221, R274). -/
def Task.closesFirst (t : Task) (halting : Bool) : Tab View :=
  let ds := t.views.filter fun v => v.2.declared
  if halting && ds.isEmpty then t.views else ds

/-- The first step: the grid is left at a halt, and segments close. -/
def State.beginMerge (s : State) (t : Task) (halting : Bool) : State × Task :=
  if t.flow.merging then (s, t)
  else
    let k := ctxCore s.focus
    let s := if halting then s.setCore k ((s.core k).releaseGrid (ctxNum s.focus)) else s
    let t := if halting then t.leaveGrid else t
    (s.closeViews t.ident.tid (coreCluster k) (t.closesFirst halting),
      { t with flow := { t.flow with merging := true, halting := halting } })

/-- The inherited entries of a halting task close once its declared ones have joined (R221); one that is closed already stays so. -/
def State.closeInherited (s : State) (t : Task) (halting : Bool) : State :=
  if halting then s.closeViews t.ident.tid (coreCluster (ctxCore s.focus)) (t.views.filter fun v => !v.2.declared) else s

/-- The body of halt and join: faults are taken, the rest waits, and the last step is `finish`. -/
def mergeOp (tr : Traits) (halting : Bool) (finish : State → Task → Out) (s : State) : Out :=
  issue tr (fun s t =>
    if s.inMergeHandler t then s.illegal tr t
    else
      match s.mergeFault t.ident.tid with
      | some (n, x) =>
        let chains := match s.chains.get? n with
          | some c => s.chains.set n { c with told := true }
          | none => s.chains
        .next ({ s with chains := chains }.raise s.focus t
          { cause MERGE x.addr t.regs.pc with acc := x.acc, inner := x.code })
      | none =>
        let r := s.beginMerge t halting
        let s := r.1
        let t := r.2
        let park := { t with flow := { t.flow with wait := if halting then .halting else .join, woken := .no } }
        if s.mergeWaits t halting then .next (s.setTask s.focus park)
        else if s.chainsAll t.declaredChains Chain.joined then
          let s := s.closeInherited t halting
          if s.worksDone t.ident.tid then finish s t else .next (s.setTask s.focus park)
        else .next ((s.startJoin t.declaredChains).setTask s.focus park)) s

/-- The retain name of a core for the partition of a launch; 0 clears it (R221, DESIGN CHOICE, log 94). -/
def Core.setRetain (c : Core) (id : Nat) (name : Word) : Core :=
  { c with retain := if name = 0 then c.retain.erase id else c.retain.set id name }

/-- The end of a task: its chains are gone, its weight returns, its context and bank are free (R221). -/
def State.endTask (s : State) (tr : Traits) (t : Task) (retain : Option Word) : Out :=
  let i := s.focus
  let k := ctxCore i
  let s := s.retire tr t
  let s := match retain, t.ident.launch with
    | some x, some id => s.setCore k ((s.core k).setRetain id x)
    | _, _ => s
  let s := { s with chains := t.declaredChains.foldl (fun c n => c.erase n) s.chains }
  .next (((s.forgetWaiter k t).returnPurse k t false).freeContext i t)

/-- halt (R221). -/
def execHalt (s : State) : Out :=
  let tr := { traits .halt with ends := true, orders := true }
  mergeOp tr true (fun s t => s.endTask tr t none) s

/-- halt.retain (R221): the core's retain name for the task's launch becomes s[a]. -/
def execHaltRetain (a : SReg) (s : State) : Out :=
  let tr := { regTraits (.haltRetain a) 0 [a] with ends := true, orders := true }
  mergeOp tr true (fun s t => s.endTask tr t (some (t.getS a))) s

/-- A declared entry begins again with an empty chain (R222). -/
def State.renewChain (s : State) (tid : Word) (v : View) : State × View :=
  match s.chains.get? v.chain with
  | some c =>
    let seg := s.nextId
    ({ s with
        nextId := seg + 1
        chains := s.chains.set v.chain { c with joining := false, bad := [], since := none, segs := [Segment.blank seg tid] } },
      { v with seg := seg })
  | none => (s, v)

/-- The declared entries of a table renewed. -/
def State.renewViews (s : State) (tid : Word) : Tab View → State × Tab View
  | [] => (s, [])
  | (vid, v) :: vs =>
    let r := if v.declared then s.renewChain tid v else (s, v)
    let q := r.1.renewViews tid vs
    (q.1, (vid, r.2) :: q.2)

/-- join (R222). -/
def execJoin (s : State) : Out :=
  let tr := { traits .join with ends := true, orders := true }
  mergeOp tr false (fun s t =>
    let r := s.renewViews t.ident.tid t.views
    .next (r.1.retire tr { t with views := r.2, flow := { t.flow with merging := false } })) s

/-! ### kill (R223) -/

/-- kill: PERM for an id that names no task or a task of another launch; nothing for one that is halting or not live;
the issuer itself at once; otherwise the issuer parks until the target's core acknowledges. Tasks of no launch count as tasks of one
launch (DESIGN CHOICE, log 77). -/
def execKill (a : SReg) (s : State) : Out :=
  let tr := { regTraits (.kill a) 0 [a] with ends := true }
  issue tr (fun s t =>
    let x := t.getS a
    if x.toNat / 2 ^ 48 != 0 then s.trapAt t PERM x
    else
      match s.taskOf x with
      | none => .next (s.retire tr t)
      | some u =>
        if u.ident.launch != t.ident.launch then s.trapAt t PERM x
        else if s.unkillable u then .next (s.retire tr t)
        else if x == t.ident.tid then .next ((s.retire tr t).killTask x)
        else
          let id := s.nextId
          let s := { s with
            nextId := id + 1, kills := s.kills.set id { target := x, killer := some t.ident.tid, queue := none } }
          .next (s.setTask s.focus { t with flow := { t.flow with wait := .kill id, woken := .no } })) s

end Sys2Proof.Machine
end

