-- ==== Sys2Proof/Machine/VectorMem.lean ====
section
/-! DEFINITION. Vector loads and stores (06 R179 to R184, 04 R98): unit stride, replicated, strided and indexed. -/

namespace Sys2Proof.Machine

/-- The VDONE that applies to an instruction: the one eret left for it (R182). -/
def Task.vdone (t : Task) : Word := if t.flow.resumed then t.ctl.vdone else 0

/-- A vector access that has nothing to do is complete, and VDONE is clear (R181). -/
def Task.vdoneUsed (t : Task) : Task :=
  if t.flow.resumed then { t with ctl := { t.ctl with vdone := 0 } } else t

/-- Bytes of one access unit: an element, or the byte that holds two e2m1 elements (R35, R179). -/
def unitBytes (ty : Ty) : Nat := (ty.bits + 7) / 8

/-- The access units of the active elements below n. -/
def unitsOf (k : KWord) (ty : Ty) (n : Nat) : List Nat :=
  (List.range (if ty == .e2m1 then (n + 1) / 2 else n)).filter k.getLsbD

/-- The VDONE group of a unit (R182). -/
def groupOfUnit (ty : Ty) (j : Nat) : Nat :=
  if ty == .e2m1 then j / 16 else j / (max 1 (ty.vlmax / 64))

/-- Where a loaded unit goes; of a byte of two e2m1 elements only those below n (R36). -/
def unitPut (ty : Ty) (d n j : Nat) : Put :=
  let w := 8 * unitBytes ty
  { reg := d, pos := w * j, width := if ty == .e2m1 && decide (n ≤ 2 * j + 1) then 4 else w, shift := 0, conv := .raw }

/-- Where a replicated unit goes: the low nibble of a byte to both nibbles (R98), of which the upper one of the last byte is no element below
n where n is odd and keeps what it holds, as R36 has it of the elements past n (DEDUCED, log 100). -/
def repPuts (ty : Ty) (d n j : Nat) : List Put :=
  if ty == .e2m1 then
    ([2 * j, 2 * j + 1].filter fun e => decide (e < n)).map fun e =>
      { reg := d, pos := 4 * e, width := 4, shift := 0, conv := .raw }
  else [unitPut ty d n j]

/-- The first refusal of R180 among the units, in ascending order. -/
def unitsCause (len : Nat) (addrs : List Word) : Option (Nat × Word) :=
  addrs.findSome? fun a => (eaCause a len).map fun c => (c, a)

/-- What a vector access is: a store, its type, its data or destination register, replication, the scalar register it
advances, and its length. -/
structure VAccess where
  store : Bool
  ty : Ty
  d : VSrc
  rep : Bool
  inc : Option SReg
  n : Task → Nat

/-- The number of a v register; a stream register is never a destination. -/
def VAccess.reg (x : VAccess) : Nat :=
  match x.d with
  | .v r => r.val
  | .q _ => 0

/-- The element accesses of the units left, at their addresses. -/
def VAccess.elems (x : VAccess) (n : Nat) (data : VWord) (units : List (Nat × Word)) : List Elem :=
  let len := unitBytes x.ty
  let one := fun (u : Nat × Word) =>
    { grp := groupOfUnit x.ty u.1, addr := u.2.toNat, len := len,
      data := if x.store then elemGet data (8 * len) u.1 else 0, flags := 0,
      puts := if x.store then [] else [unitPut x.ty x.reg n u.1] : Elem }
  if x.rep then
    match units with
    | [] => []
    | u :: us => [{ one u with puts := ((u :: us).map fun v => repPuts x.ty x.reg n v.1).flatten }]
  else units.map one

/-- The pending set (R184). -/
def VAccess.pend (x : VAccess) : List Res := vRes (vRegs [x.d]) ++ (qRegs [x.d]).map qRes ++ (x.inc.map sRes).getD []

/-- The traits of a vector access. -/
def VAccess.traits (x : VAccess) (i : Instr) (bytes : Nat) (regs : List Nat) (k : KReg) (names : List SReg) : Traits :=
  { (vecTraits i bytes x.n (if x.store then [x.d] else []) (vRegs [x.d] ++ regs) [k] false 0).naming x.n names with
    usesVdone := true }

/-- A vector access: every active address is checked before any element (R180), and the rest is long-latency work. -/
def VAccess.run (x : VAccess) (tr : Traits) (k : KReg) (la : Nat) (addr : Task → Bank → Nat → Word) (s : State) : Out :=
  issue tr (fun s t =>
    let n := x.n t
    let c := ctxCore s.focus
    let b := s.bankOf c (t.bank.getD 0)
    if n = 0 then .next (s.retire tr t.vdoneUsed)
    else if x.store && !b.arrived n x.ty.bits x.d then .next s
    else
      let units := (unitsOf (b.getK k) x.ty n).map fun j => (j, addr t b j)
      match unitsCause (unitBytes x.ty) (units.map fun u => u.2) with
      | some (code, a) =>
        .next (s.raise s.focus t
          { cause code a t.regs.pc with acc := if x.store then 1 else 0, vdone := some 0 })
      | none =>
        let left := units.filter fun u => !t.vdone.getLsbD (groupOfUnit x.ty u.1)
        let data := if x.store then b.srcVal n x.ty.bits x.d else 0
        let take := if x.store then (qRegs [x.d]).head?.map fun q => (q, n, x.ty.bits) else none
        let inc := x.inc.map fun a => (a, t.getS a + BitVec.ofNat 64 (bytesOf n x.ty.bits))
        s.longOp tr t la (.elems x.store t.vdone (x.elems n data left) inc take) x.pend) s

/-- Unit stride from an address (R179). -/
def unitAddr (ty : Ty) (ea : Task → Word) (t : Task) (_ : Bank) (j : Nat) : Word :=
  ea t + BitVec.ofNat 64 (j * unitBytes ty)

/-- The unit-stride and replicated forms. -/
def vmemUnit (i : Instr) (bytes : Nat) (store : Bool) (am : Am) (ty : Ty) (d : VSrc) (a : SReg) (off : Word) (k : KReg)
    (la : Nat) (s : State) : Out :=
  let x : VAccess :=
    { store := store, ty := ty, d := d, rep := am == .rep, inc := if am == .inc then some a else none,
      n := fun t => t.effLen ty }
  let ea := fun (t : Task) => t.getS a + off
  x.run (x.traits i bytes [] k [a]) k la (if am == .rep then fun t _ _ => ea t else unitAddr ty ea) s

/-- vld, am 0 (R179). -/
def execVld (ty : Ty) (d : VReg) (a : SReg) (k : KReg) (la : Fin 16) (s : State) : Out :=
  vmemUnit (.vld ty d a k la) 4 false .unit ty (.v d) a 0 k la.val s

/-- vld.inc, am 1 (R179, R98). -/
def execVldInc (ty : Ty) (d : VReg) (a : SReg) (k : KReg) (la : Fin 16) (s : State) : Out :=
  vmemUnit (.vldInc ty d a k la) 4 false .inc ty (.v d) a 0 k la.val s

/-- vld.rep, am 2 (R179, R98). -/
def execVldRep (ty : Ty) (d : VReg) (a : SReg) (k : KReg) (la : Fin 16) (s : State) : Out :=
  vmemUnit (.vldRep ty d a k la) 4 false .rep ty (.v d) a 0 k la.val s

/-- vst, am 0 (R179). -/
def execVst (ty : Ty) (d : VReg) (a : SReg) (k : KReg) (la : Fin 16) (s : State) : Out :=
  vmemUnit (.vst ty d a k la) 4 true .unit ty (.v d) a 0 k la.val s

/-- vst.inc, am 1 (R179, R98). -/
def execVstInc (ty : Ty) (d : VReg) (a : SReg) (k : KReg) (la : Fin 16) (s : State) : Out :=
  vmemUnit (.vstInc ty d a k la) 4 true .inc ty (.v d) a 0 k la.val s

/-- The long form of vld and vst, with an offset and a stream as store data (R179, R184). -/
def execVmemLong (st : Bool) (am : Am) (ty : Ty) (d : VSrc) (a : SReg) (off : BitVec 14) (k : KReg) (la : Fin 16)
    (s : State) : Out :=
  vmemUnit (.vmemLong st am ty d a off k la) 8 st am ty d a (sext off) k la.val s

/-- Strided elements: ea + e x s[b] (R179). -/
def vmemStrided (i : Instr) (store : Bool) (ty : Ty) (d : VSrc) (a b : SReg) (off : BitVec 14) (k : KReg) (la : Fin 16)
    (s : State) : Out :=
  let x : VAccess := { store := store, ty := ty, d := d, rep := false, inc := none, n := fun t => t.effLen ty }
  x.run (x.traits i 8 [] k [a, b]) k la.val
    (fun t _ j => t.getS a + sext off + BitVec.ofNat 64 j * t.getS b) s

/-- vlds (R179). -/
def execVlds (ty : Ty) (d : VReg) (a b : SReg) (off : BitVec 14) (k : KReg) (la : Fin 16) (s : State) : Out :=
  vmemStrided (.vlds ty d a b off k la) false ty (.v d) a b off k la s

/-- vsts (R179). -/
def execVsts (ty : Ty) (d : VSrc) (a b : SReg) (off : BitVec 14) (k : KReg) (la : Fin 16) (s : State) : Out :=
  vmemStrided (.vsts ty d a b off k la) true ty d a b off k la s

/-- Element j of an index vector: i32, or i64 beside 64-bit elements (R179). -/
def indexAt (ty : Ty) (v : VWord) (j : Nat) : Word :=
  let w := if ty.bits = 64 then 64 else 32
  BitVec.ofInt 64 (bitsInt true w (elemGet v w j))

/-- Indexed elements: ea + Sext(vi[e]), at most 256 of them (R179). -/
def vmemIndexed (i : Instr) (store : Bool) (ty : Ty) (d : VSrc) (a : SReg) (vi : VReg) (off : BitVec 14) (k : KReg)
    (la : Fin 16) (s : State) : Out :=
  let x : VAccess := { store := store, ty := ty, d := d, rep := false, inc := none, n := fun t => min (t.effLen ty) 256 }
  x.run (x.traits i 8 [vi.val] k [a]) k la.val (fun t b j => t.getS a + sext off + indexAt ty (b.getV vi) j) s

/-- vldx (R179). -/
def execVldx (ty : Ty) (d : VReg) (a : SReg) (vi : VReg) (off : BitVec 14) (k : KReg) (la : Fin 16) (s : State) : Out :=
  vmemIndexed (.vldx ty d a vi off k la) false ty (.v d) a vi off k la s

/-- vstx (R179). -/
def execVstx (ty : Ty) (d : VSrc) (a : SReg) (vi : VReg) (off : BitVec 14) (k : KReg) (la : Fin 16) (s : State) : Out :=
  vmemIndexed (.vstx ty d a vi off k la) true ty d a vi off k la s

end Sys2Proof.Machine
end

