-- ==== Sys2Proof/Machine/TileMem.lean ====
section
/-! DEFINITION. Tile memory (07 R203 to R207): tld, tst and tscat by rows. -/

namespace Sys2Proof.Machine

/-- Bits of an element in memory, and the alignment of an access (R203). -/
def fmtBits (fmt : Fmt) : Nat :=
  match fmt with
  | .i8 => 32
  | f => f.ty.bits
def fmtAlign (fmt : Fmt) : Nat :=
  match fmt with
  | .i8 => 4
  | f => (f.ty.bits + 7) / 8

/-- Row bytes RB (R203). -/
def rowBytes (fmt : Fmt) : Nat := 2 * fmtBits fmt

/-- Accesses of a row: one for each element, or for each byte of two e2m1 elements. -/
def rowUnits (fmt : Fmt) : Nat := if fmt == .e2m1 then 8 else 16

/-- The addresses of a row's accesses. -/
def rowAddrs (fmt : Fmt) (row : Word) : List Word :=
  (List.range (rowUnits fmt)).map fun j => row + BitVec.ofNat 64 (j * fmtAlign fmt)

/-- The destination of one tile element. -/
def tilePut (fmt : Fmt) (td r j shift : Nat) : Put :=
  let w := fmtTile fmt
  let p := tileAt w td r j
  { reg := p.1, pos := w * p.2, width := w, shift := shift,
    conv := if fmt == .i8 || fmt == .bs32 then .raw else .widen fmt.ty }

/-- The element accesses of a tld row: e2m1 has two elements a byte. -/
def loadRow (fmt : Fmt) (td r : Nat) (addrs : List Word) : List Elem :=
  addrs.zipIdx.map fun a =>
    { grp := r, addr := a.1.toNat, len := fmtAlign fmt, data := 0, flags := 0,
      puts := if fmt == .e2m1 then [tilePut fmt td r (2 * a.2) 0, tilePut fmt td r (2 * a.2 + 1) 4]
        else [tilePut fmt td r a.2 0] }

/-- A tile element in its memory format: raw where the widths agree, else rounded by RND (R205). -/
def storeElem (fmt : Fmt) (rm : Rm) (x : Nat) : Res2 Nat :=
  match fmt with
  | .i8 | .f32 | .f64 | .bs32 => ⟨x, 0⟩
  | f => convertElem f.ty .f32 rm x

/-- The element accesses of a stored row. -/
def storeRow (fmt : Fmt) (xs : List (Res2 Nat)) (r : Nat) (addrs : List Word) : List Elem :=
  let at_ := fun (j : Nat) => (xs[16 * r + j]?).getD ⟨0, 0⟩
  addrs.zipIdx.map fun a =>
    let lo := at_ (if fmt == .e2m1 then 2 * a.2 else a.2)
    let hi := at_ (2 * a.2 + 1)
    { grp := r, addr := a.1.toNat, len := fmtAlign fmt, puts := [],
      data := if fmt == .e2m1 then lo.val + 16 * hi.val else lo.val,
      flags := if fmt == .e2m1 then lo.flags ||| hi.flags else lo.flags }

/-- A tile access: every address is checked before any element (R206), and rows that VDONE names are skipped. -/
def tileMem (i : Instr) (bytes : Nat) (store : Bool) (fmt : Fmt) (td : Nat) (names : List SReg) (extra : List Nat)
    (la : Nat) (rows : Task → Bank → List Word) (s : State) : Out :=
  let regs := tileRegs (fmtTile fmt) td
  let tr : Traits := { traits i with
    bytes := bytes, bank := fun _ => true, event := 9, usesVdone := true
    touched := fun _ => vRes (regs ++ extra) ++ (names.map sRes).flatten
    modeFault := fun t => !t.tileIn (fmtTile fmt) td }
  issue tr (fun s t =>
    let b := s.bankOf (ctxCore s.focus) (t.bank.getD 0)
    let all := (rows t b).map (rowAddrs fmt)
    match unitsCause (fmtAlign fmt) all.flatten with
    | some (code, a) =>
      .next (s.raise s.focus t { cause code a t.regs.pc with acc := if store then 1 else 0, vdone := some 0 })
    | none =>
      let left := all.zipIdx.filter fun r => !t.vdone.getLsbD r.2
      let xs := if store then (b.tile (fmtTile fmt) td).map (storeElem fmt (t.rounding .dyn)) else []
      let es := (left.map fun r => if store then storeRow fmt xs r.2 r.1 else loadRow fmt td r.2 r.1).flatten
      s.longOp tr t la (.elems store t.vdone es none none) (vRes regs)) s

/-- Rows at a base and a step. -/
def rowsBy (base step : Word) : List Word := sixteen.map fun r => base + BitVec.ofNat 64 r * step

/-- tld with contiguous rows (R204). -/
def execTld (fmt : Fmt) (td : VReg) (a : SReg) (la : Fin 16) (s : State) : Out :=
  tileMem (.tld fmt td a la) 4 false fmt td.val [a] [] la.val
    (fun t _ => rowsBy (t.getS a) (BitVec.ofNat 64 (rowBytes fmt))) s

/-- tst with contiguous rows (R204). -/
def execTst (fmt : Fmt) (td : VReg) (a : SReg) (la : Fin 16) (s : State) : Out :=
  tileMem (.tst fmt td a la) 4 true fmt td.val [a] [] la.val
    (fun t _ => rowsBy (t.getS a) (BitVec.ofNat 64 (rowBytes fmt))) s

/-- tscat: row r at s[a] + element r of vi as i64 (R204). -/
def execTscat (fmt : Fmt) (td : VReg) (a : SReg) (vi : VReg) (la : Fin 16) (s : State) : Out :=
  tileMem (.tscat fmt td a vi la) 8 true fmt td.val [a] [vi.val] la.val
    (fun t b => (rowOf b vi.val 0 64 16).map fun x => t.getS a + BitVec.ofNat 64 x) s

/-- tld with a stride (R204). -/
def execTldStrided (fmt : Fmt) (td : VReg) (a b : SReg) (la : Fin 16) (s : State) : Out :=
  tileMem (.tldStrided fmt td a b la) 8 false fmt td.val [a, b] [] la.val
    (fun t _ => rowsBy (t.getS a) (t.getS b)) s

/-- tst with a stride (R204). -/
def execTstStrided (fmt : Fmt) (td : VReg) (a b : SReg) (la : Fin 16) (s : State) : Out :=
  tileMem (.tstStrided fmt td a b la) 8 true fmt td.val [a, b] [] la.val
    (fun t _ => rowsBy (t.getS a) (t.getS b)) s

end Sys2Proof.Machine
end

