-- ==== Sys2Proof/Machine/ViewOps.lean ====
section
/-! DEFINITION. view.decl and view.drop (08 R229, R230, 10 R269, R270, R279). -/

namespace Sys2Proof.Machine

/-- Two ranges overlap. -/
def overlaps (a n b m : Nat) : Bool := decide (a < b + m) && decide (b < a + n)

/-- The checks of view.decl, in order: a cause and its address, where ILLEGAL takes the word (R229, R270, R279). -/
def State.declCause (s : State) (t : Task) (vid : Nat) (base len : Word) (op : ViewOp) : Option Nat :=
  let b := base.toNat
  let n := len.toNat
  if b % 64 != 0 then some ALIGN
  else if !addrOk base || !addrOk (base + len) then some XLATE
  else if n = 0 || n % 64 != 0 || 1048576 < n || (op == .addBs64 && n % 192 != 0) then some ILLEGAL
  else if (t.views.get? vid).isSome then some ILLEGAL
  else if t.views.any fun v => overlaps b n v.2.base v.2.len then some ILLEGAL
  else if inWindow b || inWindow (b + n - 1) then some PERM
  else if op == .addF32 && s.determ t.ident.launch then some DETERM
  else none

/-- The chain a view.decl opens. -/
def newChain (i : Nat) (t : Task) (vid : Nat) (base len : Word) (op : ViewOp) (seg : Nat) : Chain :=
  { slice := coreCluster (ctxCore i), vid := vid, base := base.toNat, len := len.toNat, op := op, declarer := t.ident.tid, hoist := t.purse.hoist,
    asid := t.ident.asid, launch := t.ident.launch, segs := [Segment.blank seg t.ident.tid], bad := [],
    joining := false, discard := false, work := [], fault := none, since := none, told := false }

/-- view.decl (R229). It has no e_ref operand and checks no range of one: R76 calls e_ref an operand of every view of binned sums, but
R229 and R113 give view.decl none, and R270 leaves one e_ref to software (DEDUCED, log 78). -/
def execViewDecl (vid : Fin 8) (a b : SReg) (op : ViewOp) (s : State) : Out :=
  let tr := { regTraits (.viewDecl vid a b op) 0 [a, b] with ends := true }
  issue tr (fun s t =>
    let base := t.getS a
    let len := t.getS b
    if s.inMergeHandler t then s.illegal tr t
    else
      match s.declCause t vid.val base len op with
      | some code => if code = ILLEGAL then s.illegal tr t else s.trapAt t code base
      | none =>
        let id := s.nextId
        let v : View :=
          { base := base.toNat, len := len.toNat, op := op, chain := id, seg := id + 1, declared := true }
        let s := { s with nextId := id + 2, chains := s.chains.set id (newChain s.focus t vid.val base len op (id + 1)) }
        .next (s.retire tr { t with views := t.views.set vid.val v })) s

/-- view.drop (R230): nothing for an entry that is inactive or inherited; otherwise it parks until no other task holds
the entry. -/
def execViewDrop (vid : Fin 8) (s : State) : Out :=
  let tr := { traits (.viewDrop vid) with ends := true }
  issue tr (fun s t =>
    if s.inMergeHandler t then s.illegal tr t
    else
      match t.views.get? vid.val with
      | none => .next (s.retire tr t)
      | some v =>
        if !v.declared then .next (s.retire tr t)
        else if s.heldBelow v.chain t.ident.tid then
          .next (s.setTask s.focus { t with flow := { t.flow with wait := .drop vid.val, woken := .no } })
        else
          .next ({ s with chains := s.chains.erase v.chain }.retire tr { t with views := t.views.erase vid.val })) s

end Sys2Proof.Machine
end

