-- ==== Sys2Proof/Machine/Dispatch.lean ====
section
/-! DEFINITION. The dispatch of an instruction to its meaning. -/

namespace Sys2Proof.Machine

def exec (i : Instr) (s : State) : Host.Outcome State Fault Refusal :=
  match i with
  | .add d a b g => Sys2Proof.Machine.execAdd d a b g s
  | .sub d a b g => Sys2Proof.Machine.execSub d a b g s
  | .mul d a b g => Sys2Proof.Machine.execMul d a b g s
  | .mulh d a b g => Sys2Proof.Machine.execMulh d a b g s
  | .mulhn d a b g => Sys2Proof.Machine.execMulhn d a b g s
  | .div d a b g => Sys2Proof.Machine.execDiv d a b g s
  | .divn d a b g => Sys2Proof.Machine.execDivn d a b g s
  | .rem d a b g => Sys2Proof.Machine.execRem d a b g s
  | .remn d a b g => Sys2Proof.Machine.execRemn d a b g s
  | .and d a b g => Sys2Proof.Machine.execAnd d a b g s
  | .or d a b g => Sys2Proof.Machine.execOr d a b g s
  | .xor d a b g => Sys2Proof.Machine.execXor d a b g s
  | .shl d a b g => Sys2Proof.Machine.execShl d a b g s
  | .shr d a b g => Sys2Proof.Machine.execShr d a b g s
  | .sha d a b g => Sys2Proof.Machine.execSha d a b g s
  | .rot d a b g => Sys2Proof.Machine.execRot d a b g s
  | .min d a b g => Sys2Proof.Machine.execMin d a b g s
  | .max d a b g => Sys2Proof.Machine.execMax d a b g s
  | .minn d a b g => Sys2Proof.Machine.execMinn d a b g s
  | .maxn d a b g => Sys2Proof.Machine.execMaxn d a b g s
  | .lea d a b sh g => Sys2Proof.Machine.execLea d a b sh g s
  | .clz d a g => Sys2Proof.Machine.execClz d a g s
  | .ctz d a g => Sys2Proof.Machine.execCtz d a g s
  | .popc d a g => Sys2Proof.Machine.execPopc d a g s
  | .brev d a g => Sys2Proof.Machine.execBrev d a g s
  | .bext d a b g => Sys2Proof.Machine.execBext d a b g s
  | .bins d a b g => Sys2Proof.Machine.execBins d a b g s
  | .addi d a imm g => Sys2Proof.Machine.execAddi d a imm g s
  | .andi d a imm g => Sys2Proof.Machine.execAndi d a imm g s
  | .ori d a imm g => Sys2Proof.Machine.execOri d a imm g s
  | .xori d a imm g => Sys2Proof.Machine.execXori d a imm g s
  | .shli d a amount g => Sys2Proof.Machine.execShli d a amount g s
  | .shri d a amount g => Sys2Proof.Machine.execShri d a amount g s
  | .shai d a amount g => Sys2Proof.Machine.execShai d a amount g s
  | .roti d a amount g => Sys2Proof.Machine.execRoti d a amount g s
  | .lih d imm g => Sys2Proof.Machine.execLih d imm g s
  | .addpc d imm g => Sys2Proof.Machine.execAddpc d imm g s
  | .cmp cc pd a b g => Sys2Proof.Machine.execCmp cc pd a b g s
  | .cmpi cc pd a imm g => Sys2Proof.Machine.execCmpi cc pd a imm g s
  | .plog pd pa pb tt g => Sys2Proof.Machine.execPlog pd pa pb tt g s
  | .sel d a b pc => Sys2Proof.Machine.execSel d a b pc s
  | .ldD d a off la ord => Sys2Proof.Machine.execLdD d a off la ord s
  | .ldW d a off la ord => Sys2Proof.Machine.execLdW d a off la ord s
  | .ldWn d a off la ord => Sys2Proof.Machine.execLdWn d a off la ord s
  | .stD d a off la ord => Sys2Proof.Machine.execStD d a off la ord s
  | .stW d a off la ord => Sys2Proof.Machine.execStW d a off la ord s
  | .ldxB d a b g => Sys2Proof.Machine.execLdxB d a b g s
  | .ldxBn d a b g => Sys2Proof.Machine.execLdxBn d a b g s
  | .ldxH d a b g => Sys2Proof.Machine.execLdxH d a b g s
  | .ldxHn d a b g => Sys2Proof.Machine.execLdxHn d a b g s
  | .ldxW d a b g => Sys2Proof.Machine.execLdxW d a b g s
  | .ldxWn d a b g => Sys2Proof.Machine.execLdxWn d a b g s
  | .ldxD d a b g => Sys2Proof.Machine.execLdxD d a b g s
  | .amoAddD d a b g => Sys2Proof.Machine.execAmoAddD d a b g s
  | .amoAndD d a b g => Sys2Proof.Machine.execAmoAndD d a b g s
  | .amoOrD d a b g => Sys2Proof.Machine.execAmoOrD d a b g s
  | .amoXorD d a b g => Sys2Proof.Machine.execAmoXorD d a b g s
  | .amoMinD d a b g => Sys2Proof.Machine.execAmoMinD d a b g s
  | .amoMaxD d a b g => Sys2Proof.Machine.execAmoMaxD d a b g s
  | .amoMinnD d a b g => Sys2Proof.Machine.execAmoMinnD d a b g s
  | .amoMaxnD d a b g => Sys2Proof.Machine.execAmoMaxnD d a b g s
  | .amoSwpD d a b g => Sys2Proof.Machine.execAmoSwpD d a b g s
  | .amoCasD d a b g => Sys2Proof.Machine.execAmoCasD d a b g s
  | .amoFaddF64 d a b g => Sys2Proof.Machine.execAmoFaddF64 d a b g s
  | .amoTrigD d a b g => Sys2Proof.Machine.execAmoTrigD d a b g s
  | .amoAddW d a b g => Sys2Proof.Machine.execAmoAddW d a b g s
  | .amoAndW d a b g => Sys2Proof.Machine.execAmoAndW d a b g s
  | .amoOrW d a b g => Sys2Proof.Machine.execAmoOrW d a b g s
  | .amoXorW d a b g => Sys2Proof.Machine.execAmoXorW d a b g s
  | .amoMinW d a b g => Sys2Proof.Machine.execAmoMinW d a b g s
  | .amoMaxW d a b g => Sys2Proof.Machine.execAmoMaxW d a b g s
  | .amoMinnW d a b g => Sys2Proof.Machine.execAmoMinnW d a b g s
  | .amoMaxnW d a b g => Sys2Proof.Machine.execAmoMaxnW d a b g s
  | .amoSwpW d a b g => Sys2Proof.Machine.execAmoSwpW d a b g s
  | .amoCasW d a b g => Sys2Proof.Machine.execAmoCasW d a b g s
  | .amoFaddF32 d a b g => Sys2Proof.Machine.execAmoFaddF32 d a b g s
  | .br g inv off => Sys2Proof.Machine.execBr g inv off s
  | .j off => Sys2Proof.Machine.execJ off s
  | .jal off => Sys2Proof.Machine.execJal off s
  | .jr a g => Sys2Proof.Machine.execJr a g s
  | .jalr d a g => Sys2Proof.Machine.execJalr d a g s
  | .vadd ty d a b k => Sys2Proof.Machine.execVadd ty d a b k s
  | .vsub ty d a b k => Sys2Proof.Machine.execVsub ty d a b k s
  | .vmul ty d a b k => Sys2Proof.Machine.execVmul ty d a b k s
  | .vmulh ty d a b k => Sys2Proof.Machine.execVmulh ty d a b k s
  | .vmin ty d a b k => Sys2Proof.Machine.execVmin ty d a b k s
  | .vmax ty d a b k => Sys2Proof.Machine.execVmax ty d a b k s
  | .vand ty d a b k => Sys2Proof.Machine.execVand ty d a b k s
  | .vor ty d a b k => Sys2Proof.Machine.execVor ty d a b k s
  | .vxor ty d a b k => Sys2Proof.Machine.execVxor ty d a b k s
  | .vandn ty d a b k => Sys2Proof.Machine.execVandn ty d a b k s
  | .vshl ty d a b k => Sys2Proof.Machine.execVshl ty d a b k s
  | .vshr ty d a b k => Sys2Proof.Machine.execVshr ty d a b k s
  | .vsha ty d a b k => Sys2Proof.Machine.execVsha ty d a b k s
  | .vabs ty d a k => Sys2Proof.Machine.execVabs ty d a k s
  | .vneg ty d a k => Sys2Proof.Machine.execVneg ty d a k s
  | .vfma ty d a b k => Sys2Proof.Machine.execVfma ty d a b k s
  | .vfms ty d a b k => Sys2Proof.Machine.execVfms ty d a b k s
  | .vfnma ty d a b k => Sys2Proof.Machine.execVfnma ty d a b k s
  | .vrcp ty d a k => Sys2Proof.Machine.execVrcp ty d a k s
  | .vrsq ty d a k => Sys2Proof.Machine.execVrsq ty d a k s
  | .vcmp cc ty kd a b k => Sys2Proof.Machine.execVcmp cc ty kd a b k s
  | .vsel ty d a b k => Sys2Proof.Machine.execVsel ty d a b k s
  | .viota ty d k => Sys2Proof.Machine.execViota ty d k s
  | .vcompress ty d a k => Sys2Proof.Machine.execVcompress ty d a k s
  | .vexpand ty d a k => Sys2Proof.Machine.execVexpand ty d a k s
  | .vperm ty d a b k => Sys2Proof.Machine.execVperm ty d a b k s
  | .vcvt dt st d a k => Sys2Proof.Machine.execVcvt dt st d a k s
  | .vscl ty d a b k => Sys2Proof.Machine.execVscl ty d a b k s
  | .vqnt ty d a b k => Sys2Proof.Machine.execVqnt ty d a b k s
  | .vexpmax ty d a k => Sys2Proof.Machine.execVexpmax ty d a k s
  | .vbin ty d a b k => Sys2Proof.Machine.execVbin ty d a b k s
  | .vred op ty d a k => Sys2Proof.Machine.execVred op ty d a k s
  | .vscan op ty d a k => Sys2Proof.Machine.execVscan op ty d a k s
  | .kand d a b => Sys2Proof.Machine.execKand d a b s
  | .kor d a b => Sys2Proof.Machine.execKor d a b s
  | .kxor d a b => Sys2Proof.Machine.execKxor d a b s
  | .kandn d a b => Sys2Proof.Machine.execKandn d a b s
  | .kmov d a => Sys2Proof.Machine.execKmov d a s
  | .vld ty d a k la => Sys2Proof.Machine.execVld ty d a k la s
  | .vldInc ty d a k la => Sys2Proof.Machine.execVldInc ty d a k la s
  | .vldRep ty d a k la => Sys2Proof.Machine.execVldRep ty d a k la s
  | .vst ty d a k la => Sys2Proof.Machine.execVst ty d a k la s
  | .vstInc ty d a k la => Sys2Proof.Machine.execVstInc ty d a k la s
  | .vbcast ty d a k => Sys2Proof.Machine.execVbcast ty d a k s
  | .vsetl ty d a => Sys2Proof.Machine.execVsetl ty d a s
  | .vpopk ty d k => Sys2Proof.Machine.execVpopk ty d k s
  | .vfirstk ty d k => Sys2Proof.Machine.execVfirstk ty d k s
  | .mma fmt td va vb la => Sys2Proof.Machine.execMma fmt td va vb la s
  | .mmas fmt td va vb la => Sys2Proof.Machine.execMmas fmt td va vb la s
  | .mmaq fmt td va vb la => Sys2Proof.Machine.execMmaq fmt td va vb la s
  | .tld fmt td a la => Sys2Proof.Machine.execTld fmt td a la s
  | .tst fmt td a la => Sys2Proof.Machine.execTst fmt td a la s
  | .tzero td => Sys2Proof.Machine.execTzero td s
  | .ttrn td ta => Sys2Proof.Machine.execTtrn td ta s
  | .modeM n1 => Sys2Proof.Machine.execModeM n1 s
  | .modeV => Sys2Proof.Machine.execModeV s
  | .tcvt fmt td ta => Sys2Proof.Machine.execTcvt fmt td ta s
  | .spawn a b bank => Sys2Proof.Machine.execSpawn a b bank s
  | .spawnc a b bank => Sys2Proof.Machine.execSpawnc a b bank s
  | .callat a b bank => Sys2Proof.Machine.execCallat a b bank s
  | .sendm a b => Sys2Proof.Machine.execSendm a b s
  | .reply a b => Sys2Proof.Machine.execReply a b s
  | .halt => Sys2Proof.Machine.execHalt s
  | .haltRetain a => Sys2Proof.Machine.execHaltRetain a s
  | .join => Sys2Proof.Machine.execJoin s
  | .kill a => Sys2Proof.Machine.execKill a s
  | .hoistOpen a => Sys2Proof.Machine.execHoistOpen a s
  | .waitq a => Sys2Proof.Machine.execWaitq a s
  | .pborrow => Sys2Proof.Machine.execPborrow s
  | .viewDecl vid a b op => Sys2Proof.Machine.execViewDecl vid a b op s
  | .viewDrop vid => Sys2Proof.Machine.execViewDrop vid s
  | .barInit a b => Sys2Proof.Machine.execBarInit a b s
  | .barArv a => Sys2Proof.Machine.execBarArv a s
  | .barWait a => Sys2Proof.Machine.execBarWait a s
  | .sigAdd a b => Sys2Proof.Machine.execSigAdd a b s
  | .sigWait cc a b => Sys2Proof.Machine.execSigWait cc a b s
  | .acopy a => Sys2Proof.Machine.execAcopy a s
  | .acopyNb b a => Sys2Proof.Machine.execAcopyNb b a s
  | .abind q a => Sys2Proof.Machine.execAbind q a s
  | .apf a b c => Sys2Proof.Machine.execApf a b c s
  | .fenceAcq sc => Sys2Proof.Machine.execFenceAcq sc s
  | .fenceRel sc => Sys2Proof.Machine.execFenceRel sc s
  | .fenceSc sc => Sys2Proof.Machine.execFenceSc sc s
  | .handover a b => Sys2Proof.Machine.execHandover a b s
  | .xinv a b => Sys2Proof.Machine.execXinv a b s
  | .mfc a creg => Sys2Proof.Machine.execMfc a creg s
  | .mtc a creg => Sys2Proof.Machine.execMtc a creg s
  | .trap n => Sys2Proof.Machine.execTrap n s
  | .eret => Sys2Proof.Machine.execEret s
  | .yield => Sys2Proof.Machine.execYield s
  | .brk n => Sys2Proof.Machine.execBrk n s
  | .nop => Sys2Proof.Machine.execNop s
  | .movi d imm g => Sys2Proof.Machine.execMovi d imm g s
  | .addiLong d a imm g => Sys2Proof.Machine.execAddiLong d a imm g s
  | .andiLong d a imm g => Sys2Proof.Machine.execAndiLong d a imm g s
  | .oriLong d a imm g => Sys2Proof.Machine.execOriLong d a imm g s
  | .xoriLong d a imm g => Sys2Proof.Machine.execXoriLong d a imm g s
  | .cmpiLong cc pd a imm g => Sys2Proof.Machine.execCmpiLong cc pd a imm g s
  | .ldLong size d a off la sc ord g => Sys2Proof.Machine.execLdLong size d a off la sc ord g s
  | .stLong size d a off la sc ord g => Sys2Proof.Machine.execStLong size d a off la sc ord g s
  | .amoLong op half d a b sc ord g => Sys2Proof.Machine.execAmoLong op half d a b sc ord g s
  | .amoNtf op half d a b sc ord g => Sys2Proof.Machine.execAmoNtf op half d a b sc ord g s
  | .ldp d w a imm g => Sys2Proof.Machine.execLdp d w a imm g s
  | .vectorOpLong op ty d a b k rc => Sys2Proof.Machine.execVectorOpLong op ty d a b k rc s
  | .vcvtRfb dt st d a vr k rc => Sys2Proof.Machine.execVcvtRfb dt st d a vr k rc s
  | .vcvtBs dt d a b k => Sys2Proof.Machine.execVcvtBs dt d a b k s
  | .vmemLong st am ty d a off k la => Sys2Proof.Machine.execVmemLong st am ty d a off k la s
  | .vlds ty d a b off k la => Sys2Proof.Machine.execVlds ty d a b off k la s
  | .vsts ty d a b off k la => Sys2Proof.Machine.execVsts ty d a b off k la s
  | .vldx ty d a vi off k la => Sys2Proof.Machine.execVldx ty d a vi off k la s
  | .vstx ty d a vi off k la => Sys2Proof.Machine.execVstx ty d a vi off k la s
  | .vslideUp ty d a b k => Sys2Proof.Machine.execVslideUp ty d a b k s
  | .vslideDn ty d a b k => Sys2Proof.Machine.execVslideDn ty d a b k s
  | .vins ty d a b => Sys2Proof.Machine.execVins ty d a b s
  | .vext ty d a b => Sys2Proof.Machine.execVext ty d a b s
  | .mmag fmt td va vb vl la => Sys2Proof.Machine.execMmag fmt td va vb vl la s
  | .tscat fmt td a vi la => Sys2Proof.Machine.execTscat fmt td a vi la s
  | .tldStrided fmt td a b la => Sys2Proof.Machine.execTldStrided fmt td a b la s
  | .tstStrided fmt td a b la => Sys2Proof.Machine.execTstStrided fmt td a b la s
  | .longLatencyCompletion core ctx seq => Sys2Proof.Machine.execLongLatencyCompletion core ctx seq s
  | .agingCycle core => Sys2Proof.Machine.execAgingCycle core s
  | .yieldExpiry core ctx => Sys2Proof.Machine.execYieldExpiry core ctx s
  | .gridAcquire core ctx => Sys2Proof.Machine.execGridAcquire core ctx s
  | .upcallEntry core ctx => Sys2Proof.Machine.execUpcallEntry core ctx s
  | .copyCompletionDelivery core ctx => Sys2Proof.Machine.execCopyCompletionDelivery core ctx s
  | .messageArrival msg => Sys2Proof.Machine.execMessageArrival msg s
  | .fabricStopAccept msg => Sys2Proof.Machine.execFabricStopAccept msg s
  | .taskStart core => Sys2Proof.Machine.execTaskStart core s
  | .taskRestore core saved => Sys2Proof.Machine.execTaskRestore core saved s
  | .quantumEnd core ctx => Sys2Proof.Machine.execQuantumEnd core ctx s
  | .contextSave core ctx => Sys2Proof.Machine.execContextSave core ctx s
  | .borrowStep id => Sys2Proof.Machine.execBorrowStep id s
  | .borrowGrantArrival id => Sys2Proof.Machine.execBorrowGrantArrival id s
  | .weightReturn id => Sys2Proof.Machine.execWeightReturn id s
  | .notificationTask id => Sys2Proof.Machine.execNotificationTask id s
  | .hostBarrierDoorbell bell write => Sys2Proof.Machine.execHostBarrierDoorbell bell write s
  | .peerBarrierArrival peer pa => Sys2Proof.Machine.execPeerBarrierArrival peer pa s
  | .mergeStep chain => Sys2Proof.Machine.execMergeStep chain s
  | .engineTakeRequest cluster => Sys2Proof.Machine.execEngineTakeRequest cluster s
  | .engineLineTransfer cluster req => Sys2Proof.Machine.execEngineLineTransfer cluster req s
  | .copyCompletion cluster req => Sys2Proof.Machine.execCopyCompletion cluster req s
  | .engineFault cluster req => Sys2Proof.Machine.execEngineFault cluster req s
  | .engineRetry cluster req => Sys2Proof.Machine.execEngineRetry cluster req s
  | .engineMonitorFire slice mon => Sys2Proof.Machine.execEngineMonitorFire slice mon s
  | .translationWalk slice asid va => Sys2Proof.Machine.execTranslationWalk slice asid va s
  | .monitorFire slice mon => Sys2Proof.Machine.execMonitorFire slice mon s
  | .lineRecall line => Sys2Proof.Machine.execLineRecall line s
  | .invalidationArrival id slice => Sys2Proof.Machine.execInvalidationArrival id slice s
  | .invalidationAck id slice => Sys2Proof.Machine.execInvalidationAck id slice s
  | .invalidationDone id => Sys2Proof.Machine.execInvalidationDone id s
  | .weightStoreRefresh => Sys2Proof.Machine.execWeightStoreRefresh s
  | .queueDoorbell q => Sys2Proof.Machine.execQueueDoorbell q s
  | .slotIdleTimeout q => Sys2Proof.Machine.execSlotIdleTimeout q s
  | .commandFetch q => Sys2Proof.Machine.execCommandFetch q s
  | .cmdNop q => Sys2Proof.Machine.execCmdNop q s
  | .cmdLaunch q => Sys2Proof.Machine.execCmdLaunch q s
  | .cmdWait q => Sys2Proof.Machine.execCmdWait q s
  | .waitSatisfied q => Sys2Proof.Machine.execWaitSatisfied q s
  | .cmdSignal q => Sys2Proof.Machine.execCmdSignal q s
  | .cmdMsg q => Sys2Proof.Machine.execCmdMsg q s
  | .cmdWsload q => Sys2Proof.Machine.execCmdWsload q s
  | .wsloadComplete q => Sys2Proof.Machine.execWsloadComplete q s
  | .cmdXinv q => Sys2Proof.Machine.execCmdXinv q s
  | .cmdResume q => Sys2Proof.Machine.execCmdResume q s
  | .cmdKill q => Sys2Proof.Machine.execCmdKill q s
  | .cmdUnpin q => Sys2Proof.Machine.execCmdUnpin q s
  | .cmdDec q => Sys2Proof.Machine.execCmdDec q s
  | .commandAccessRetry q => Sys2Proof.Machine.execCommandAccessRetry q s
  | .depRelease q => Sys2Proof.Machine.execDepRelease q s
  | .launchAcceptance launch => Sys2Proof.Machine.execLaunchAcceptance launch s
  | .launchStartReport launch core => Sys2Proof.Machine.execLaunchStartReport launch core s
  | .launchCompletion launch => Sys2Proof.Machine.execLaunchCompletion launch s
  | .queueMessageDelivery msg => Sys2Proof.Machine.execQueueMessageDelivery msg s
  | .msixInterrupt q => Sys2Proof.Machine.execMsixInterrupt q s
  | .retainedPartitionReclaim core => Sys2Proof.Machine.execRetainedPartitionReclaim core s
  | .semaphoreRead port n => Sys2Proof.Machine.execSemaphoreRead port n s
  | .semaphoreWrite port n value => Sys2Proof.Machine.execSemaphoreWrite port n value s
  | .memoryWindowAccess off len data => Sys2Proof.Machine.execMemoryWindowAccess off len data s
  | .ueTransfer msg => Sys2Proof.Machine.execUeTransfer msg s
  | .ueTransferComplete id denied data => Sys2Proof.Machine.execUeTransferComplete id denied data s
  | .ualinkTimeout core ctx => Sys2Proof.Machine.execUalinkTimeout core ctx s
  | .ptpDiscipline offset => Sys2Proof.Machine.execPtpDiscipline offset s
  | .speedPublication => Sys2Proof.Machine.execSpeedPublication s
  | .measurementStart core => Sys2Proof.Machine.execMeasurementStart core s
  | .measurementEnd core curve => Sys2Proof.Machine.execMeasurementEnd core curve s
  | .operatingPointControl k => Sys2Proof.Machine.execOperatingPointControl k s
  | .correctedError site => Sys2Proof.Machine.execCorrectedError site s
  | .uncorrectableError site => Sys2Proof.Machine.execUncorrectableError site s
  | .marginMonitorFire core => Sys2Proof.Machine.execMarginMonitorFire core s
  | .patrolScrub channel => Sys2Proof.Machine.execPatrolScrub channel s
  | .logOverflowRecord core => Sys2Proof.Machine.execLogOverflowRecord core s
  | .logLineFlush core => Sys2Proof.Machine.execLogLineFlush core s
  | .sample core => Sys2Proof.Machine.execSample core s
  | .dbgHalt cluster => Sys2Proof.Machine.execDbgHalt cluster s
  | .dbgRun cluster => Sys2Proof.Machine.execDbgRun cluster s
  | .dbgData cluster write => Sys2Proof.Machine.execDbgData cluster write s
  | .dbgStatClear cluster => Sys2Proof.Machine.execDbgStatClear cluster s
  | .watchpointWrite cluster off value => Sys2Proof.Machine.execWatchpointWrite cluster off value s
  | .breakpointMatch core ctx => Sys2Proof.Machine.execBreakpointMatch core ctx s
  | .watchpointHit => Sys2Proof.Machine.execWatchpointHit s
  | .dip cluster => Sys2Proof.Machine.execDip cluster s
  | .dipRelay cluster => Sys2Proof.Machine.execDipRelay cluster s
  | .containerLoad pa asid => Sys2Proof.Machine.execContainerLoad pa asid s
  | .bootRetry => Sys2Proof.Machine.execBootRetry s
  | .packageReset => Sys2Proof.Machine.execPackageReset s
  | .portReset port => Sys2Proof.Machine.execPortReset port s
  | .launchAbort launch => Sys2Proof.Machine.execLaunchAbort launch s
  | .abortNotice gang sender => Sys2Proof.Machine.execAbortNotice gang sender s
  | .registerWrite reg value => Sys2Proof.Machine.execRegisterWrite reg value s
  | .illegalWord w => Sys2Proof.Machine.execIllegalWord w s
  | .ualinkPeerAccess peer pa req => Sys2Proof.Machine.execUalinkPeerAccess peer pa req s
  | .incomingTransfer source len data => Sys2Proof.Machine.execIncomingTransfer source len data s
  | .linkCreditReturn link => Sys2Proof.Machine.execLinkCreditReturn link s
  | .handoverArrival id => Sys2Proof.Machine.execHandoverArrival id s
  | .killAcknowledgement id => Sys2Proof.Machine.execKillAcknowledgement id s
  | .queueEnCleared q => Sys2Proof.Machine.execQueueEnCleared q s

end Sys2Proof.Machine
end

