-- ==== Sys2Proof/Machine/Turns.lean ====
section
/-! DEFINITION. What a step does around exec: the turns of the schedule, the default choice where none is left, the
cycles and nanoseconds that pass, and what follows by itself after every turn (DESIGN CHOICE, log 2). -/

namespace Sys2Proof.Machine

/-! ### What follows every turn -/

/-- A parked task whose condition holds now (R222, R230, R234, R250, R408). -/
def State.released? (s : State) (i : Nat) (t : Task) : Option Woken :=
  match t.flow.wait with
  | .join => if s.mergeReady t false then some .no else none
  | .halting => if s.mergeReady t true then some .no else none
  | .drop vid => if (t.views.get? vid).all fun v => !s.heldBelow v.chain t.ident.tid then some .no else none
  | .sig addr cc x =>
    match s.load (stepWho i t) 0 addr.toNat 8 with
    | .ok (m, _) => if cc.holds (BitVec.ofNat 64 m) x then some .yes else none
    | .error _ => none
  | .link x => if s.noCredit.contains x.link then none else some .no
  | .fifo => if (s.core (ctxCore i)).fifoRoom then some .no else none
  | _ => none

/-- A context that waits for nothing but holds a window it has no grid for joins the queue of its core (R393). -/
def State.lacksGrid (s : State) (e : Nat × Task) : Bool :=
  e.2.window != 0 && e.2.flow.wait == .run && (s.core (ctxCore e.1)).grid != some (ctxNum e.1)

/-- The context after everything that woke it. -/
def State.settleTask (s : State) (e : Nat × Task) : Nat × Task :=
  match s.released? e.1 e.2 with
  | some w => (e.1, e.2.wake w)
  | none => if s.lacksGrid e then (e.1, { e.2 with flow := { e.2.flow with wait := .grid } }) else e

/-- Clusters with a halted core follow what drains (R351). -/
def State.settleDrained (s : State) : State :=
  ((s.clusters.filter fun c => c.2.dbg.halted != 0).map fun c => c.1).foldl State.noteDrained s


/-! ### Cycles of a core (R340, R341, R344, R347, R348, R387) -/

/-- Add n to each counter of a core that counts an event, but for the one that this cycle's mtc wrote (R348). -/
def Core.countBut (c : Core) (skip : Option Nat) (ctx code n : Nat) : Core :=
  if c.dip || c.pms == Vector.replicate 8 0 then c
  else
    let one := fun (i : Fin 8) =>
      if c.counts i ctx code && skip != some i.val then c.pmc[i] + BitVec.ofNat 64 n else c.pmc[i]
    { c with pmc := Vector.ofFn one }

/-- The event code of a core state: 3 to 6 are RUN, WMSG, WMEM and IDLE (R340, R347). -/
def stateEvent (st : Nat) : Nat := 3 + st

/-- The counter an mtc writes. -/
def pmcWritten (i : Instr) : Option Nat :=
  match i with
  | .mtc _ n => if 0x30 ≤ n.toNat && n.toNat ≤ 0x37 then some (n.toNat - 0x30) else none
  | _ => none

/-- The counters after a cycle in a state: cycles, the state, the occupied array, and stalls on a full FIFO. -/
def State.countCycle (s : State) (core st : Nat) (skip : Option Nat) : State :=
  let c := s.core core
  if c.pms == Vector.replicate 8 0 then s
  else
    let d := (c.countBut skip 0 1 1).countBut skip 0 (stateEvent st) 1
    let d := if c.cycle < c.arrayUntil then d.countBut skip 0 7 1 else d
    let full := s.ctxs.filter fun e => ctxCore e.1 == core && e.2.flow.wait == .fifo
    s.setCore core (full.foldl (fun d e => d.countBut skip (ctxNum e.1) 21 1) d)

/-- The launches that have a task in a context of a core, not halting (R244, R387). -/
def State.served (s : State) (core : Nat) : List Nat :=
  (s.ctxs.filterMap fun e => if ctxCore e.1 == core && !e.2.flow.halting then e.2.ident.launch else none).eraseDups

/-- A cycle's normalised service. -/
def State.serve (s : State) (core : Nat) : State :=
  (s.served core).foldl (fun s id =>
    match s.launches.get? id with
    | some l => { s with launches := s.launches.set id { l with service := l.service + l.speedOf core } }
    | none => s) s

/-- Reservations of the array that a cycle made (event 20) count as it ends (R348). -/
def State.countAging (s : State) (core : Nat) (skip : Option Nat) (n : Nat) : State :=
  if n = 0 then s else s.setCore core ((s.core core).countBut skip 0 20 n)

/-- The cycle ends, in which the array was reserved `aged` times: log, sample, counters, service, CYCLE, and an overflow record where one
is due. -/
def State.endCycle (s : State) (core st ctx : Nat) (pc : Option Word) (skip : Option Nat) (aged : Nat) : State :=
  let s := (s.countAging core skip aged).enterState core st ctx
  let s := if (s.core core).samples then s.takeSample core ctx (pc.getD 0) st else s
  let s := (s.countCycle core st skip).serve core
  let c := s.core core
  let s := s.setCore core { c with cycle := c.cycle + 1, seen := c.pmc }
  match execLogOverflowRecord core s with
  | .next s => s
  | _ => s

/-- A cycle in which the core issues nothing. -/
def State.idleCycle (s : State) (core aged : Nat) : State :=
  let x := s.idleState core
  let pc := (s.blocking core).map fun e => e.2.charged
  s.endCycle core x.1 x.2 pc none aged

/-! ### Issue -/

/-- A gate lets a core issue in a cycle (R409, R430). -/
def gateOpen (cycle su p : Nat) : Bool := decide (cycle * su / p < (cycle + 1) * su / p)

/-- The speed trial and the thermal gate of a core. -/
def Core.mayIssue (c : Core) : Bool :=
  (c.health.trial.all fun su => gateOpen c.cycle su c.health.trialP) && (c.health.gate.all fun su => gateOpen c.cycle su 1450)

/-- The fetch of a context found an instruction, nothing, or a stop: what happens at the context. -/
def State.issueFetched (s : State) (core ctx : Nat) (t : Task) (f : Fetched) : Out :=
  let i := 16 * core + ctx
  match f with
  | .instr x => exec x { s with focus := i }
  | .bad w => execIllegalWord w { s with focus := i }
  | .stop (.refuse code addr slice entry) =>
    let r := s.refusal core t 3 false t.regs.pc code addr slice entry
    .next (r.1.raise i t r.2)
  | .stop (.link l va) => .next (s.setTask i (s.stalled t l va 3 none none))
  | .stop z => .next (s.heldAt z)

/-- Something of the context has moved: it issued in this cycle, be it that it parked, raised a cause or was suspended by one. -/
def issuedIn (before : Task) (after : Option Task) : Bool :=
  match after with
  | some t => t.flow != before.flow || t.regs.pc != before.regs.pc
  | none => true

/-- The next instruction of a context would issue: nothing holds the context or the instruction back (R45). An instruction that halts the
core, as a breaking brk does (R150), issues too. -/
def State.moves (s : State) (e : Nat × Task) : Bool :=
  let core := ctxCore e.1
  !e.2.held (s.core core) &&
    match s.issueFetched core (ctxNum e.1) e.2 (s.fetch e.1 e.2) with
    | .next s' => issuedIn e.2 (s'.task? e.1) || (s'.core core).halted
    | _ => true

/-- It would issue if the core and the context stood otherwise. -/
def State.movesIf (s : State) (e : Nat × Task) (f : Core → Core) (g : Task → Task) : Bool :=
  let core := ctxCore e.1
  ((s.setCore core (f (s.core core))).setTask e.1 (g e.2)).moves (e.1, g e.2)

/-- The array is free for everyone. -/
def Core.withArray (c : Core) : Core := { c with arrayUntil := 0, reserved := none }

/-- A context is ready (R45), one that waits for the array alone included, as R47 counts it: since when. -/
def State.readySince (s : State) (e : Nat × Task) : Option Nat :=
  if s.movesIf e Core.withArray id then some (e.2.rank.ready.getD (s.core (ctxCore e.1)).cycle) else none

/-! ### What a context waits for (R340, R344) -/

/-- The core with nothing in the way but what accesses memory: its array and divider are free, it is not halted, and other results
are there. -/
def Core.unblocked (c : Core) : Core :=
  { c.withArray with dividerUntil := 0, halted := false, results := c.results.filter fun r => r.memory }
def Core.resolved (c : Core) : Core := { c.unblocked with results := [] }

/-- The context with its products, or everything in flight, complete. -/
def Task.withDone (t : Task) (p : LLOp → Bool) : Task :=
  { t with flow := { t.flow with inflight := t.flow.inflight.map fun o => if p o then { o with done := true } else o } }
def LLOp.isProduct (o : LLOp) : Bool := o.work.acc == 7

/-- An instruction in flight that neither has completed nor has failed. -/
def LLOp.going (o : LLOp) : Bool := !o.done && o.failed.isNone

/-- A cause of the context waits for its upcall. -/
def Task.upcallDue (t : Task) : Bool := t.flow.trap.isSome || t.flow.inflight.any fun o => o.failed.isSome

/-- A send, whose placement may have to wait (R256). -/
def placesTask (i : Instr) : Bool :=
  match i with
  | .spawn .. | .spawnc .. | .callat .. | .sendm .. | .reply .. | .amoTrigD .. => true
  | .amoLong .trig .. => true
  | _ => false

/-- The next instruction of a context is an amo.trig whose line has to wait: it waits on an atomic (R340). -/
def State.lineHeld (s : State) (e : Nat × Task) (i : Instr) : Bool :=
  let ea := match i with
    | .amoTrigD _ a _ _ => some (e.2.getS a)
    | .amoLong .trig _ _ a _ _ _ _ => some (e.2.getS a)
    | _ => none
  ea.any fun x => match s.locate (taskWho e.1 e.2) 2 (x.toNat / 64 * 64) 64 false false with
    | .error (.refuse ..) | .ok _ => false
    | .error _ => true

/-- The next instruction of a context is one that places a task, and nothing but the placing can have to wait. -/
def State.placing (s : State) (e : Nat × Task) : Bool :=
  match s.fetch e.1 e.2 with
  | .instr i => placesTask i && !s.lineHeld e i && !s.accessOpen e.2
  | _ => false

/-- The state code of a context whose next instruction would not issue (R340): RUN where only the array, the divider or another
result that is no access to memory keeps it, WMEM where accesses do, WMSG where it is parked, waits for the grid or for weight, or
stalls on a send. What is none of these waits for a line or for stream data; a context that waits to take an upcall waits for what it
has in flight (DEDUCED, log 34). -/
def State.blockOf (s : State) (e : Nat × Task) : Nat :=
  match e.2.flow.wait with
  | .run =>
    if e.2.upcallDue then if e.2.flow.inflight.any fun o => o.going && !o.isProduct then 2 else 0
    else if s.movesIf e Core.unblocked (·.withDone LLOp.isProduct) then 0
    else if s.movesIf e Core.resolved (·.withDone fun _ => true) then 2
    else if s.placing e then 1
    else 2
  | .link _ | .fifo => 2
  | _ => 1

/-- The context waits for what it has in flight: its upcall does, or its next instruction would not issue though nothing of the core were
in the way, and would once everything in flight were complete. -/
def State.waitsInFlight (s : State) (e : Nat × Task) : Bool :=
  e.2.upcallDue || (!s.movesIf e Core.resolved id && s.movesIf e Core.resolved (·.withDone fun _ => true))

/-- The instruction in flight whose completion the context waits for, where it does (R344): the one whose window has ended, or the
first. -/
def State.blockingOp (s : State) (e : Nat × Task) : Option LLOp :=
  let open_ := e.2.flow.inflight.filter LLOp.going
  (open_.find? fun o => decide (o.last < e.2.flow.seq)).orElse fun _ => if s.waitsInFlight e then open_.head? else none

/-- The instruction that the context's cycle is charged to (R344): the one whose result it waits for, or its own; a send has moved
the pc on. -/
def State.chargedPc (s : State) (e : Nat × Task) : Word :=
  let c := s.core (ctxCore e.1)
  let awaited := c.results.find? fun r => r.ctx == ctxNum e.1 && r.reg.isNone && decide (c.cycle < r.until_)
  match e.2.flow.wait with
  | .run => awaited.elim ((s.blockingOp e).elim e.2.regs.pc fun o => o.pc) fun r => r.pc
  | .accept _ => e.2.regs.pc - 4
  | .link x => x.op.elim e.2.regs.pc e.2.opPc
  | _ => e.2.regs.pc

/-! ### The arbiter (R46, R47, R152) -/

/-- The keys of R46, a lower list first: priority, deadline, start, context number; a context whose yield has not ended comes
after every other (R152), and of several such contexts the keys of R46 choose too (DESIGN CHOICE, log 98). -/
def State.arbiterKeys (s : State) (e : Nat × Task) : List Nat :=
  let yielded := if e.2.rank.yieldUntil ≤ (s.core (ctxCore e.1)).cycle then 0 else 1
  match e.2.ident.launch.bind s.launches.get? with
  | some l => [yielded, 7 - recordPrio l.record, recordDeadline l.record, e.2.rank.order, ctxNum e.1]
  | none => [yielded, 8, 2 ^ 64, e.2.rank.order, ctxNum e.1]

/-- The first of a list by the arbiter's keys. -/
def State.arbiter (s : State) : List (Nat × Task) → Option (Nat × Task)
  | [] => none
  | e :: es =>
    match s.arbiter es with
    | some x => if lexLt (s.arbiterKeys x) (s.arbiterKeys e) then some x else some e
    | none => some e

/-- A soft fault or a copy completion is due at this boundary of the context, which issues nothing before it (R140, R301, R338). -/
def State.due (s : State) (e : Nat × Task) : Bool :=
  let core := ctxCore e.1
  e.2.atBoundary (s.core core) &&
    (!e.2.flow.soft.isEmpty || (takeCompletion e.2.ident.tid (s.cluster (coreCluster core)).engine.done).isSome)

/-- The contexts of a core whose next instruction has been fetched and would issue in this cycle (R45). -/
def State.issuable (s : State) (core : Nat) (late : List Nat) : List (Nat × Task) :=
  s.ctxs.filter fun e => ctxCore e.1 == core && !late.contains (ctxNum e.1) && s.moves e && !s.due e

/-- The context a core issues from: the one for which an aging cycle reserved the array, once that is free, then the one it granted the
cycle (R47), else by R46. -/
def State.chosenCtx (s : State) (core : Nat) (late : List Nat) : Option (Nat × Task) :=
  let ready := s.issuable core late
  let reserved := ready.find? fun e => (s.core core).reserved == some (ctxNum e.1)
  let granted := ready.find? fun e => (s.core core).grant == some (ctxNum e.1)
  (reserved.orElse fun _ => granted).orElse fun _ => s.arbiter ready

/-! ### A cycle of a core -/

/-- The counter the fetched instruction writes, where the debug module does not ignore it (R348, R350). -/
def State.skips (s : State) (core : Nat) (t : Task) (f : Fetched) : Option Nat :=
  match f with
  | .instr i => (pmcWritten i).filter fun n => !s.locked core t (0x30 + n)
  | _ => none

/-- The grant of an aging cycle is for one cycle in which the core issues. -/
def State.spendGrant (s : State) (core : Nat) : State := s.setCore core { s.core core with grant := none }

/-- The task when it issues: its yield has ended (R152). -/
def Task.unyielded (t : Task) : Task := { t with rank := { t.rank with yieldUntil := 0 } }

/-- A context issues: what an aging cycle kept for it is used, whatever its instruction turns out to do (R47), and its yield has ended
(R152). -/
def State.picked (s : State) (core : Nat) (e : Nat × Task) : State :=
  let c := s.core core
  (s.setCore core { c with grant := none, reserved := if c.reserved == some (ctxNum e.1) then none else c.reserved }).setTask e.1
    e.2.unyielded

/-- A context whose fetch is late is not ready (R45). -/
def State.fetchLate (s : State) (core : Nat) (late : List Nat) : State :=
  { s with
    ctxs := s.ctxs.map fun e =>
      if ctxCore e.1 == core && late.contains (ctxNum e.1) then (e.1, { e.2 with rank := { e.2.rank with ready := none } }) else e }

/-- The instruction has issued and waits: it parks its context, or stalls it. -/
def State.waitsOn (s : State) (i : Nat) (t : Task) : Bool :=
  (s.task? i).any fun u => u.flow.seq == t.flow.seq && u.flow.wait != t.flow.wait

/-- The instruction has issued, though it did not retire: it has raised a cause, halted its core, or waits. -/
def State.raised (s : State) (i : Nat) (t : Task) : Bool :=
  (s.waitsOn i t) || (s.task? i).any fun u => u.flow.seq == t.flow.seq &&
    (u.flow.trap != t.flow.trap || u.flow.inUpcall != t.flow.inUpcall || u.flow.suspended != t.flow.suspended ||
      (s.core (ctxCore i)).halted)

/-- An instruction that waits will have issued when it issues again (R347, R353). -/
def State.markIssued (s : State) (i : Nat) (t : Task) : State :=
  match s.task? i with
  | some u => if s.waitsOn i t then s.setTask i { u with flow := { u.flow with issued := true } } else s
  | none => s

/-- Such an instruction counts as issued, once however often it waits (R347), and the breakpoint skip at its address is used up (R353). A word
that could not be fetched has not issued. -/
def State.noteRaised (s : State) (i : Nat) (t : Task) (f : Fetched) : State :=
  let core := ctxCore i
  let event := match f with
    | .instr x => some (eventOf x)
    | .bad _ => some 0
    | .stop _ => none
  match event with
  | some n =>
    if s.raised i t then
      let c := (s.core core).count (ctxNum i) 2 1
      let c := if n = 0 then c else c.count (ctxNum i) n 1
      let c := if t.flow.issued then s.core core else c
      (s.setCore core { c with bpSkip := c.bpSkip.filter (· != t.regs.pc) }).markIssued i t
    else s
  | none => s

/-- The issue of a chosen context, or its core's stop before it at a breakpoint (R353), which ends no cycle. -/
def State.issueFrom (s : State) (core : Nat) (e : Nat × Task) (aged : Nat) : Out :=
  if (s.bpMatch core e.2).isSome then execBreakpointMatch core (ctxNum e.1) ((s.spendGrant core).countAging core none aged)
  else
    let s := s.picked core e
    let t := e.2.unyielded
    let f := s.fetch e.1 t
    match (s.noteFetch e.1 t).issueFetched core (ctxNum e.1) t f with
    | .next s' => .next ((s'.noteRaised e.1 t f).endCycle core 0 (ctxNum e.1) (some t.regs.pc) (s.skips core t f) aged)
    | o => o

/-- One cycle of a core: it issues from the context the arbiter chooses, where there is one. A retired core is powered down
(R433). -/
def State.issueTurn (s : State) (core : Nat) (late : List Nat) : Out :=
  if (s.core core).health.retired then .next s
  else
    let r := (s.fetchLate core late).agingGrant core
    if !(r.1.core core).mayIssue then .next (r.1.idleCycle core r.2)
    else
      match r.1.chosenCtx core late with
      | none => .next ((r.1.spendGrant core).idleCycle core r.2)
      | some e => r.1.issueFrom core e r.2

/-- A core would issue from a context in this cycle; one that a DIP of this very time has stopped, as if it had not been (R351). -/
def State.issuesNext (s : State) (core ctx : Nat) : Bool :=
  let s := if s.dippingNow core then s.setCore core { s.core core with halted := false } else s
  (s.core core).mayIssue && (s.chosenCtx core []).any fun e => ctxNum e.1 == ctx

/-! ### Time (R379, R380, R389, R407) -/

/-- Nanoseconds that a slew adds or takes, at most those that have been earned. -/
def slewOf (slew : Int) (most : Nat) : Int := if 0 ≤ slew then min slew most else max slew (-most)

/-- How far a turn of time goes: the oscillator's ns, and the slew used in them. -/
structure Span where
  ns : Nat
  used : Int

/-- A turn of ns, at most to the next instant: 200 ns of slew are earned in each 1,000,000 ns, and what is left of one is kept (R407). One that
the slew would carry past the instant ends sooner, with a nanosecond of slew less. -/
def State.span (s : State) (ns : Nat) : Span :=
  let room := (s.stime / 1000000 + 1) * 1000000 - s.stime
  let n := min ns room
  let k := slewOf s.slew ((n * 200 + s.slewPart) / 1000000)
  if (n : Int) + k ≤ room then { ns := n, used := k } else { ns := room + 1 - k.toNat, used := k - 1 }

/-- STIME moves on with ns of the oscillator (R407). -/
def State.advance (s : State) (ns : Nat) : State :=
  let x := s.span ns
  let d := ((x.ns : Int) + x.used).toNat
  let left := x.ns * 200 + s.slewPart - 1000000 * x.used.natAbs
  let moved : State := { s with
    stime := s.stime + d, slew := s.slew - x.used, slewPart := if s.slew - x.used = 0 then 0 else min 1999999 left }
  (moved.holdQuanta d).refresh.atInstant

/-! ### Turns -/

/-- The events of the table: everything that is no instruction of a task. -/
def isEvent (i : Instr) : Bool :=
  match i with
  | .longLatencyCompletion .. | .agingCycle .. | .yieldExpiry .. | .gridAcquire .. | .upcallEntry ..
  | .copyCompletionDelivery .. | .messageArrival .. | .fabricStopAccept .. | .taskStart .. | .taskRestore ..
  | .quantumEnd .. | .contextSave .. | .borrowStep .. | .borrowGrantArrival .. | .weightReturn ..
  | .notificationTask .. | .hostBarrierDoorbell .. | .peerBarrierArrival .. | .mergeStep .. | .engineTakeRequest ..
  | .engineLineTransfer .. | .copyCompletion .. | .engineFault .. | .engineRetry .. | .engineMonitorFire ..
  | .translationWalk .. | .monitorFire .. | .lineRecall .. | .invalidationArrival .. | .invalidationAck ..
  | .invalidationDone .. | .weightStoreRefresh | .queueDoorbell .. | .slotIdleTimeout .. | .commandFetch ..
  | .cmdNop .. | .cmdLaunch .. | .cmdWait .. | .waitSatisfied .. | .cmdSignal .. | .cmdMsg .. | .cmdWsload ..
  | .wsloadComplete .. | .cmdXinv .. | .cmdResume .. | .cmdKill .. | .cmdUnpin .. | .cmdDec ..
  | .commandAccessRetry .. | .depRelease .. | .launchAcceptance .. | .launchStartReport .. | .launchCompletion ..
  | .queueMessageDelivery .. | .msixInterrupt .. | .retainedPartitionReclaim .. | .semaphoreRead ..
  | .semaphoreWrite .. | .memoryWindowAccess .. | .ueTransfer .. | .ueTransferComplete .. | .ualinkTimeout ..
  | .ptpDiscipline .. | .speedPublication | .measurementStart .. | .measurementEnd .. | .operatingPointControl ..
  | .correctedError .. | .uncorrectableError .. | .marginMonitorFire .. | .patrolScrub .. | .logOverflowRecord ..
  | .logLineFlush .. | .sample .. | .dbgHalt .. | .dbgRun .. | .dbgData .. | .dbgStatClear .. | .watchpointWrite ..
  | .breakpointMatch .. | .watchpointHit | .dip .. | .dipRelay .. | .containerLoad .. | .bootRetry | .packageReset
  | .portReset .. | .launchAbort .. | .abortNotice .. | .registerWrite .. | .ualinkPeerAccess ..
  | .incomingTransfer .. | .linkCreditReturn .. | .handoverArrival .. | .killAcknowledgement ..
  | .queueEnCleared .. => true
  | _ => false

/-- Another agent's write to physical memory, line by line: it waits for a line that a copy owns (R320), leaves a line of an image (R292) and a
poisoned one alone, and no last write of its lines is remembered (R323). -/
def State.poke (s : State) (pa : Nat) (bytes : List Byte) : State :=
  (linePieces pa bytes.length).foldl (fun s p => s.deviceBytes p.1 ((bytes.drop (p.1 - pa)).take p.2)) s

/-- A link's credit: gone, or back (R408). -/
def State.setCredit (s : State) (l : Link) (free : Bool) : Out :=
  if free then execLinkCreditReturn l s
  else .next { s with noCredit := if s.noCredit.contains l then s.noCredit else s.noCredit ++ [l] }

/-- One turn. -/
def State.turn (s : State) (u : Turn) : Out :=
  match u with
  | .issue core late => s.issueTurn core late
  | .event (.breakpointMatch core ctx) =>
    if s.issuesNext core ctx then exec (.breakpointMatch core ctx) s else .next s
  | .event i => if isEvent i then exec i s else .next s
  | .read (.dbg n 0x28) => execDbgData n none s
  | .read reg => .next (s.hostReads reg)
  | .time ns => .next (s.advance ns)
  | .poke pa bytes => .next (s.poke pa bytes)
  | .evict slice index =>
    let c := s.cluster slice
    .next (s.setCluster slice { c with cache := dropAt c.cache index })
  | .forget slice asid =>
    let c := s.cluster slice
    .next (s.setCluster slice { c with descs := c.descs.erase asid })
  | .credit l free => s.setCredit l free
  | .temperature core t => .next (s.mapHealth core fun h => { h with tnow := t })

/-! ### The default choice -/

/-- Events that messages, weight, kills and invalidations on their way make possible; a borrow reaches a record before a return
that meets it there (R261, DEDUCED, log 52). -/
def State.transitEvents (s : State) : List (State → Out) :=
  (Tab.keys s.fabric).flatMap (fun n => [execMessageArrival n, execQueueMessageDelivery n, execUeTransfer n]) ++
    s.stops.map (fun m => execFabricStopAccept m.id) ++
    (Tab.keys s.borrows).flatMap (fun n => [execBorrowStep n, execBorrowGrantArrival n]) ++
    (Tab.keys s.returns).map execWeightReturn ++
    (Tab.keys s.notes).map execNotificationTask ++ (Tab.keys s.handovers).map execHandoverArrival ++
    (Tab.keys s.kills).map execKillAcknowledgement ++
    s.invals.flatMap fun v =>
      match (List.range 640).find? fun n => !v.2.arrived.contains n, v.2.arrived.find? fun n => !v.2.acked.contains n with
      | some n, _ => [execInvalidationArrival v.1 n]
      | none, some n => [execInvalidationAck v.1 n]
      | none, none => [execInvalidationDone v.1]

/-- Events of contexts. -/
def State.contextEvents (s : State) : List (State → Out) :=
  s.ctxs.flatMap fun e =>
    let core := ctxCore e.1
    let ctx := ctxNum e.1
    (e.2.flow.inflight.map fun o => execLongLatencyCompletion core ctx o.seq) ++
      [execUpcallEntry core ctx, execCopyCompletionDelivery core ctx, execGridAcquire core ctx, execContextSave core ctx,
        execQuantumEnd core ctx, execYieldExpiry core ctx, execUalinkTimeout core ctx]

/-- Events of cores: starts and restores. -/
def State.coreEvents (s : State) : List (State → Out) :=
  (s.cores.flatMap fun c => if c.2.mailbox.isEmpty then [] else [execTaskStart c.1]) ++
    s.saved.map fun r => execTaskRestore r.2.core r.1

/-- Events of clusters: engines, monitors, merges, and debug. -/
def State.clusterEvents (s : State) : List (State → Out) :=
  (s.clusters.flatMap fun c =>
    (c.2.engine.active.flatMap fun q =>
      [execCopyCompletion c.1 q.id, execEngineLineTransfer c.1 q.id, execEngineFault c.1 q.id, execEngineRetry c.1 q.id]) ++
    (Tab.keys c.2.monitors).map (execMonitorFire c.1) ++ (Tab.keys c.2.engineMonitors).map (execEngineMonitorFire c.1)) ++
    (s.cores.flatMap fun c => if c.2.fifo.isEmpty then [] else [execEngineTakeRequest (coreCluster c.1)]) ++
    (Tab.keys s.chains).map execMergeStep ++ (if s.hits.isEmpty then [] else [execWatchpointHit]) ++ s.relays.map execDipRelay

/-- Events of the front end. -/
def State.frontEvents (s : State) : List (State → Out) :=
  (Tab.keys s.queues).flatMap (fun q =>
    [execCommandFetch q, execCmdNop q, execCmdLaunch q, execCmdWait q, execCmdSignal q, execCmdMsg q, execCmdWsload q,
      execWsloadComplete q, execCmdXinv q, execCmdResume q, execCmdKill q, execCmdUnpin q, execCmdDec q,
      execCommandAccessRetry q, execWaitSatisfied q, execDepRelease q, execMsixInterrupt q, execSlotIdleTimeout q]) ++
    s.launches.flatMap fun l =>
      [execLaunchAbort l.1, execLaunchCompletion l.1, execLaunchAcceptance l.1] ++
        (Tab.keys l.2.outstanding).map fun c => execLaunchStartReport l.1 c

/-- The operating point, every 10 µs (R430). -/
def State.controlEvents (s : State) : List (State → Out) := [execOperatingPointControl s.factor]

/-- The first of a list of events that changes the machine. -/
def State.firstEvent (s : State) : List (State → Out) → Option Out
  | [] => none
  | f :: fs =>
    match f s with
    | .next s' => if s' = s then s.firstEvent fs else some (.next s')
    | o => some o

/-- The one of two cores that has counted fewer cycles, the second where they are level. -/
def State.laggard (s : State) (a b : Nat) : Nat :=
  if (s.core a).cycle < (s.core b).cycle then a else b

/-- Something of a core is ready only in a later cycle: a result, or an instruction in flight. -/
def State.ripens (s : State) (e : Nat × Core) : Bool :=
  (e.2.results.any fun r => decide (e.2.cycle < r.until_)) ||
    s.ctxs.any fun t => ctxCore t.1 == e.1 && t.2.flow.inflight.any fun o => o.going && decide (e.2.cycle < o.ready)

/-- Passing cycles may let a core go on: a context of it waits for nothing that comes from elsewhere, something is ready only later, or
it has started a task or freed a context in this cycle. -/
def State.needsCycles (s : State) (e : Nat × Core) : Bool :=
  !e.2.health.retired &&
    (e.2.started == some e.2.cycle || e.2.freed.any (fun f => f.2 == e.2.cycle) || s.ripens e ||
      s.ctxs.any fun t => ctxCore t.1 == e.1 && t.2.flow.wait == .run && !t.2.flow.suspended && !e.2.halted)

/-- A core that needs cycles: of these the one that has counted the fewest, so that no context that could issue waits for
ever. -/
def State.defaultCore (s : State) : Option Nat :=
  match (s.cores ++ s.ctxs.map fun e => (ctxCore e.1, s.core (ctxCore e.1))).filter s.needsCycles with
  | [] => none
  | a :: rest => some (rest.foldl (fun x e => s.laggard x e.1) a.1)

/-- The default step: boot after a package reset, else the first event that can happen, else one issue and 1 ns, else time
(R437, DESIGN CHOICE, log 2). -/
def State.defaultStep (s : State) : Out :=
  if s.control.bootStage = 0 then .next s.boot
  else
    match s.firstEvent (s.transitEvents ++ s.contextEvents ++ s.coreEvents ++ s.clusterEvents ++ s.frontEvents ++ s.controlEvents) with
    | some o => o
    | none =>
      match s.defaultCore with
      | some core => (s.advance 1).issueTurn core []
      | none => .next (s.advance 1000)

/-- The context with what R47 counts of its readiness, and what it waits for. -/
def State.notesReady (s : State) (e : Nat × Task) : Nat × Task :=
  let code := s.blockOf e
  let block := if s.moves e then none else some (code, s.chargedPc e)
  (e.1, { e.2 with rank := { e.2.rank with ready := s.readySince e, block := block } })

/-- A core with the array reserved only for a context that is still ready (R47); while the core is halted the reservation stands. -/
def State.keepReserved (s : State) (e : Nat × Core) : Core :=
  let waits := s.ctxs.any fun t => ctxCore t.1 == e.1 && some (ctxNum t.1) == e.2.reserved && t.2.rank.ready.isSome
  if e.2.halted || waits then e.2 else { e.2 with reserved := none }

/-- Which contexts are ready, after a turn, and what the others wait for. -/
def State.settleReady (s : State) : State :=
  let s := { s with ctxs := s.ctxs.map s.notesReady }
  { s with cores := s.cores.map fun e => (e.1, s.keepReserved e) }

/-- The state of an event that changes it, where it does. -/
def outState (o : Out) (s : State) : State :=
  match o with
  | .next t => t
  | _ => s

/-- A queue parked on a signal or a counter is tested after every write (R370, R373), and a parked command of a queue whose EN is clear
is abandoned (R368). -/
def State.settleQueue (s : State) (q : Nat) : State :=
  let s := outState (execDepRelease q (outState (execWaitSatisfied q s) s)) s
  match (s.queue q).stuck with
  | some k => if s.enCleared q then s.abandonCommand q k else s
  | none => s

/-- Every parked queue. -/
def State.settleQueues (s : State) : State := (Tab.keys s.queues).foldl State.settleQueue s

/-- The directory keeps no private line that its chain does not hold any more (R273). -/
def State.settleArena (s : State) : State :=
  let held := fun (key : Nat) => s.chains.any fun c => (s.heldLine c.1 (key / 2 ^ 50 - 1) (key % 2 ^ 50)).isSome
  { s with directory := s.directory.filter fun e => decide (e.1 < 2 ^ 50) || held e.1 }

/-- What holds after every turn: writes, atomics, starts and loads that had to wait, parked queues, wakings, DRAINED, which contexts are ready, and
the next free value. -/
def State.settle (s : State) : State :=
  let s := s.settleOwed.settleAsks.settleInbound.settleQueues.settleLaunches.settleLoad.settleArena
  ({ s with ctxs := s.ctxs.map s.settleTask, free := s.free + 1 }.settleDrained).settleReady

/-- What settles after a turn. -/
def settled (o : Out) : Out :=
  match o with
  | .next s => .next s.settle
  | o => o

/-- One step of the machine: the next turn of the schedule, or the default choice where the schedule is empty. -/
def State.stepOnce (s : State) : Out :=
  match s.sched with
  | u :: us => settled ({ s with sched := us }.turn u)
  | [] => settled s.defaultStep

/-! ### A machine about to run one instruction -/

/-- The page tables of the placed instruction: the descriptor of address space 1, an L3 and an L2 entry, and a 1 GiB leaf with
every right that maps address 0 to itself. -/
def placedMem : Mem :=
  let m := Mem.writeNat [] 0x1020 8 0x100000
  let m := Mem.writeNat m 0x1030 1 1
  let m := Mem.writeNat m 0x100000 8 0x200001
  Mem.writeNat m 0x200000 8 0x1F

/-- The task of the placed instruction: context 0 of core 8, bank 0, registers as at a start (R39). -/
def placedTask : Task :=
  { regs := { s := Vector.replicate 64 0, p := 0, pc := 0x400000 }, ctl := Ctl.reset,
    ident := { tid := 8, path := 1, asid := 1, queue := 0, launch := none, coreSet := .all, parent := none },
    purse := { hoist := 0, weight := 0, outer := none, quiet := false, spawnIx := 0 }, window := 0, bank := some 0,
    views := [], token := none, flow := Flow.reset,
    rank := { order := 0, start := 0, quantum := 0, ready := some 0, waiting := 0, yieldUntil := 0, block := none } }

/-- A task whose next instruction has the given bytes, and a schedule that issues it next. -/
def State.placed (s : State) (bytes : List Byte) : State :=
  { s with
    mem := Mem.writeBytes placedMem 0x400000 bytes
    cfg := { s.cfg with astab := 0x1000 }
    ctxs := [(128, placedTask)]
    sched := [.issue 8 []] }

/-- The bytes of an instruction whose bits are w: word 0 at the lowest address, each word little-endian (R86). -/
def placedBytes (w : Nat) : List Byte := leBytes 8 w

end Sys2Proof.Machine
end

