-- ==== Sys2Proof/Machine/Step.lean ====
section
/-! DEFINITION. The step of the machine, and a state whose next step runs a given instruction. -/

namespace Sys2Proof.Machine

/-- One step. -/
def step (s : State) : Host.Outcome State Fault Refusal := s.stepOnce

/-- The state with the instruction whose bits are w stored where the next step fetches: a task in context 0 of core 8
of an address space of its own, and a schedule whose next turn issues from it. It stands for what loads a program
and starts its task from outside (DESIGN CHOICE, log 27). -/
def State.withFetchWord (s : State) (_nbits w : Nat) : State := s.placed (placedBytes w)

end Sys2Proof.Machine
end

