-- ==== Sys2Proof/Safety.lean ====
section
/-! DEFINITION. What statements about the machine are said in: the invariant of every step, when the context in focus can
issue, and what an instruction leaves as it was. -/

namespace Sys2Proof.Machine

/-! ### The invariant -/

/-- What every step keeps: memory and the scratchpads in canonical form (DESIGN CHOICE, log 5), and QUANTUM.LEN in its range (R389). -/
structure State.Inv (s : State) : Prop where
  mem : s.mem.wf = true
  spad : s.spad.wf = true
  quantum : 50 ≤ s.control.quantumLen ∧ s.control.quantumLen ≤ 100000

/-! ### The context in focus -/

/-- No result of a context is still to come (R48, R49). -/
def Core.settled (c : Core) (ctx : Nat) : Prop := ∀ e ∈ c.results, e.ctx = ctx → e.until_ ≤ c.cycle

/-- Task t is in focus and its next instruction may issue (R45): nothing holds the context back, no instruction of it is
in flight and no result of one still to come, no notifying atomic of it waits to be performed (R140), and eret has left neither
a skip plan nor a VDONE behind (R55, R182). -/
structure Running (s : State) (t : Task) : Prop where
  here : s.task? s.focus = some t
  free : t.held (s.core (ctxCore s.focus)) = false
  idle : t.flow.inflight = []
  settled : (s.core (ctxCore s.focus)).settled (ctxNum s.focus)
  told : s.asking t t.flow.seq = false
  plan : t.flow.skip.headD false = false
  fresh : t.flow.resumed = false

/-- The core in focus, and its number. -/
def State.here (s : State) : Nat := ctxCore s.focus
def State.hereCore (s : State) : Core := s.core s.here

/-- The divider of the core is free (R118). -/
def State.dividerFree (s : State) : Prop := s.hereCore.dividerUntil ≤ s.hereCore.cycle

/-- The array is free, and no other context has reserved it (R47, R60). -/
def State.arrayFree (s : State) : Prop :=
  s.hereCore.arrayUntil ≤ s.hereCore.cycle ∧
    (s.hereCore.reserved = none ∨ s.hereCore.reserved = some (ctxNum s.focus))

/-! ### What stays -/

/-- Two tasks agree in all but where the context stands between instructions and what the arbiter knows of it: in every
register, control register and view, and in identity, weight, window, bank and barrier token. -/
def Task.agrees (t u : Task) : Prop := { t with flow := u.flow, rank := u.rank } = u

/-- A context with nothing in flight after an instruction of it has issued (R50, R55). -/
def Flow.retired (f : Flow) : Flow :=
  { f with
    seq := f.seq + 1, woken := .no, resumed := false, linkSince := none, issued := false, skip := f.skip.drop 1, inflight := [] }

/-- A core but for what issue itself changes: occupancy of array and divider, results to come, the reservation, the breakpoint skip
and the performance counters. -/
def Core.kept (c d : Core) : Prop :=
  { d with
    arrayUntil := c.arrayUntil, dividerUntil := c.dividerUntil, results := c.results, reserved := c.reserved, bpSkip := c.bpSkip,
    pmc := c.pmc } = c

/-- Every byte of memory and of the scratchpads reads as before. -/
def State.sameBytes (s s' : State) : Prop :=
  (∀ a, s'.mem.read a = s.mem.read a) ∧ ∀ a, s'.spad.read a = s.spad.read a

/-- The other contexts hold what they held, and of every core only what issue changes has changed. -/
structure State.Apart (s s' : State) : Prop where
  others : ∀ i, i ≠ s.focus → s'.task? i = s.task? i
  cores : ∀ k, (s.core k).kept (s'.core k)

/-- The context in focus now holds u, one instruction further. -/
def State.holds (s' : State) (i : Nat) (u : Task) : Prop :=
  ∃ v, s'.task? i = some v ∧ v.agrees u ∧ v.flow = u.flow.retired

/-- An instruction on registers of its own context: the context holds u, and nothing else of the machine has changed. -/
structure Only (s s' : State) (u : Task) : Prop extends State.Apart s s' where
  task : s'.holds s.focus u
  bytes : s.sameBytes s'
  rest : { s' with ctxs := s.ctxs, cores := s.cores } = s

/-- The same, and bank n of the core now holds b. -/
structure OnlyBank (s s' : State) (u : Task) (n : Nat) (b : Bank) : Prop extends State.Apart s s' where
  task : s'.holds s.focus u
  bank : s'.bankOf s.here n = b
  banks : ∀ k m, 4 * k + m ≠ 4 * s.here + n → s'.bankOf k m = s.bankOf k m
  bytes : s.sameBytes s'
  rest : { s' with ctxs := s.ctxs, cores := s.cores, banks := s.banks } = s

/-! ### Accesses -/

/-- Who the context in focus is to an access, its task being t. -/
def State.who (s : State) (t : Task) : Who := taskWho s.focus t

/-- A cluster but for what accesses leave at its slice: translations and descriptors (R328, R397), the record of last writes, the slice
counters, which monitors have fired, and which watched signals have been met (R370). -/
def Cluster.kept (c d : Cluster) : Prop :=
  { d with
    cache := c.cache, descs := c.descs, lastWrites := c.lastWrites, monitors := c.monitors, engineMonitors := c.engineMonitors,
    signals := c.signals,
    dbg := { d.dbg with scnt := c.dbg.scnt } } = c

/-- A launch but for the ranges recorded as written beyond the package (R446). -/
def Launch.core (l : Launch) : Launch := { l with exports := [], overflow := false }

/-- Slices and launches hold what they held but for what accesses record there. -/
structure State.Recorded (s s' : State) : Prop where
  slices : ∀ k, (s.cluster k).kept (s'.cluster k)
  launches : ∀ l, (s'.launches.get? l).map Launch.core = (s.launches.get? l).map Launch.core

/-- Memory m with len bytes from address a on holding x, the lowest byte first (R16), and every other byte as in m. -/
def Mem.holds (m m' : Mem) (a len x : Nat) : Prop :=
  ∀ i, m'.read i = if a ≤ i ∧ i < a + len then BitVec.ofNat 8 (x / 2 ^ (8 * (i - a))) else m.read i

/-- len bytes at a place now hold x, and every other byte reads as before; a store to an IO page leaves by its port
(R402). A private line of a view is no byte of memory or of a scratchpad. -/
def State.stored (s s' : State) (p : Place) (len x : Nat) : Prop :=
  match p with
  | .mem pa _ => s.mem.holds s'.mem pa len x ∧ (∀ a, s'.spad.read a = s.spad.read a) ∧ s'.posted = s.posted
  | .spad k => s.spad.holds s'.spad k len x ∧ (∀ a, s'.mem.read a = s.mem.read a) ∧ s'.posted = s.posted
  | .io port pa =>
    s.sameBytes s' ∧ s'.posted = s.posted ++ [{ port := port, addr := pa % 2 ^ 50, data := leBytes len x }]
  | .arena .. => s.sameBytes s' ∧ s'.posted = s.posted

/-- An instruction that has read memory: its context holds u, every byte reads as before, and nothing else has changed but
what accesses record. -/
structure Reads (s s' : State) (u : Task) : Prop extends State.Apart s s', State.Recorded s s' where
  task : s'.holds s.focus u
  bytes : s.sameBytes s'
  rest : { s' with
    ctxs := s.ctxs, cores := s.cores, clusters := s.clusters, directory := s.directory, hits := s.hits,
    launches := s.launches } = s

/-- An instruction that has stored len bytes of x at place p: its context holds u, every other byte reads as before, and
nothing else has changed but what accesses record. -/
structure Stores (s s' : State) (u : Task) (p : Place) (len x : Nat) : Prop
    extends State.Apart s s', State.Recorded s s' where
  task : s'.holds s.focus u
  bytes : s.stored s' p len x
  rest : { s' with
    ctxs := s.ctxs, cores := s.cores, clusters := s.clusters, directory := s.directory, hits := s.hits,
    launches := s.launches, mem := s.mem, spad := s.spad, posted := s.posted } = s

/-- A long-latency instruction has gone into flight as o (R50): its context has moved on with its registers as they
were, and nothing else of the machine has changed. -/
structure Departs (s s' : State) (u : Task) (o : LLOp) : Prop extends State.Apart s s' where
  task : ∃ v, s'.task? s.focus = some v ∧ v.agrees u ∧ v.flow = { u.flow.retired with inflight := [o] }
  bytes : s.sameBytes s'
  rest : { s' with ctxs := s.ctxs, cores := s.cores } = s

/-! ### Vector registers -/

/-- The bank b of the core in focus. -/
def State.bankHere (s : State) (b : Nat) : Bank := s.bankOf s.here b

/-- Task t may issue an instruction of its vector bank b: it is running, holds the bank (R38), and the array is free. -/
structure Armed (s : State) (t : Task) (b : Nat) : Prop extends Running s t where
  bank : t.bank = some b
  array : s.arrayFree

/-- Register value x holds what f gives in its active elements of w bits, and every other bit of old. -/
def Elementwise (old x : VWord) (w : Nat) (active : Nat → Prop) (f : Nat → Nat) : Prop :=
  (∀ e, active e → elemGet x w e = f e) ∧ ∀ i < 8192, ¬ active (i / w) → x.getLsbD i = old.getLsbD i

/-- Flags fl are those that some active element raises. -/
def RaisedBy (fl : Flags) (active : Nat → Prop) (g : Nat → Flags) : Prop :=
  ∀ j : Nat, fl.getLsbD j = true ↔ ∃ e, active e ∧ (g e).getLsbD j = true

/-! ### Accesses of vector and tile instructions -/

/-- An access of the context in focus that lands at place p: aligned, within the address range, outside every view,
translated without a walk, and refused by nothing. -/
structure Lands (s : State) (t : Task) (acc len : Nat) (a : Word) (p : Place) : Prop where
  aligned : a.toNat % len = 0
  range : a.toNat < 2 ^ 56
  noView : viewAt (s.who t) a.toNat = none
  place : s.locate (s.who t) acc a.toNat len false false = .ok p
  steady : inWindow a.toNat = true ∨ (s.cached (nearSlice (s.who t).die a.toNat) t.ident.asid a.toNat).isSome = true

/-- No copy owns a line that was not mapped when it was taken. -/
def State.mapped (s : State) : Prop := ∀ e ∈ s.clusters, ∀ q ∈ e.2.engine.active, q.unmapped = []

/-- No line is poisoned, no slice checks mixed sizes, and no copy owns a line that was not mapped when it was taken, so no access
changes what the next one meets. -/
def State.quiet (s : State) : Prop :=
  s.poison = [] ∧ (∀ k, (s.cluster k).dbg.ctl.getLsbD 9 = false) ∧ s.mapped

/-- No copy owns a line and no write of the device waits for one, so every such write is performed at once (R320). -/
def State.unowned (s : State) : Prop :=
  s.owed = [] ∧ ∀ e ∈ s.clusters, ∀ q ∈ e.2.engine.active, q.own = [] ∧ q.unmapped = []

/-- No line is poisoned or an image's, and no channel has retired: no write of the device itself is dropped (R292, R434, R443), nor does
one wait. -/
def State.sound (s : State) : Prop :=
  s.poison = [] ∧ (∀ k, (s.channel k).retired = false) ∧ (∀ pa, s.imageLine pa = none) ∧ s.unowned

/-- An instruction that has read memory into bank n: its context holds u, the bank holds b, every byte reads as before,
and nothing else has changed but what accesses record. -/
structure ReadsBank (s s' : State) (u : Task) (n : Nat) (b : Bank) : Prop
    extends State.Apart s s', State.Recorded s s' where
  task : s'.holds s.focus u
  bank : s'.bankOf s.here n = b
  banks : ∀ k m, 4 * k + m ≠ 4 * s.here + n → s'.bankOf k m = s.bankOf k m
  bytes : s.sameBytes s'
  rest : { s' with
    ctxs := s.ctxs, cores := s.cores, banks := s.banks, clusters := s.clusters, directory := s.directory,
    hits := s.hits, launches := s.launches } = s

/-- The writes of a list that land in memory, and those that land in a scratchpad, in order: place, bytes, value. -/
def memWrites (m : Mem) (ws : List (Place × Nat × Nat)) : Mem :=
  ws.foldl (fun m w => match w.1 with | .mem pa _ => m.writeNat pa w.2.1 w.2.2 | _ => m) m
def spadWrites (m : Mem) (ws : List (Place × Nat × Nat)) : Mem :=
  ws.foldl (fun m w => match w.1 with | .spad k => m.writeNat k w.2.1 w.2.2 | _ => m) m

/-- A write of a list covers the byte of memory, or of a scratchpad, at an address. -/
def coversMem (ws : List (Place × Nat × Nat)) (a : Nat) : Prop :=
  ∃ pa home len x, (Place.mem pa home, len, x) ∈ ws ∧ pa ≤ a ∧ a < pa + len
def coversSpad (ws : List (Place × Nat × Nat)) (a : Nat) : Prop :=
  ∃ k len x, (Place.spad k, len, x) ∈ ws ∧ k ≤ a ∧ a < k + len

/-- An instruction that has made a list of writes, in order: its context holds u, bank n holds b, every byte outside the
writes reads as before, and nothing else has changed but what accesses record. -/
structure StoresMany (s s' : State) (u : Task) (n : Nat) (b : Bank) (ws : List (Place × Nat × Nat)) : Prop
    extends State.Apart s s', State.Recorded s s' where
  task : s'.holds s.focus u
  bank : s'.bankOf s.here n = b
  banks : ∀ k m, 4 * k + m ≠ 4 * s.here + n → s'.bankOf k m = s.bankOf k m
  mem : s'.mem = memWrites s.mem ws
  spad : s'.spad = spadWrites s.spad ws
  bytes : (∀ a, ¬ coversMem ws a → s'.mem.read a = s.mem.read a) ∧
    ∀ a, ¬ coversSpad ws a → s'.spad.read a = s.spad.read a
  rest : { s' with
    ctxs := s.ctxs, cores := s.cores, banks := s.banks, clusters := s.clusters, directory := s.directory,
    hits := s.hits, launches := s.launches, mem := s.mem, spad := s.spad } = s

/-- An instruction answers a next state of which P holds. -/
def Leads (o : Out) (P : State → Prop) : Prop := ∃ s', o = .next s' ∧ P s'

end Sys2Proof.Machine
end

