-- ==== Sys2Proof/Certificates/Slice0/Obligations.lean ====
section
/-! DEFINITION. The statements for the provers. Each says what the spec's rules say an instruction or the machine does;
`Leads` says that the instruction answers a next state, and `Only` or `OnlyBank` what that state is and keeps. -/

open Sys2Proof Sys2Proof.Machine

/-! ### Scalar instructions -/

/-- R117: the effect on s[d] of each register operation. -/
def Obligations.RegisterArithmetic : Prop :=
  ∀ (s : State) (t : Task) (d a b : SReg) (sh : Fin 4) (g : PReg), Running s t → t.getP g = true →
    let x := t.getS a
    let y := t.getS b
    let n := y.toNat % 64
    let gives := fun (i : Instr) (r : Word) => Leads (exec i s) (Only s · ((t.setS d r).setPc (t.regs.pc + 4)))
    gives (.add d a b g) (x + y) ∧
    gives (.sub d a b g) (x - y) ∧
    gives (.mul d a b g) (x * y) ∧
    gives (.mulh d a b g) ((x.signExtend 128 * y.signExtend 128).extractLsb' 64 64) ∧
    gives (.mulhn d a b g) ((x.zeroExtend 128 * y.zeroExtend 128).extractLsb' 64 64) ∧
    gives (.and d a b g) (x &&& y) ∧
    gives (.or d a b g) (x ||| y) ∧
    gives (.xor d a b g) (x ^^^ y) ∧
    gives (.shl d a b g) (x <<< n) ∧
    gives (.shr d a b g) (x >>> n) ∧
    gives (.sha d a b g) (x.sshiftRight n) ∧
    gives (.rot d a b g) ((x >>> n) ||| (x <<< (64 - n))) ∧
    gives (.min d a b g) (if x.toInt ≤ y.toInt then x else y) ∧
    gives (.max d a b g) (if x.toInt ≤ y.toInt then y else x) ∧
    gives (.minn d a b g) (if x.toNat ≤ y.toNat then x else y) ∧
    gives (.maxn d a b g) (if x.toNat ≤ y.toNat then y else x) ∧
    gives (.lea d a b sh g) (x + y <<< sh.val)

/-- R118: quotient and remainder, with the two borderline cases; the divider is busy for 36 cycles, and nothing traps or
sets a flag. A division that finds the divider busy waits for it: the machine is as it was, and the division issues later;
the reservation of an aging cycle is no part of that. -/
def Obligations.Division : Prop :=
  (∀ (s : State) (t : Task) (d a b : SReg) (g : PReg), Running s t → t.getP g = true → s.dividerFree →
    let x := t.getS a
    let y := t.getS b
    let gives := fun (i : Instr) (r : Word) => Leads (exec i s) fun s' =>
      Only s s' ((t.setS d r).setPc (t.regs.pc + 4)) ∧ (s'.core s.here).dividerUntil = s.hereCore.cycle + 36
    let corner := x.toInt = -(2 ^ 63) ∧ y.toInt = -1
    gives (.div d a b g)
      (if y = 0 then BitVec.allOnes 64 else if corner then x else BitVec.ofInt 64 (x.toInt.tdiv y.toInt)) ∧
    gives (.rem d a b g)
      (if y = 0 then x else if corner then 0 else BitVec.ofInt 64 (x.toInt - x.toInt.tdiv y.toInt * y.toInt)) ∧
    gives (.divn d a b g) (if y = 0 then BitVec.allOnes 64 else BitVec.ofNat 64 (x.toNat / y.toNat)) ∧
    gives (.remn d a b g) (if y = 0 then x else BitVec.ofNat 64 (x.toNat - x.toNat / y.toNat * y.toNat))) ∧
  (∀ (s : State) (t : Task) (d a b : SReg) (g : PReg), Running s t → t.getP g = true → ¬ s.dividerFree →
    ∀ i ∈ [Instr.div d a b g, .divn d a b g, .rem d a b g, .remn d a b g], exec i s = .next s)

/-- R119, R122, R123: the immediate forms, short and long; movi, lih and addpc. -/
def Obligations.Immediates : Prop :=
  (∀ (s : State) (t : Task) (d a : SReg) (imm : BitVec 11) (n : Fin 64) (g : PReg), Running s t → t.getP g = true →
    let x := t.getS a
    let gives := fun (i : Instr) (r : Word) => Leads (exec i s) (Only s · ((t.setS d r).setPc (t.regs.pc + 4)))
    gives (.addi d a imm g) (x + imm.signExtend 64) ∧
    gives (.andi d a imm g) (x &&& imm.signExtend 64) ∧
    gives (.ori d a imm g) (x ||| imm.signExtend 64) ∧
    gives (.xori d a imm g) (x ^^^ imm.signExtend 64) ∧
    gives (.shli d a n g) (x <<< n.val) ∧
    gives (.shri d a n g) (x >>> n.val) ∧
    gives (.shai d a n g) (x.sshiftRight n.val) ∧
    gives (.roti d a n g) ((x >>> n.val) ||| (x <<< (64 - n.val)))) ∧
  (∀ (s : State) (t : Task) (d a : SReg) (imm : BitVec 32) (g : GReg), Running s t → t.getP g = true →
    let x := t.getS a
    let gives := fun (i : Instr) (r : Word) => Leads (exec i s) (Only s · ((t.setS d r).setPc (t.regs.pc + 8)))
    gives (.addiLong d a imm g) (x + imm.signExtend 64) ∧
    gives (.andiLong d a imm g) (x &&& imm.signExtend 64) ∧
    gives (.oriLong d a imm g) (x ||| imm.signExtend 64) ∧
    gives (.xoriLong d a imm g) (x ^^^ imm.signExtend 64) ∧
    gives (.movi d imm g) (imm.signExtend 64)) ∧
  (∀ (s : State) (t : Task) (d : SReg) (imm : BitVec 17) (g : PReg), Running s t → t.getP g = true →
    let gives := fun (i : Instr) (r : Word) => Leads (exec i s) (Only s · ((t.setS d r).setPc (t.regs.pc + 4)))
    gives (.lih d imm g) (imm.signExtend 64 <<< 11) ∧
    gives (.addpc d imm g) (t.regs.pc + imm.signExtend 64 * 4))

/-- R120, R121: clz, ctz, popc and brev; bext and bins, bit by bit. -/
def Obligations.BitOperations : Prop :=
  (∀ (s : State) (t : Task) (d a : SReg) (g : PReg), Running s t → t.getP g = true →
    let x := t.getS a
    let gives := fun (i : Instr) (P : Word → Prop) =>
      ∃ r, P r ∧ Leads (exec i s) (Only s · ((t.setS d r).setPc (t.regs.pc + 4)))
    gives (.clz d a g) (fun r =>
      if x = 0 then r = 64 else r.toNat < 64 ∧ x.getLsbD (63 - r.toNat) = true ∧ ∀ i < r.toNat, x.getLsbD (63 - i) = false) ∧
    gives (.ctz d a g) (fun r =>
      if x = 0 then r = 64 else r.toNat < 64 ∧ x.getLsbD r.toNat = true ∧ ∀ i < r.toNat, x.getLsbD i = false) ∧
    gives (.popc d a g) (fun r => r.toNat = ((List.range 64).filter x.getLsbD).length) ∧
    gives (.brev d a g) (fun r => ∀ i < 64, r.getLsbD i = x.getLsbD (63 - i))) ∧
  (∀ (s : State) (t : Task) (d a b : SReg) (g : PReg), Running s t → t.getP g = true →
    let x := t.getS a
    let pos := (t.getS b).toNat % 64
    let len := min ((t.getS b).toNat / 2 ^ 8 % 128) 64
    let gives := fun (i : Instr) (P : Word → Prop) =>
      ∃ r, P r ∧ Leads (exec i s) (Only s · ((t.setS d r).setPc (t.regs.pc + 4)))
    gives (.bext d a b g) (fun r => ∀ i < 64, r.getLsbD i = (decide (i < len) && x.getLsbD (pos + i))) ∧
    gives (.bins d a b g) (fun r => ∀ i < 64,
      r.getLsbD i = if pos ≤ i ∧ i < pos + len then x.getLsbD (i - pos) else (t.getS d).getLsbD i))

/-- R97, R125 to R128: compares, predicate logic and select; sel is never suppressed, and a false guard suppresses the
others. -/
def Obligations.ComparesAndPredicates : Prop :=
  ∀ (s : State) (t : Task) (cc : Cc) (pd pa pb pc g : PReg) (d a b : SReg) (imm : BitVec 11) (long : BitVec 32)
    (tt : BitVec 4) (gl : GReg), Running s t →
    let holds := fun (x y : Word) => match cc with
      | .eq => decide (x = y)
      | .ne => decide (x ≠ y)
      | .lt => decide (x.toInt < y.toInt)
      | .ge => decide (y.toInt ≤ x.toInt)
      | .le => decide (x.toInt ≤ y.toInt)
      | .gt => decide (y.toInt < x.toInt)
      | .ltn => decide (x.toNat < y.toNat)
      | .gen => decide (y.toNat ≤ x.toNat)
      | .len => decide (x.toNat ≤ y.toNat)
      | .gtn => decide (y.toNat < x.toNat)
    let sets := fun (i : Instr) (n : Word) (g : Bool) (v : Bool) =>
      Leads (exec i s) (Only s · ((if g = true then t.setP pd v else t).setPc (t.regs.pc + n)))
    sets (.cmp cc pd a b g) 4 (t.getP g) (holds (t.getS a) (t.getS b)) ∧
    sets (.cmpi cc pd a imm g) 4 (t.getP g) (holds (t.getS a) (imm.signExtend 64)) ∧
    sets (.cmpiLong cc pd a long gl) 8 (t.getP gl) (holds (t.getS a) (long.signExtend 64)) ∧
    sets (.plog pd pa pb tt g) 4 (t.getP g) (tt.getLsbD (2 * (t.getP pa).toNat + (t.getP pb).toNat)) ∧
    Leads (exec (.sel d a b pc) s)
      (Only s · ((t.setS d (if t.getP pc then t.getS a else t.getS b)).setPc (t.regs.pc + 4)))

/-- R33: what a write of an s register or a predicate is read back as: s0 stays zero and p0 stays true. -/
def Obligations.HardwiredRegisters : Prop :=
  ∀ (t : Task) (d r : SReg) (x : Word) (pd pr : PReg) (b : Bool),
    t.getS 0 = 0 ∧ t.getP 0 = true ∧
    (t.setS d x).getS r = (if r = 0 then 0 else if r = d then x else t.getS r) ∧
    (t.setS d x).getP pr = t.getP pr ∧
    (t.setP pd b).getP pr = (if pr = 0 then true else if pr = pd then b else t.getP pr) ∧
    (t.setP pd b).getS r = t.getS r

/-- R50, R88: an instruction whose guard is false does nothing but advance the pc. -/
def Obligations.FalseGuard : Prop :=
  ∀ (s : State) (t : Task) (d a b : SReg) (sh : Fin 4) (imm : BitVec 11) (imm17 : BitVec 17) (imm32 : BitVec 32) (n : Fin 64)
    (cc : Cc) (pd pa pb : PReg) (tt : BitVec 4) (g : PReg) (gl : GReg) (w : Fin 4) (off : BitVec 19) (la : Fin 16)
    (sc : Scope) (ord : MemOrd) (size : MemSize) (op : AmoOp) (half : Bool), Running s t →
    let skips := fun (k : Word) (i : Instr) => Leads (exec i s) (Only s · (t.setPc (t.regs.pc + k)))
    (t.getP g = false →
      ∀ i ∈ [Instr.add d a b g, .sub d a b g, .mul d a b g, .mulh d a b g, .mulhn d a b g, .div d a b g, .divn d a b g,
        .rem d a b g, .remn d a b g, .and d a b g, .or d a b g, .xor d a b g, .shl d a b g, .shr d a b g, .sha d a b g,
        .rot d a b g, .min d a b g, .max d a b g, .minn d a b g, .maxn d a b g, .lea d a b sh g, .clz d a g, .ctz d a g,
        .popc d a g, .brev d a g, .bext d a b g, .bins d a b g, .addi d a imm g, .andi d a imm g, .ori d a imm g,
        .xori d a imm g, .shli d a n g, .shri d a n g, .shai d a n g, .roti d a n g, .lih d imm17 g, .addpc d imm17 g,
        .cmp cc pd a b g, .cmpi cc pd a imm g, .plog pd pa pb tt g, .ldxB d a b g, .ldxBn d a b g, .ldxH d a b g,
        .ldxHn d a b g, .ldxW d a b g, .ldxWn d a b g, .ldxD d a b g, .amoAddD d a b g, .amoAndD d a b g, .amoOrD d a b g,
        .amoXorD d a b g, .amoMinD d a b g, .amoMaxD d a b g, .amoMinnD d a b g, .amoMaxnD d a b g, .amoSwpD d a b g,
        .amoCasD d a b g, .amoFaddF64 d a b g, .amoTrigD d a b g, .amoAddW d a b g, .amoAndW d a b g, .amoOrW d a b g,
        .amoXorW d a b g, .amoMinW d a b g, .amoMaxW d a b g, .amoMinnW d a b g, .amoMaxnW d a b g, .amoSwpW d a b g,
        .amoCasW d a b g, .amoFaddF32 d a b g, .jr a g, .jalr d a g], skips 4 i) ∧
    (t.getP gl = false →
      ∀ i ∈ [Instr.movi d imm32 gl, .addiLong d a imm32 gl, .andiLong d a imm32 gl, .oriLong d a imm32 gl,
        .xoriLong d a imm32 gl, .cmpiLong cc pd a imm32 gl, .ldLong size d a off la sc ord gl,
        .stLong size d a off la sc ord gl, .amoLong op half d a b sc ord gl, .amoNtf op half d a b sc ord gl,
        .ldp d w a imm32 gl], skips 8 i)

/-! ### Control flow -/

/-- R53, R145, R146: branches and jumps. jalr reads s[a] before it writes the link. -/
def Obligations.BranchesAndJumps : Prop :=
  ∀ (s : State) (t : Task) (g : PReg) (inv : Bool) (off : BitVec 22) (d a : SReg), Running s t →
    let target := t.regs.pc + off.signExtend 64 * 4
    let next := t.regs.pc + 4
    let leads := fun (i : Instr) (u : Task) (pc : Word) => Leads (exec i s) (Only s · (u.setPc pc))
    leads (.br g inv off) t (if (t.getP g = true ↔ inv = false) then target else next) ∧
    leads (.j off) t target ∧
    leads (.jal off) (t.setS 63 next) target ∧
    (t.getP g = true → (t.getS a).toNat % 4 = 0 →
      leads (.jr a g) t (t.getS a) ∧ leads (.jalr d a g) (t.setS d next) (t.getS a))

/-! ### Scalar memory -/

/-- R129, R130, R132: a scalar load with no window, at an aligned address that no view covers: s[d] takes the len
bytes of the place the address names, the lowest first, extended as its form says. The access is performed in the step
that translates it, the model's choice (log 14). -/
def Obligations.ScalarLoads : Prop :=
  ∀ (s : State) (t : Task) (d a b : SReg) (off : BitVec 8) (long : BitVec 19) (so : SmOrd) (size : MemSize) (sc : Scope)
    (ord : MemOrd) (g : PReg) (gl : GReg) (p : Place), Running s t → t.getP g = true → t.getP gl = true →
    let loads := fun (i : Instr) (ea : Word) (len : Nat) (signed : Bool) (n : Word) =>
      ea.toNat % len = 0 → ea.toNat < 2 ^ 56 → viewAt (s.who t) ea.toNat = none →
      s.locate (s.who t) 0 ea.toNat len false false = .ok p →
      let m := BitVec.ofNat (8 * len) (s.readAt p ea.toNat len)
      Leads (exec i s)
        (Reads s · ((t.setS d (if signed then m.signExtend 64 else m.zeroExtend 64)).setPc (t.regs.pc + n)))
    let sm := fun (k : Word) => t.getS a + off.signExtend 64 * k
    let x := t.getS a + t.getS b
    let byte := t.getS a + long.signExtend 64
    loads (.ldD d a off 0 so) (sm 8) 8 false 4 ∧
    loads (.ldW d a off 0 so) (sm 4) 4 true 4 ∧
    loads (.ldWn d a off 0 so) (sm 4) 4 false 4 ∧
    loads (.ldxB d a b g) x 1 true 4 ∧
    loads (.ldxBn d a b g) x 1 false 4 ∧
    loads (.ldxH d a b g) x 2 true 4 ∧
    loads (.ldxHn d a b g) x 2 false 4 ∧
    loads (.ldxW d a b g) x 4 true 4 ∧
    loads (.ldxWn d a b g) x 4 false 4 ∧
    loads (.ldxD d a b g) x 8 false 4 ∧
    loads (.ldLong size d a long 0 sc ord gl) byte
      (match size with | .b | .bn => 1 | .h | .hn => 2 | .w | .wn => 4 | .d => 8)
      (match size with | .b | .h | .w => true | _ => false) 8

/-- R16, R129, R130: a scalar store with no window, at an aligned address that no view covers: the place the address
names holds the low bytes of s[d], and every other byte of the machine reads as before. The access is performed in the
step that translates it, the model's choice (log 14). -/
def Obligations.ScalarStores : Prop :=
  ∀ (s : State) (t : Task) (d a : SReg) (off : BitVec 8) (long : BitVec 19) (so : SmOrd) (size : MemSize) (sc : Scope)
    (ord : MemOrd) (gl : GReg) (p : Place), s.Inv → Running s t → t.getP gl = true →
    let stores := fun (i : Instr) (ea : Word) (len : Nat) (n : Word) =>
      ea.toNat % len = 0 → ea.toNat < 2 ^ 56 → viewAt (s.who t) ea.toNat = none →
      s.locate (s.who t) 1 ea.toNat len true false = .ok p →
      Leads (exec i s) (Stores s · (t.setPc (t.regs.pc + n)) p len ((t.getS d).toNat % 2 ^ (8 * len)))
    stores (.stD d a off 0 so) (t.getS a + off.signExtend 64 * 8) 8 4 ∧
    stores (.stW d a off 0 so) (t.getS a + off.signExtend 64 * 4) 4 4 ∧
    stores (.stLong size d a long 0 sc ord gl) (t.getS a + long.signExtend 64)
      (match size with | .b | .bn => 1 | .h | .hn => 2 | .w | .wn => 4 | .d => 8) 8

/-- R86, R130, R180, R329: what an access raises before it reaches a slice: ALIGN where its address is no multiple of its
size, else XLATE where bits [63:56] of it are not zero; ALIGN at a jump to a target off a word boundary, with ACC 7, which is the model's
reading (log 44). No register but
those of the upcall, and no byte, changes. A vector access checks every active address before any element: the first
that fails raises its cause, with VDONE clear, and no element is accessed. -/
def Obligations.AddressChecks : Prop :=
  (∀ (s : State) (t : Task) (d a b : SReg) (off : BitVec 8) (la : Fin 16) (so : SmOrd) (g : PReg),
    Running s t → t.getP g = true →
    let raises := fun (i : Instr) (ea : Word) (len acc : Nat) =>
      (ea.toNat % len ≠ 0 →
        exec i s = .next (s.enterUpcall s.focus t { cause ALIGN ea t.regs.pc with acc := acc } 0)) ∧
      (ea.toNat % len = 0 → 2 ^ 56 ≤ ea.toNat →
        exec i s = .next (s.enterUpcall s.focus t { cause XLATE ea t.regs.pc with acc := acc } 0))
    raises (.ldD d a off la so) (t.getS a + off.signExtend 64 * 8) 8 0 ∧
    raises (.ldW d a off la so) (t.getS a + off.signExtend 64 * 4) 4 0 ∧
    raises (.ldWn d a off la so) (t.getS a + off.signExtend 64 * 4) 4 0 ∧
    raises (.stD d a off la so) (t.getS a + off.signExtend 64 * 8) 8 1 ∧
    raises (.stW d a off la so) (t.getS a + off.signExtend 64 * 4) 4 1 ∧
    raises (.ldxH d a b g) (t.getS a + t.getS b) 2 0 ∧
    raises (.ldxW d a b g) (t.getS a + t.getS b) 4 0 ∧
    raises (.ldxD d a b g) (t.getS a + t.getS b) 8 0 ∧
    raises (.amoAddD d a b g) (t.getS a) 8 2 ∧
    raises (.amoCasW d a b g) (t.getS a) 4 2 ∧
    raises (.amoTrigD d a b g) (t.getS a) 64 2 ∧
    ((t.getS a).toNat % 4 ≠ 0 →
      exec (.jr a g) s = .next (s.enterUpcall s.focus t (cause ALIGN (t.getS a) t.regs.pc) 0) ∧
      exec (.jalr d a g) s = .next (s.enterUpcall s.focus t (cause ALIGN (t.getS a) t.regs.pc) 0))) ∧
  (∀ (s : State) (t : Task) (b : Nat) (ty : Ty) (d : VReg) (a : SReg) (k : KReg) (la : Fin 16) (j : Nat), Armed s t b →
    let len := (ty.bits + 7) / 8
    let n := min t.ctl.vl.toNat (8192 / ty.bits)
    let units := (List.range (if ty = .e2m1 then (n + 1) / 2 else n)).filter ((s.bankHere b).getK k).getLsbD
    let addr := fun (j : Nat) => t.getS a + BitVec.ofNat 64 (j * len)
    let sound := fun (j : Nat) => (addr j).toNat % len = 0 ∧ (addr j).toNat < 2 ^ 56
    let code := if (addr j).toNat % len ≠ 0 then ALIGN else XLATE
    j ∈ units → ¬ sound j → (∀ i ∈ units, i < j → sound i) →
    exec (.vld ty d a k la) s =
      .next (s.enterUpcall s.focus t { cause code (addr j) t.regs.pc with acc := 0, vdone := some 0 } 0) ∧
    exec (.vst ty d a k la) s =
      .next (s.enterUpcall s.focus t { cause code (addr j) t.regs.pc with acc := 1, vdone := some 0 } 0))

/-- R50, R51, R132: a load or store with a window goes into flight with its window and its pending set: the destination
of a load but never s0, and nothing of a store, whose data it has read; it may complete once the cycles of R48 have passed.
R50 to R53: while an instruction is in flight, one that touches a register it holds pending raises LOOKAHEAD with the
instruction's address, once the window has drained; one that touches none issues; one that ends windows waits.
That a load counts 5 cycles in the scratchpad and 8 elsewhere is the model's reading of R48 (log 50). -/
def Obligations.Windows : Prop :=
  (∀ (s : State) (t : Task) (d a : SReg) (off : BitVec 8) (la : Fin 16) (so : SmOrd), Running s t → la ≠ 0 →
    let ea := fun (k : Word) => t.getS a + off.signExtend 64 * k
    let flies := fun (i : Instr) (ea : Word) (len lat : Nat) (work : LLWork) (pend : List Res) =>
      ea.toNat % len = 0 → ea.toNat < 2 ^ 56 →
      Leads (exec i s) (Departs s · (t.setPc (t.regs.pc + 4))
        { seq := t.flow.seq, last := t.flow.seq + la, pc := t.regs.pc, work := work, pend := pend,
          ready := s.hereCore.cycle + lat, done := false, failed := none, since := none })
    let dest := if d = 0 then [] else [Res.s d]
    let ordered : Bool := decide (so ≠ .rlx)
    let lat := fun (ea : Word) => if ea.toNat / 2 ^ 49 = 0x78 then 5 else 8
    flies (.ldD d a off la so) (ea 8) 8 (lat (ea 8)) (.load d 8 false ordered (ea 8)) dest ∧
    flies (.ldW d a off la so) (ea 4) 4 (lat (ea 4)) (.load d 4 true ordered (ea 4)) dest ∧
    flies (.ldWn d a off la so) (ea 4) 4 (lat (ea 4)) (.load d 4 false ordered (ea 4)) dest ∧
    flies (.stD d a off la so) (ea 8) 8 0 (.store 8 ordered (ea 8) (t.getS d)) [] ∧
    flies (.stW d a off la so) (ea 4) 4 0 (.store 4 ordered (ea 4) (t.getS d)) []) ∧
  (∀ (s : State) (t : Task) (o : LLOp) (d a b : SReg) (off : BitVec 22) (g : PReg),
    s.task? s.focus = some t → t.held (s.core (ctxCore s.focus)) = false →
    (s.core (ctxCore s.focus)).settled (ctxNum s.focus) → t.flow.skip.headD false = false →
    t.flow.resumed = false → t.flow.inflight = [o] → o.done = false → t.flow.seq ≤ o.last → t.getP g = true →
    (∀ r : SReg, r ∈ [d, a, b] → r ≠ 0 → Res.s r ∈ o.pend →
      exec (.add d a b g) s =
        .next (s.setTask s.focus
          { t with flow := { t.flow with trap := some (cause LOOKAHEAD o.pc t.regs.pc) } })) ∧
    ((∀ r : SReg, r ∈ [d, a, b] → r ≠ 0 → Res.s r ∉ o.pend) → (∀ n : PReg, n ≠ 0 → Res.p n ∉ o.pend) →
      Leads (exec (.add d a b g) s) fun s' =>
        ∃ v, s'.task? s.focus = some v ∧ v.agrees ((t.setS d (t.getS a + t.getS b)).setPc (t.regs.pc + 4)) ∧
          v.flow = { t.flow.retired with inflight := [o] }) ∧
    exec (.j off) s = .next s ∧ exec .nop s = .next s ∧ exec .eret s = .next s)

/-! ### Atomics and parameter windows -/

/-- R137 to R139: an atomic outside every view: s[d] takes the old value, sign-extended from 32 bits but for minn,
maxn and fadd, and the place its address names takes the new one. x is s[b] and e is s[d] before the instruction. The
access is performed in the step that translates it, the model's choice (log 14). -/
def Obligations.Atomics : Prop :=
  ∀ (s : State) (t : Task) (d a b : SReg) (half : Bool) (op : AmoOp) (sc : Scope) (ord : MemOrd) (g : PReg) (gl : GReg)
    (p : Place), s.Inv → Running s t → t.getP g = true → t.getP gl = true →
    let ea := t.getS a
    let new := fun (w : Nat) (op : AmoOp) (m x e : BitVec w) => match op with
      | .add => m + x
      | .and => m &&& x
      | .or => m ||| x
      | .xor => m ^^^ x
      | .min => if m.toInt ≤ x.toInt then m else x
      | .max => if m.toInt ≤ x.toInt then x else m
      | .minn => if m.toNat ≤ x.toNat then m else x
      | .maxn => if m.toNat ≤ x.toNat then x else m
      | .swp => x
      | .cas => if m = e then x else m
      | .fadd => BitVec.ofNat w ((if w = 64 then fmtF64 else fmtF32).add .rne m.toNat x.toNat).val
      | .trig => m
    let steps := fun (i : Instr) (op : AmoOp) (len : Nat) (n : Word) =>
      ea.toNat % len = 0 → ea.toNat < 2 ^ 56 → viewAt (s.who t) ea.toNat = none →
      s.locate (s.who t) 2 ea.toNat len false false = .ok p →
      let m := BitVec.ofNat (8 * len) (s.readAt p ea.toNat len)
      let x := new (8 * len) op m ((t.getS b).setWidth (8 * len)) ((t.getS d).setWidth (8 * len))
      let old := if op = .minn ∨ op = .maxn ∨ op = .fadd then m.zeroExtend 64 else m.signExtend 64
      Leads (exec i s) fun s' => ∃ y, BitVec.ofNat (8 * len) y = x ∧
        Stores s s' ((t.setS d old).setPc (t.regs.pc + n)) p len y
    steps (.amoAddD d a b g) .add 8 4 ∧
    steps (.amoAndD d a b g) .and 8 4 ∧
    steps (.amoOrD d a b g) .or 8 4 ∧
    steps (.amoXorD d a b g) .xor 8 4 ∧
    steps (.amoMinD d a b g) .min 8 4 ∧
    steps (.amoMaxD d a b g) .max 8 4 ∧
    steps (.amoMinnD d a b g) .minn 8 4 ∧
    steps (.amoMaxnD d a b g) .maxn 8 4 ∧
    steps (.amoSwpD d a b g) .swp 8 4 ∧
    steps (.amoCasD d a b g) .cas 8 4 ∧
    steps (.amoFaddF64 d a b g) .fadd 8 4 ∧
    steps (.amoAddW d a b g) .add 4 4 ∧
    steps (.amoAndW d a b g) .and 4 4 ∧
    steps (.amoOrW d a b g) .or 4 4 ∧
    steps (.amoXorW d a b g) .xor 4 4 ∧
    steps (.amoMinW d a b g) .min 4 4 ∧
    steps (.amoMaxW d a b g) .max 4 4 ∧
    steps (.amoMinnW d a b g) .minn 4 4 ∧
    steps (.amoMaxnW d a b g) .maxn 4 4 ∧
    steps (.amoSwpW d a b g) .swp 4 4 ∧
    steps (.amoCasW d a b g) .cas 4 4 ∧
    steps (.amoFaddF32 d a b g) .fadd 4 4 ∧
    (op ≠ .trig → steps (.amoLong op half d a b sc ord gl) op (if half then 4 else 8) 8)

/-- R143: amo.trig with a unit of weight, outside every window and view: COUNT falls by s[b] and s[d] takes the old one.
Where it passes from above zero to zero or below, the handler's message departs with the unit and the line is marked
fired; otherwise the unit returns to the record, and a line that was already empty is marked underrun.
R140: a notifying atomic that its place performs: the place takes the new value, no register of the context changes
but WEIGHT and the spawn index, and a notification waits that carries the address, the old value and the operand. R140, R320: where a copy
owns its line the instruction is complete all the same, and its request waits. -/
def Obligations.AtomicsWithNotice : Prop :=
  (∀ (s : State) (t : Task) (d a b : SReg) (half : Bool) (sc : Scope) (ord : MemOrd) (g : PReg) (gl : GReg) (p : Place)
    (core : Nat) (bad : Bool), s.Inv → Running s t → t.getP g = true → t.getP gl = true → 1 ≤ t.purse.weight →
    let ea := t.getS a
    let line := s.readAt p ea.toNat 64
    let word := fun (i : Nat) => BitVec.ofNat 64 (line / 2 ^ (64 * i))
    let path := childPath t.ident.path t.purse.spawnIx
    let old := word 0
    let fires := 0 < old.toInt ∧ old.toInt - (t.getS b).toInt ≤ 0
    let marks := if fires then (if bad then 5 else 1) else if old.toInt ≤ 0 then 2 else 0
    let state := if marks = 0 then (word 7).toNat else (word 7).toNat % 8 ||| marks
    let new := (old - t.getS b).toNat + line % 2 ^ 448 / 2 ^ 64 * 2 ^ 64 + state * 2 ^ 448
    let u := ((t.give 1).nextIndex).setS d old
    let msg : Msg :=
      { id := s.nextId, dst := .core core, hdr := word 1, args := #v[word 3, word 4, word 5, word 6], s5 := t.ident.tid,
        weight := 1, hoist := t.purse.hoist, ident := { t.ident with tid := 0, path := path, parent := none }, views := [],
        sender := none, senderPath := t.ident.path, launchStart := false, arrived := 0 }
    ea.toNat % 64 = 0 → ea.toNat < 2 ^ 56 → inWindow ea.toNat = false → viewAt (s.who t) ea.toNat = none →
    s.locate (s.who t) 2 ea.toNat 64 false false = .ok p → (∃ pa h, p = .mem pa h) →
    (fires → s.trigTarget s.focus t line path = some (core, bad)) →
    let ends := fun (i : Instr) (n : Word) => Leads (exec i s) fun s' => ∃ m,
      Stores s m (u.setPc (t.regs.pc + n)) p 64 new ∧
      s' = { m with
        nextId := s.nextId + 1
        fabric := if fires then s.fabric.set s.nextId msg else s.fabric
        returns := if fires then s.returns else
          s.returns.set s.nextId
            { src := coreOrigin s.here t.ident.tid, asid := t.ident.asid, hoist := t.purse.hoist, amount := 1, kill := false } }
    ends (.amoTrigD d a b g) 4 ∧ ends (.amoLong .trig half d a b sc ord gl) 8) ∧
  (∀ (s : State) (t : Task) (op : AmoOp) (half : Bool) (d a b : SReg) (sc : Scope) (ord : MemOrd) (g : GReg) (p : Place),
    s.Inv → Running s t → t.getP g = true → 1 ≤ t.purse.weight →
    let ea := t.getS a
    let len := if half then 4 else 8
    let old := s.readAt p ea.toNat len
    let new := amoValue op (8 * len) ((t.getS b).toNat % 2 ^ (8 * len)) 0 old
    let note : Msg :=
      { id := s.nextId, dst := .core s.here, hdr := t.getS d, args := #v[ea, amoOld op (8 * len) old, t.getS b, 0],
        s5 := t.ident.tid, weight := 1, hoist := t.purse.hoist,
        ident := { t.ident with tid := 0, path := childPath t.ident.path t.purse.spawnIx, parent := none }, views := [],
        sender := none, senderPath := t.ident.path, launchStart := false, arrived := 0 }
    ea.toNat % len = 0 → ea.toNat < 2 ^ 56 → viewAt (s.who t) ea.toNat = none →
    (s.locate (s.who t) 2 ea.toNat len false false = .ok p →
      Leads (exec (.amoNtf op half d a b sc ord g) s) fun s' => ∃ m,
        Stores s m (((t.give 1).nextIndex).setPc (t.regs.pc + 8)) p len new ∧
        s' = { m with nextId := s.nextId + 1, notes := s.notes.set s.nextId note }) ∧
    (s.locate (s.who t) 2 ea.toNat len false false = .error .hold →
      Leads (exec (.amoNtf op half d a b sc ord g) s) fun s' => ∃ m r,
        Only s m (((t.give 1).nextIndex).setPc (t.regs.pc + 8)) ∧
        s' = { m with nextId := s.nextId + 1, asks := s.asks.set s.nextId r } ∧
        r.who = s.who t ∧ r.ident = t.ident ∧ r.hoist = t.purse.hoist ∧ r.op = op ∧ r.len = len ∧ r.ea = ea ∧
        r.x = (t.getS b).toNat % 2 ^ (8 * len) ∧ r.seq = t.flow.seq ∧ r.since = none ∧
        r.msg = { note with id := 0, args := #v[ea, 0, t.getS b, 0] }))

/-- R134, R135: ldp reads eight bytes of a bound window; out of its bound it reads 0 and PARAM_STAT records the window; an
unbound window raises PARAM with its number. -/
def Obligations.ParameterWindows : Prop :=
  (∀ (s : State) (t : Task) (d a : SReg) (w : Fin 4) (imm : BitVec 32) (g : GReg), Running s t → t.getP g = true →
    let bytes := s.window t w
    let off := (t.getS a + imm.signExtend 64).toNat
    let value := ((bytes.drop off).take 8).foldr (fun b n => b.toNat + 256 * n) 0
    let next := t.regs.pc + 8
    (bytes ≠ [] → off + 8 ≤ bytes.length →
      Leads (exec (.ldp d w a imm g) s) (Only s · ((t.setS d (BitVec.ofNat 64 value)).setPc next))) ∧
    (bytes ≠ [] → bytes.length < off + 8 →
      Leads (exec (.ldp d w a imm g) s)
        (Only s · (({ t.setS d 0 with
          ctl := { t.ctl with
            paramStat := t.ctl.paramStat ||| 1 ||| BitVec.twoPow 64 (w.val + 1) } } : Task).setPc next))) ∧
    (bytes = [] →
      exec (.ldp d w a imm g) s = .next (s.enterUpcall s.focus t (cause PARAM (BitVec.ofNat 64 w) t.regs.pc) 0)))

/-! ### Control registers and the system group -/

/-- R40, R147, R348: the value mfc gives for every control register, of a counter the one it held as the last cycle ended, and ILLEGAL for
every other number. -/
def Obligations.ControlRegisterReads : Prop :=
  ∀ (s : State) (t : Task) (a : SReg) (n : BitVec 8), Running s t →
    let c := t.ctl
    let k := s.hereCore
    let values : List (BitVec 8 × Word) := [
      (0x00#8, t.ident.tid), (0x01#8, t.ident.path), (0x02#8, t.purse.hoist &&& 0x00FFFFFFFFFFFFC0),
      (0x03#8, BitVec.ofNat 64 t.purse.weight),
      (0x04#8, if t.window = 0 then 0 else BitVec.ofNat 64 (t.window * 2 ^ 8 + 1)), (0x05#8, c.vl),
      (0x06#8, match t.bank with | some b => BitVec.ofNat 64 (2 ^ 7 + b) | none => 0), (0x07#8, c.rnd), (0x08#8, c.mfmt),
      (0x09#8, c.mscaleA), (0x0A#8, c.mscaleB), (0x0B#8, c.mzp), (0x0C#8, c.fflags), (0x10#8, c.upcVec), (0x11#8, c.upcCause),
      (0x12#8, c.upcAddr), (0x13#8, c.upcPc), (0x14#8, c.vdone), (0x15#8, c.upcSave), (0x18#8, c.xferId), (0x19#8, c.xferVec),
      (0x1A#8, c.xferPc), (0x20#8, BitVec.ofNat 64 s.here), (0x21#8, s.speedReg s.here),
      (0x22#8, BitVec.ofNat 64 (2 * k.health.curve.frugal.toNat + k.health.curve.fast.toNat)), (0x23#8, s.snapReg s.here t),
      (0x24#8, BitVec.ofNat 64 s.stime), (0x25#8, BitVec.ofNat 64 k.cycle), (0x26#8, s.wsref t), (0x28#8, k.logCtl),
      (0x30#8, k.seen[0]), (0x31#8, k.seen[1]), (0x32#8, k.seen[2]), (0x33#8, k.seen[3]), (0x34#8, k.seen[4]), (0x35#8, k.seen[5]),
      (0x36#8, k.seen[6]), (0x37#8, k.seen[7]), (0x38#8, k.pms[0]), (0x39#8, k.pms[1]), (0x3A#8, k.pms[2]), (0x3B#8, k.pms[3]),
      (0x3C#8, k.pms[4]), (0x3D#8, k.pms[5]), (0x3E#8, k.pms[6]), (0x3F#8, k.pms[7]), (0x40#8, c.paramStat), (0x50#8, c.curveSel),
      (0x51#8, s.curveV c.curveSel), (0x52#8, s.curveF c.curveSel), (0x53#8, s.curveL c.curveSel),
      (0x54#8, s.curveTime c.curveSel)]
    (∀ e ∈ values, Leads (exec (.mfc a e.1) s) (Only s · ((t.setS a e.2).setPc (t.regs.pc + 4)))) ∧
    ((∀ e ∈ values, e.1 ≠ n) →
      exec (.mfc a n) s =
        .next (s.enterUpcall s.focus t (cause ILLEGAL (BitVec.ofNat 64 (word0 (.mfc a n))) t.regs.pc) 0))

/-- R17, R18, R41, R147, R345, R347, R348, R350: what mtc does to each control register. A value with a reserved bit set, or one the
register's map refuses, raises ILLEGAL, as does a number that R40 does not list; a register with no writable field ignores
the write, and so does one that ULOCK locks. -/
def Obligations.ControlRegisterWrites : Prop :=
  ∀ (s : State) (t : Task) (a : SReg), Running s t →
    let x := t.getS a
    let c := t.ctl
    let illegal := fun (i : Instr) =>
      exec i s = .next (s.enterUpcall s.focus t (cause ILLEGAL (BitVec.ofNat 64 (word0 i)) t.regs.pc) 0)
    let own : List (BitVec 8 × Word × Bool × Ctl) := [
      (0x05#8, 0xFFF, decide (x.toNat ≤ 2048), { c with vl := x }),
      (0x07#8, 0x7, decide (x.toNat ≤ 4), { c with rnd := x }),
      (0x08#8, 0xFFFF0FC1, cregValueOk 8 x, { c with mfmt := x }),
      (0x09#8, 0xFFFFFFFF, true, { c with mscaleA := x }),
      (0x0A#8, 0xFFFFFFFF, true, { c with mscaleB := x }),
      (0x0B#8, 0x1F, true, { c with mzp := x }),
      (0x0C#8, 0x3F, true, { c with fflags := x }),
      (0x10#8, 0x00FFFFFFFFFFFFFC, true, { c with upcVec := x }),
      (0x11#8, 0x0000FFFFFFFFF0FF, true, { c with upcCause := x }),
      (0x12#8, 0xFFFFFFFFFFFFFFFF, true, { c with upcAddr := x }),
      (0x13#8, 0x00FFFFFFFFFFFFFC, true, { c with upcPc := x }),
      (0x14#8, 0xFFFFFFFFFFFFFFFF, true, { c with vdone := x }),
      (0x15#8, 0xFFFFFFFFFFFFFFFF, true, { c with upcSave := x }),
      (0x19#8, 0x00FFFFFFFFFFFFFC, true, { c with xferVec := x }),
      (0x1A#8, 0x00FFFFFFFFFFFFFC, true, { c with xferPc := x }),
      (0x40#8, 0x1F, true, { c with paramStat := c.paramStat &&& ~~~x }),
      (0x50#8, 0x71FFF, decide (x.toNat % 2 ^ 13 ≤ 5119), { c with curveSel := x })]
    let free := t.ident.launch = none ∨ (s.cluster (coreCluster s.here)).dbg.ctl.getLsbD 10 = false
    let sper := x.toNat / 2 ^ 16 % 2 ^ 5
    (∀ e ∈ own,
      (x &&& ~~~e.2.1 = 0 → e.2.2.1 = true →
        Leads (exec (.mtc a e.1) s) (Only s · (({ t with ctl := e.2.2.2 } : Task).setPc (t.regs.pc + 4)))) ∧
      (x &&& ~~~e.2.1 ≠ 0 ∨ e.2.2.1 = false → illegal (.mtc a e.1))) ∧
    (∀ n ∈ [(0x00 : BitVec 8), 0x01, 0x02, 0x03, 0x04, 0x06, 0x18, 0x20, 0x21, 0x22, 0x23, 0x24, 0x25, 0x26, 0x51, 0x52,
        0x53, 0x54], Leads (exec (.mtc a n) s) (Only s · (t.setPc (t.regs.pc + 4)))) ∧
    (∀ i : Fin 8, free →
      Leads (exec (.mtc a (0x30 + BitVec.ofNat 8 i)) s) fun s' => ∃ m, Only s m (t.setPc (t.regs.pc + 4)) ∧
        s' = m.setCore s.here { m.core s.here with pmc := (m.core s.here).pmc.set i x, seen := (m.core s.here).seen.set i x }) ∧
    (∀ i : Fin 8, free →
      (x &&& ~~~0x1F00FF = 0 → x.toNat % 2 ^ 8 ≤ 21 →
        Leads (exec (.mtc a (0x38 + BitVec.ofNat 8 i)) s) fun s' => ∃ m, Only s m (t.setPc (t.regs.pc + 4)) ∧
          s' = m.setCore s.here { m.core s.here with pms := (m.core s.here).pms.set i x }) ∧
      (x &&& ~~~0x1F00FF ≠ 0 ∨ 21 < x.toNat % 2 ^ 8 → illegal (.mtc a (0x38 + BitVec.ofNat 8 i)))) ∧
    (free →
      (x &&& ~~~0x1F0001 = 0 → sper = 0 ∨ (8 ≤ sper ∧ sper ≤ 24) →
        Leads (exec (.mtc a 0x28) s) fun s' => ∃ m, Only s m (t.setPc (t.regs.pc + 4)) ∧ s' = m.writeLogCtl s.here x) ∧
      (x &&& ~~~0x1F0001 ≠ 0 ∨ ¬ (sper = 0 ∨ (8 ≤ sper ∧ sper ≤ 24)) → illegal (.mtc a 0x28))) ∧
    (∀ n : BitVec 8,
      (0x0C < n.toNat ∧ n.toNat < 0x10) ∨ (0x15 < n.toNat ∧ n.toNat < 0x18) ∨ (0x1A < n.toNat ∧ n.toNat < 0x20) ∨
        n = 0x27 ∨ (0x28 < n.toNat ∧ n.toNat < 0x30) ∨ (0x40 < n.toNat ∧ n.toNat < 0x50) ∨ 0x54 < n.toNat →
      illegal (.mtc a n)) ∧
    (¬ free → ∀ n : BitVec 8, n = 0x28 ∨ (0x30 ≤ n.toNat ∧ n.toNat ≤ 0x3F) →
      Leads (exec (.mtc a n) s) (Only s · (t.setPc (t.regs.pc + 4))))

/-- R149, R150, R350: trap and brk raise BREAK after themselves; a brk of a core that its debug module breaks halts the
core at the brk, and the cluster under BRKALL.
R151, R278, R301: eret resumes at UPC_PC with the skip bits of WDONE, and lets the combination that faulted be made
again; from a copy-completion handler it resumes at XFER_PC with what that had interrupted; it raises ILLEGAL outside both.
R88, R100: a word that names no instruction raises ILLEGAL with itself, and nothing else happens. -/
def Obligations.TrapsAndReturns : Prop :=
  (∀ (s : State) (t : Task) (n : BitVec 8), Running s t →
    let ctl := (s.cluster (coreCluster s.here)).dbg.ctl
    let breaks := fun (i : Instr) (x : Nat) => Leads (exec i s) fun s' => ∃ m v,
      Only s m (t.setPc (t.regs.pc + 4)) ∧ m.task? s.focus = some v ∧
        s' = m.enterUpcall s.focus v (cause BREAK (BitVec.ofNat 64 x) (t.regs.pc + 4)) 0
    breaks (.trap n) n.toNat ∧
    (ctl.getLsbD (s.here % 8) = false → breaks (.brk n) (0x100 + n.toNat)) ∧
    (ctl.getLsbD (s.here % 8) = true → ctl.getLsbD 8 = false → exec (.brk n) s = .next (s.haltCore s.here)) ∧
    (ctl.getLsbD (s.here % 8) = true → ctl.getLsbD 8 = true →
      exec (.brk n) s = .next (s.dipNow (coreCluster s.here) 4 0 s.here))) ∧
  (∀ (s : State) (t : Task), Running s t →
    let resumes := fun (pc : Word) (redo : Chain → Chain) (f : Flow → Prop) => Leads (exec .eret s) fun s' =>
      (∃ v, s'.task? s.focus = some v ∧ v.agrees (t.setPc (pc &&& 0x00FFFFFFFFFFFFFC)) ∧ f v.flow) ∧
        s.Apart s' ∧ s.sameBytes s' ∧ (∀ c, s'.chains.get? c = (s.chains.get? c).map redo) ∧
        { s' with ctxs := s.ctxs, cores := s.cores, chains := s.chains } = s
    (t.flow.inUpcall = true →
      resumes t.ctl.upcPc
        (fun c => if (c.faultOf t.ident.tid && c.told) = true then { c with fault := none, told := false } else c) fun f => f.inUpcall = false ∧ f.suspended = false ∧ f.resumed = true ∧
        f.skip.headD false = false ∧ ∀ j < 15, f.skip.getD (j + 1) false = t.ctl.upcCause.getLsbD (16 + j)) ∧
    (t.flow.inUpcall = false → t.flow.inXfer = true →
      resumes t.ctl.xferPc id fun f => f.inXfer = false ∧
        (∀ r k, t.flow.held = some (r, k) → f.resumed = r ∧ f.skip = k)) ∧
    (t.flow.inUpcall = false → t.flow.inXfer = false →
      exec .eret s =
        .next (s.enterUpcall s.focus t (cause ILLEGAL (BitVec.ofNat 64 (word0 .eret)) t.regs.pc) 0))) ∧
  ∀ (s : State) (t : Task) (w : BitVec 32), Running s t →
    exec (.illegalWord w) s = .next (s.enterUpcall s.focus t (cause ILLEGAL (w.zeroExtend 64) t.regs.pc) 0)

/-- R332, R333: taking an upcall with a handler. UPC_PC, UPC_CAUSE and UPC_ADDR are written and the pc goes to the handler;
every other register of the context, every other context and every byte stay.
R332, R339, R369: a cause without a handler, or inside one, suspends the context with its registers as they are, and
writes a record of 64 bytes at FWR of its queue's fault ring and FWR + 1 after it; R292, R434, R443: writes that an image,
poison or a retired channel drops leave memory as it was. -/
def Obligations.Upcalls : Prop :=
  (∀ (s : State) (i : Nat) (t : Task) (c : Trap) (wdone : Nat),
    t.flow.inUpcall = false → t.ctl.upcVec ≠ 0 →
    let s' := s.enterUpcall i t c wdone
    let w := c.word wdone
    (∃ v, s'.task? i = some v ∧ v.flow.inUpcall = true ∧ v.flow.suspended = t.flow.suspended ∧
      v.agrees { t with
        regs := { t.regs with pc := t.ctl.upcVec &&& 0x00FFFFFFFFFFFFFC }
        ctl := { t.ctl with
          upcPc := c.pc &&& 0x00FFFFFFFFFFFFFC, upcCause := w, upcAddr := c.addr,
          vdone := c.vdone.getD t.ctl.vdone } }) ∧
    (w.toNat % 2 ^ 8 = c.code % 2 ^ 8 ∧ w.toNat / 2 ^ 12 % 2 ^ 4 = c.acc % 2 ^ 4 ∧
      w.toNat / 2 ^ 16 % 2 ^ 15 = wdone % 2 ^ 15 ∧ w.getLsbD 31 = c.parked ∧
      w.toNat / 2 ^ 32 % 2 ^ 8 = c.inner % 2 ^ 8 ∧ w.toNat / 2 ^ 40 % 2 ^ 8 = c.tag % 2 ^ 8) ∧
    (∀ j, j ≠ i → s'.task? j = s.task? j) ∧ s.sameBytes s') ∧
  (∀ (s : State) (i : Nat) (t : Task) (c : Trap) (wdone : Nat),
    t.flow.inUpcall = true ∨ t.ctl.upcVec = 0 → t.ident.queue < 65534 →
    let s' := s.enterUpcall i t c wdone
    let pc := c.pc &&& 0x00FFFFFFFFFFFFFC
    let desc := s.localPa (s.cfg.qtab + 64 * t.ident.queue)
    let fwr := s.mem.readNat (desc + 40) 4
    let ring := s.mem.readNat (desc + 48) 8
    let size := s.mem.readNat (desc + 33) 1 % 32
    let record := leBytes 8 t.ident.tid.toNat ++ leBytes 8 t.ident.path.toNat ++ leBytes 8 pc.toNat ++
      leBytes 8 (c.word wdone).toNat ++ leBytes 8 c.addr.toNat ++ leBytes 8 s.stime ++ leBytes 2 t.ident.asid ++
      leBytes 1 (if t.flow.inUpcall then 1 else 0) ++ List.replicate 13 0
    (∃ v, s'.task? i = some v ∧ v.flow.suspended = true ∧
      v.agrees { t with
        regs := { t.regs with pc := pc }
        ctl := { t.ctl with
          upcPc := pc, upcCause := c.word wdone, upcAddr := c.addr, vdone := c.vdone.getD t.ctl.vdone } }) ∧
    let slot := s.localPa (ring + 64 * (fwr % 2 ^ size))
    (s.sound → s'.mem = (s.mem.writeBytes slot record).writeNat (desc + 40) 4 (fwr + 1)) ∧
    let lost := fun (pa : Nat) (whole : Bool) => (s.imageLine pa).isSome = true ∨ s.dropsWrite pa whole = true
    (lost slot (decide (slot % 64 = 0)) → lost (desc + 40) false → s'.mem = s.mem) ∧
    s'.spad = s.spad ∧ ∀ j, j ≠ i → s'.task? j = s.task? j)

/-- R152, R153, R240: nop and the fences only advance the pc, since every access of this machine has been performed when its instruction is
over; yield also gives the issue slot away for 64 cycles. Each of them ends the open windows of its context: while an instruction is in
flight, it waits. From which cycle the 64 of a yield count is the model's choice (log 98). R311: a fence.rel or fence.sc makes every later
write of its context a release, and fence.acq none. That no access is outstanding at a fence is the model's choice (log 14). -/
def Obligations.YieldNopFences : Prop :=
  (∀ (s : State) (t : Task) (sc : Scope), Running s t →
    (∀ i ∈ [Instr.nop, .fenceAcq sc], Leads (exec i s) (Only s · (t.setPc (t.regs.pc + 4)))) ∧
    (∀ i ∈ [Instr.fenceRel sc, .fenceSc sc],
      Leads (exec i s) (Only s · (({ t with flow := { t.flow with fenced := true } } : Task).setPc (t.regs.pc + 4)))) ∧
    Leads (exec .yield s) fun s' => Only s s' (t.setPc (t.regs.pc + 4)) ∧
      ∃ v, s'.task? s.focus = some v ∧ v.rank.yieldUntil = s.hereCore.cycle + 64) ∧
  (∀ (s : State) (t : Task) (o : LLOp) (sc : Scope),
    s.task? s.focus = some t → t.held (s.core (ctxCore s.focus)) = false → t.flow.skip.headD false = false →
    t.flow.inflight = [o] → o.done = false →
    ∀ i ∈ [Instr.nop, .fenceAcq sc, .fenceRel sc, .fenceSc sc, .yield], exec i s = .next s) ∧
  decodeTableWord 32 0xE8000000 = some .nop

/-! ### Vector registers and masks -/

/-- R35, R36, R154, R159: integer arithmetic on the active elements of the effective length. Every other bit of the
destination, and every other register, stays.
R78, R156, R159: the bitwise operations take every type as its width, and the binned sums add and subtract as
integers of theirs. -/
def Obligations.VectorIntegers : Prop :=
  (∀ (s : State) (t : Task) (b : Nat) (ty : Ty) (d va vb : VReg) (k : KReg), Armed s t b →
    ty ∈ [Ty.i8, .n8, .i16, .n16, .i32, .n32, .i64, .n64] →
    let bk := s.bankHere b
    let w := ty.bits
    let signed := ty ∈ [Ty.i8, .i16, .i32, .i64]
    let active := fun (e : Nat) =>
      e < min t.ctl.vl.toNat (8192 / w) ∧ maskAt (bk.getK k) ty e = true
    let x := fun (e : Nat) => BitVec.ofNat w (elemGet (bk.getV va) w e)
    let y := fun (e : Nat) => BitVec.ofNat w (elemGet (bk.getV vb) w e)
    let gives := fun (i : Instr) (f : Nat → BitVec w) => Leads (exec i s) fun s' => ∃ r,
      OnlyBank s s' (t.setPc (t.regs.pc + 4)) b (bk.setV d r) ∧
        Elementwise (bk.getV d) r w active fun e => (f e).toNat
    gives (.vadd ty d va vb k) (fun e => x e + y e) ∧
    gives (.vsub ty d va vb k) (fun e => x e - y e) ∧
    gives (.vmul ty d va vb k) (fun e => x e * y e) ∧
    gives (.vmulh ty d va vb k) (fun e =>
      if signed then BitVec.ofInt w ((x e).toInt * (y e).toInt / 2 ^ w)
      else BitVec.ofNat w ((x e).toNat * (y e).toNat / 2 ^ w)) ∧
    gives (.vmin ty d va vb k) (fun e =>
      if signed then (if (x e).toInt ≤ (y e).toInt then x e else y e)
      else (if (x e).toNat ≤ (y e).toNat then x e else y e)) ∧
    gives (.vmax ty d va vb k) (fun e =>
      if signed then (if (x e).toInt ≤ (y e).toInt then y e else x e)
      else (if (x e).toNat ≤ (y e).toNat then y e else x e)) ∧
    gives (.vshl ty d va vb k) (fun e => x e <<< ((y e).toNat % w)) ∧
    gives (.vshr ty d va vb k) (fun e => x e >>> ((y e).toNat % w)) ∧
    gives (.vsha ty d va vb k) (fun e => (x e).sshiftRight ((y e).toNat % w)) ∧
    (signed → gives (.vabs ty d va k) (fun e => if (x e).toInt < 0 then 0 - x e else x e)) ∧
    (signed → gives (.vneg ty d va k) (fun e => 0 - x e))) ∧
  (∀ (s : State) (t : Task) (b : Nat) (ty : Ty) (d va vb : VReg) (k : KReg), Armed s t b →
    let bk := s.bankHere b
    let w := ty.bits
    let active := fun (e : Nat) =>
      e < min t.ctl.vl.toNat (8192 / w) ∧ maskAt (bk.getK k) ty e = true
    let x := fun (e : Nat) => BitVec.ofNat w (elemGet (bk.getV va) w e)
    let y := fun (e : Nat) => BitVec.ofNat w (elemGet (bk.getV vb) w e)
    let gives := fun (i : Instr) (f : Nat → BitVec w) => Leads (exec i s) fun s' => ∃ r,
      OnlyBank s s' (t.setPc (t.regs.pc + 4)) b (bk.setV d r) ∧
        Elementwise (bk.getV d) r w active fun e => (f e).toNat
    gives (.vand ty d va vb k) (fun e => x e &&& y e) ∧
    gives (.vor ty d va vb k) (fun e => x e ||| y e) ∧
    gives (.vxor ty d va vb k) (fun e => x e ^^^ y e) ∧
    gives (.vandn ty d va vb k) (fun e => x e &&& ~~~(y e)) ∧
    (ty = .bs32 ∨ ty = .bs64 →
      gives (.vadd ty d va vb k) (fun e => x e + y e) ∧ gives (.vsub ty d va vb k) (fun e => x e - y e)))

/-- R83, R157, R159 to R161, R173: floating arithmetic on the active elements, rounded as RND says, each operation once;
FFLAGS gains the flags of the active elements and loses none. -/
def Obligations.VectorFloats : Prop :=
  ∀ (s : State) (t : Task) (b : Nat) (ty : Ty) (f : FloatFormat) (d va vb : VReg) (k : KReg), Armed s t b →
    ty ∈ [Ty.f16, .bf16, .f32, .f64] → floatFormat ty = some f →
    let bk := s.bankHere b
    let w := ty.bits
    let rm := match t.ctl.rnd.toNat % 8 with | 1 => Rm.rtz | 2 => .rup | 3 => .rdn | 4 => .rna | _ => .rne
    let active := fun (e : Nat) => e < min t.ctl.vl.toNat (8192 / w) ∧ maskAt (bk.getK k) ty e = true
    let x := fun (e : Nat) => elemGet (bk.getV va) w e
    let y := fun (e : Nat) => elemGet (bk.getV vb) w e
    let z := fun (e : Nat) => elemGet (bk.getV d) w e
    let sign := 2 ^ (w - 1)
    let gives := fun (i : Instr) (g : Nat → Res2 Nat) => Leads (exec i s) fun s' => ∃ r fl,
      OnlyBank s s' ((t.setCtl { t.ctl with fflags := t.ctl.fflags ||| fl.zeroExtend 64 }).setPc (t.regs.pc + 4)) b
        (bk.setV d r) ∧
      Elementwise (bk.getV d) r w active (fun e => (g e).val % 2 ^ w) ∧ RaisedBy fl active fun e => (g e).flags
    gives (.vadd ty d va vb k) (fun e => f.add rm (x e) (y e)) ∧
    gives (.vsub ty d va vb k) (fun e => f.sub rm (x e) (y e)) ∧
    gives (.vmul ty d va vb k) (fun e => f.mul rm (x e) (y e)) ∧
    gives (.vmin ty d va vb k) (fun e => f.minMax false (x e) (y e)) ∧
    gives (.vmax ty d va vb k) (fun e => f.minMax true (x e) (y e)) ∧
    gives (.vfma ty d va vb k) (fun e => f.fma rm false false (x e) (y e) (z e)) ∧
    gives (.vfms ty d va vb k) (fun e => f.fma rm false true (x e) (y e) (z e)) ∧
    gives (.vfnma ty d va vb k) (fun e => f.fma rm true false (x e) (y e) (z e)) ∧
    gives (.vrcp ty d va k) (fun e => f.rcp rm (x e)) ∧
    gives (.vrsq ty d va k) (fun e => f.rsq rm (x e)) ∧
    gives (.vscl ty d va vb k) (fun e => f.scale rm (x e) (BitVec.ofNat w (y e)).toInt) ∧
    gives (.vabs ty d va k) (fun e => match f.decode (x e) with
      | .nan signalling => ⟨f.nanEnc, if signalling then flagNV else 0⟩
      | _ => ⟨x e % sign, 0⟩) ∧
    gives (.vneg ty d va k) (fun e => match f.decode (x e) with
      | .nan signalling => ⟨f.nanEnc, if signalling then flagNV else 0⟩
      | _ => ⟨(x e + sign) % 2 ^ w, 0⟩)

/-- R97, R162: vcmp writes the mask bits of the active elements of the effective length and keeps the others; of integers
the condition code alone fixes the signedness. Of floats the values are compared, whatever the sign of a zero; with a NaN
every comparison but ne is false, and nothing traps: a signalling NaN sets NV, a quiet one no flag. -/
def Obligations.VectorCompares : Prop :=
  (∀ (s : State) (t : Task) (b : Nat) (ty : Ty) (cc : Cc) (kd k : KReg) (va vb : VReg), Armed s t b →
    ty ∈ [Ty.i8, .n8, .i16, .n16, .i32, .n32, .i64, .n64] →
    let bk := s.bankHere b
    let w := ty.bits
    let active := fun (e : Nat) => e < min t.ctl.vl.toNat (8192 / w) ∧ maskAt (bk.getK k) ty e = true
    let x := fun (e : Nat) => BitVec.ofNat w (elemGet (bk.getV va) w e)
    let y := fun (e : Nat) => BitVec.ofNat w (elemGet (bk.getV vb) w e)
    let holds := fun (x y : BitVec w) => match cc with
      | .eq => x = y
      | .ne => x ≠ y
      | .lt => x.toInt < y.toInt
      | .ge => y.toInt ≤ x.toInt
      | .le => x.toInt ≤ y.toInt
      | .gt => y.toInt < x.toInt
      | .ltn => x.toNat < y.toNat
      | .gen => y.toNat ≤ x.toNat
      | .len => x.toNat ≤ y.toNat
      | .gtn => y.toNat < x.toNat
    Leads (exec (.vcmp cc ty kd va vb k) s) fun s' => ∃ m,
      OnlyBank s s' (t.setPc (t.regs.pc + 4)) b (bk.setK kd m) ∧
      (∀ e, active e → (m.getLsbD e = true ↔ holds (x e) (y e))) ∧
      ∀ e < 1024, ¬ active e → m.getLsbD e = (bk.getK kd).getLsbD e) ∧
  (∀ (s : State) (t : Task) (b : Nat) (ty : Ty) (f : FloatFormat) (cc : Cc) (kd k : KReg) (va vb : VReg), Armed s t b →
    ty ∈ [Ty.f16, .bf16, .f32, .f64] → floatFormat ty = some f → cc ∈ [Cc.eq, .ne, .lt, .ge, .le, .gt] →
    let bk := s.bankHere b
    let w := ty.bits
    let active := fun (e : Nat) => e < min t.ctl.vl.toNat (8192 / w) ∧ maskAt (bk.getK k) ty e = true
    let x := fun (e : Nat) => f.decode (elemGet (bk.getV va) w e)
    let y := fun (e : Nat) => f.decode (elemGet (bk.getV vb) w e)
    let holds := fun (c : Int) => match cc with
      | .eq => c = 0
      | .ne => c ≠ 0
      | .lt => c < 0
      | .ge => 0 ≤ c
      | .le => c ≤ 0
      | _ => 0 < c
    let nan := fun (v : FVal) => v = .nan true ∨ v = .nan false
    Leads (exec (.vcmp cc ty kd va vb k) s) fun s' => ∃ m fl,
      OnlyBank s s' ((t.setCtl { t.ctl with fflags := t.ctl.fflags ||| fl.zeroExtend 64 }).setPc (t.regs.pc + 4)) b
        (bk.setK kd m) ∧
      (∀ e, active e →
        (nan (x e) ∨ nan (y e) → (m.getLsbD e = true ↔ cc = .ne)) ∧
        (¬ nan (x e) → ¬ nan (y e) → (m.getLsbD e = true ↔ holds (compareVal (x e) (y e))))) ∧
      (∀ e < 1024, ¬ active e → m.getLsbD e = (bk.getK kd).getLsbD e) ∧
      RaisedBy fl active fun e => if x e = .nan true ∨ y e = .nan true then flagNV else 0)

/-- R35, R163: the mask group works on all 1,024 bits, whatever VL holds; k0 reads as all ones and keeps nothing.
R36, R164, R165: vsetl sets VL and s[d] to the lesser of s[a] and VLMAX; vpopk and vfirstk read the mask bits of the
effective length, one for every two elements of e2m1, and vfirstk gives minus one where none is set. -/
def Obligations.Masks : Prop :=
  (∀ (s : State) (t : Task) (b : Nat) (d ka kb : KReg), Armed s t b →
    let bk := s.bankHere b
    let k := fun (r : KReg) => if r = 0 then BitVec.allOnes 1024 else bk.k[r]
    let into := fun (i : Instr) (n : Word) (x : KWord) => Leads (exec i s)
      (OnlyBank s · (t.setPc (t.regs.pc + n)) b (if d = 0 then bk else { bk with k := bk.k.set d x }))
    let v := fun (r : KReg) => (⟨r.val, by omega⟩ : VReg)
    let gives := fun (i : Instr) (op : VOp) (kb : KReg) (x : KWord) =>
      into i 4 x ∧ into (.vectorOpLong op .i8 (v d) (.v (v ka)) (.v (v kb)) 0 (.fixed .rne)) 8 x
    gives (.kand d ka kb) .kand kb (k ka &&& k kb) ∧
    gives (.kor d ka kb) .kor kb (k ka ||| k kb) ∧
    gives (.kxor d ka kb) .kxor kb (k ka ^^^ k kb) ∧
    gives (.kandn d ka kb) .kandn kb (k ka &&& ~~~(k kb)) ∧
    gives (.kmov d ka) .kmov 0 (k ka)) ∧
  (∀ (s : State) (t : Task) (b : Nat) (ty : Ty) (d a : SReg) (k : KReg), Running s t → t.bank = some b →
    let vlmax := 8192 / ty.bits
    let n := min t.ctl.vl.toNat vlmax
    let bits := if ty = .e2m1 then (n + 1) / 2 else n
    let m := (s.bankHere b).getK k
    let per := if ty = .e2m1 then 2 else 1
    let len := BitVec.ofNat 64 (min (t.getS a).toNat vlmax)
    Leads (exec (.vsetl ty d a) s)
      (Only s · (((t.setCtl { t.ctl with vl := len }).setS d len).setPc (t.regs.pc + 4))) ∧
    Leads (exec (.vpopk ty d k) s)
      (Only s · ((t.setS d (BitVec.ofNat 64 ((List.range bits).filter m.getLsbD).length)).setPc (t.regs.pc + 4))) ∧
    ((∀ e < bits, m.getLsbD e = false) →
      Leads (exec (.vfirstk ty d k) s) (Only s · ((t.setS d (BitVec.allOnes 64)).setPc (t.regs.pc + 4)))) ∧
    (∀ e < bits, m.getLsbD e = true → (∀ j < e, m.getLsbD j = false) →
      Leads (exec (.vfirstk ty d k) s)
        (Only s · ((t.setS d (BitVec.ofNat 64 (per * e))).setPc (t.regs.pc + 4)))))

/-- R166 to R169: moves of whole elements. A cross-lane form takes no register of an open accumulator (R59). -/
def Obligations.VectorMoves : Prop :=
  ∀ (s : State) (t : Task) (b : Nat) (ty : Ty) (d va vb : VReg) (ra rb : SReg) (k : KReg), Armed s t b →
    ty ≠ .bs32 → ty ≠ .bs64 →
    let bk := s.bankHere b
    let w := ty.bits
    let vlmax := 8192 / w
    let n := min t.ctl.vl.toNat vlmax
    let mask := fun (e : Nat) => maskAt (bk.getK k) ty e = true
    let active := fun (e : Nat) => e < n ∧ mask e
    let count := fun (e : Nat) => ((List.range e).filter (maskAt (bk.getK k) ty)).length
    let x := fun (e : Nat) => elemGet (bk.getV va) w e
    let y := fun (e : Nat) => elemGet (bk.getV vb) w e
    let gives := fun (i : Instr) (pc : Word) (p : Nat → Prop) (f : Nat → Nat) => Leads (exec i s) fun s' => ∃ r,
      OnlyBank s s' (t.setPc (t.regs.pc + pc)) b (bk.setV d r) ∧ Elementwise (bk.getV d) r w p f
    let apart := t.window ≤ d.val ∧ t.window ≤ va.val ∧ t.window ≤ vb.val
    let sb := (t.getS rb).toNat
    gives (.vsel ty d va vb k) 4 (· < n) (fun e => if maskAt (bk.getK k) ty e then x e else y e) ∧
    gives (.viota ty d k) 4 active (fun e => e % 2 ^ w) ∧
    gives (.vbcast ty d ra k) 4 active (fun _ => (t.getS ra).toNat % 2 ^ w) ∧
    gives (.vins ty d ra rb) 8 (fun e => e = sb ∧ sb < vlmax) (fun _ => (t.getS ra).toNat % 2 ^ w) ∧
    (apart →
      gives (.vcompress ty d va k) 4 (· < count n)
        (fun j => x (((List.range n).filter (maskAt (bk.getK k) ty)).getD j 0)) ∧
      gives (.vexpand ty d va k) 4 active (fun e => x (count e)) ∧
      gives (.vperm ty d va vb k) 4 active (fun e => if y e < n then x (y e) else 0) ∧
      gives (.vslideUp ty d (.v va) rb k) 8 (fun e => active e ∧ sb ≤ e) (fun e => x (e - sb)) ∧
      gives (.vslideDn ty d (.v va) rb k) 8 active (fun e => if e + sb < n then x (e + sb) else 0)) ∧
    Leads (exec (.vext ty ra (.v va) rb) s)
      (OnlyBank s · ((t.setS ra (if sb < vlmax then
        (if ty ∈ [Ty.i8, .i16, .i32, .i64] then (BitVec.ofNat w (x sb)).signExtend 64 else BitVec.ofNat 64 (x sb))
        else 0)).setPc (t.regs.pc + 8)) b bk)

/-- R59, R185: a cross-lane form that names a register of an open accumulator raises MODE_FAULT, vperm for its indices too.
R57, R200 to R203, R207: a product whose tile is not inside the window, or shares a register with a source run, raises
MODE_FAULT; so does a tile instruction, contiguous, strided or scattered, one of whose tiles is not inside the window. That this holds of
the vector which tcvt writes is the model's choice (log 99). -/
def Obligations.ModeFaults : Prop :=
  (∀ (s : State) (t : Task) (b : Nat) (ty : Ty) (d va vb : VReg) (rb : SReg) (k : KReg) (op : RedOp), Armed s t b →
    0 < min t.ctl.vl.toNat (8192 / ty.bits) → d.val < t.window ∨ va.val < t.window →
    ∀ i ∈ [Instr.vperm ty d va vb k, .vcompress ty d va k, .vexpand ty d va k, .vred op ty d va k, .vscan op ty d va k,
      .vslideUp ty d (.v va) rb k, .vslideDn ty d (.v va) rb k],
      exec i s = .next (s.enterUpcall s.focus t (cause MODE_FAULT 0 t.regs.pc) 0)) ∧
  (∀ (s : State) (t : Task) (b : Nat) (ty : Ty) (d va vb : VReg) (k : KReg), Armed s t b →
    0 < min t.ctl.vl.toNat (8192 / ty.bits) → vb.val < t.window →
      exec (.vperm ty d va vb k) s = .next (s.enterUpcall s.focus t (cause MODE_FAULT 0 t.regs.pc) 0)) ∧
  (∀ (s : State) (t : Task) (b : Nat) (fmt : Fmt) (td ta va vb vl : VReg) (a c : SReg) (la : Fin 16), Armed s t b →
    let faults := fun (i : Instr) =>
      exec i s = .next (s.enterUpcall s.focus t (cause MODE_FAULT 0 t.regs.pc) 0)
    let tile := tileRegs (accOf fmt t).bits td
    let run := fun (r : VReg) (n : Nat) => (List.range n).map fun i => r.val + i
    let products : List (Instr × List Nat) := [
      (.mma fmt td va vb la, [va.val, vb.val]),
      (.mmas fmt td va vb la, run va (if fmt = .m8 then 4 else 8) ++ run vb (if fmt = .m8 then 4 else 8)),
      (.mmaq fmt td va vb la, run va (if fmt = .q4 then 2 else 1) ++ [vb.val]),
      (.mmag fmt td va vb vl la, run va 4 ++ [vb.val])]
    (∀ e ∈ products, t.tileIn (accOf fmt t).bits td = false ∨ (∃ r ∈ tile, r ∈ e.2) → faults e.1) ∧
    (t.tileIn 32 td = false → faults (.tzero td)) ∧
    (t.tileIn 32 td = false ∨ t.tileIn 32 ta = false → faults (.ttrn td ta)) ∧
    (t.tileIn (fmtTile fmt) td = false ∨ t.tileIn (if fmt = .f32 then 128 else 32) ta = false →
      faults (.tcvt fmt td ta)) ∧
    (t.tileIn (fmtTile fmt) td = false →
      ∀ i ∈ [Instr.tld fmt td a la, .tldStrided fmt td a c la, .tst fmt td a la, .tstStrided fmt td a c la,
        .tscat fmt td a vl la], faults i))

/-- R71, R170 to R172, R174 to R176: conversions, the residue step and the quantization group, element by element;
bins outside the range of e_ref raise ILLEGAL. R174: vqnt takes blocks of four elements of f32. Each block's shift is
the greatest up to 14 that keeps its elements within the scaled range; the codes go to the elements of vd, and the
shift of block j to nibble j of bytes 768 on. That a block without an active element takes part, in its shift and in NV, is the model's
reading (log 86). -/
def Obligations.VectorConversions : Prop :=
  (∀ (s : State) (t : Task) (b : Nat) (dt st ty : Ty) (d va vb vr : VReg) (k : KReg) (rc : Rc), Armed s t b →
    let bk := s.bankHere b
    let rm := t.rounding .dyn
    let len := fun (dt st : Ty) => min (min t.ctl.vl.toNat (8192 / dt.bits)) (8192 / st.bits)
    let active := fun (dt st : Ty) (e : Nat) => e < len dt st ∧ maskAt (bk.getK k) dt e = true
    let raised := fun (fl : Flags) => t.setCtl { t.ctl with fflags := t.ctl.fflags ||| fl.zeroExtend 64 }
    let gives := fun (i : Instr) (pc : Word) (dt st : Ty) (g : Nat → Res2 Nat) => Leads (exec i s) fun s' => ∃ r fl,
      OnlyBank s s' ((raised fl).setPc (t.regs.pc + pc)) b (bk.setV d r) ∧
      Elementwise (bk.getV d) r dt.bits (active dt st) (fun e => (g e).val % 2 ^ dt.bits) ∧
      RaisedBy fl (active dt st) fun e => (g e).flags
    let x := fun (w e : Nat) => elemGet (bk.getV va) w e
    let eref := (BitVec.ofNat 32 (elemGet (bk.getV vb) 32 0)).toInt
    let illegal := fun (i : Instr) =>
      exec i s = .next (s.enterUpcall s.focus t (cause ILLEGAL (BitVec.ofNat 64 (word0 i)) t.regs.pc) 0)
    (dt ≠ .bs32 → dt ≠ .bs64 → st ≠ .bs32 → st ≠ .bs64 →
      gives (.vcvt dt st d va k) 4 dt st (fun e => match floatFormat st, floatFormat dt with
        | some f, some g => convertFloat f g rm (x st.bits e)
        | some f, none => convertToInt f dt.isSigned dt.bits rm (x st.bits e)
        | none, some g => convertFromInt g st.isSigned st.bits rm (x st.bits e)
        | none, none =>
          ⟨(if st.isSigned then (BitVec.ofNat st.bits (x st.bits e)).signExtend dt.bits
            else (BitVec.ofNat st.bits (x st.bits e)).zeroExtend dt.bits).toNat, 0⟩)) ∧
    (-149 ≤ eref → eref ≤ 127 →
      gives (.vbin .bs32 d va vb k) 4 .bs32 .f32 (fun e => binVal false eref (fmtF32.decode (x 32 e))) ∧
      gives (.vcvtBs .f32 d (.v va) (.v vb) k) 8 .f32 .bs32 (fun e => unbin false fmtF32 eref (x 128 e))) ∧
    (-1074 ≤ eref → eref ≤ 1023 →
      gives (.vbin .bs64 d va vb k) 4 .bs64 .f64 (fun e => binVal true eref (fmtF64.decode (x 64 e))) ∧
      gives (.vcvtBs .f64 d (.v va) (.v vb) k) 8 .f64 .bs64 (fun e => unbin true fmtF64 eref (x 192 e))) ∧
    (eref < -149 ∨ 127 < eref → t.ctl.vl ≠ 0 →
      illegal (.vbin .bs32 d va vb k) ∧ illegal (.vcvtBs .f32 d (.v va) (.v vb) k)) ∧
    (ty ∈ [Ty.f16, .bf16, .f32, .f64] →
      Leads (exec (.vexpmax ty d va k) s) fun s' => ∃ r,
        (0 < len ty ty → OnlyBank s s' (t.setPc (t.regs.pc + 4)) b (bk.setV d r)) ∧
        (∀ f, floatFormat ty = some f → 0 < len ty ty → ∃ e : Int, (∀ j < 256, elemGet r 32 j = (BitVec.ofInt 32 e).toNat) ∧
          (∀ j, active ty ty j → ∀ q, exponentOf (f.decode (x ty.bits j)) = some q → q ≤ e) ∧
          ((∃ j, active ty ty j ∧ exponentOf (f.decode (x ty.bits j)) = some e) ∨
            ((∀ j, active ty ty j → exponentOf (f.decode (x ty.bits j)) = none) ∧
              e = if ty = .f64 then -1074 else -149)))) ∧
    (vr ≠ d →
      Leads (exec (.vcvtRfb dt st d (.v va) vr k rc) s) fun s' => ∃ r q fl,
        let act := fun (e : Nat) => e < min (len dt st) 256 ∧ maskAt (bk.getK k) dt e = true
        let step := fun (e : Nat) => feedback dt st (t.rounding rc) (x st.bits e) (elemGet (bk.getV vr) 32 e)
        OnlyBank s s' ((raised fl).setPc (t.regs.pc + 8)) b ((bk.setV d r).setV vr q) ∧
        Elementwise (bk.getV d) r dt.bits act (fun e => (step e).val.1 % 2 ^ dt.bits) ∧
        Elementwise (bk.getV vr) q 32 act (fun e => (step e).val.2 % 2 ^ 32) ∧
        RaisedBy fl act fun e => (step e).flags)) ∧
  (∀ (s : State) (t : Task) (b : Nat) (ty : Ty) (g : FloatFormat) (d va vb : VReg) (k : KReg), Armed s t b →
    ty = .e4m3 ∨ ty = .e2m1 → floatFormat ty = some g →
    let bk := s.bankHere b
    let w := ty.bits
    let n := min t.ctl.vl.toNat 256
    let active := fun (e : Nat) => e < n ∧ (bk.getK k).getLsbD e = true
    let scale := fmtF32.decode (elemGet (bk.getV vb) 32 0)
    let value := fun (e : Nat) => fmtF32.decode (elemGet (bk.getV va) 32 e)
    let block := fun (j : Nat) => ((List.range 4).map (4 * j + ·)).filter fun e => decide (e < n) && (bk.getK k).getLsbD e
    let quant := fun (j : Nat) => quantBlock g (t.rounding .dyn) scale ((block j).map value)
    Leads (exec (.vqnt ty d va vb k) s) fun s' => ∃ r fl,
      OnlyBank s s' ((t.setCtl { t.ctl with fflags := t.ctl.fflags ||| fl.zeroExtend 64 }).setPc (t.regs.pc + 4)) b
        (bk.setV d r) ∧
      (∀ j i e, j < (n + 3) / 4 → (block j)[i]? = some e → elemGet r w e = (quant j).2.1.getD i 0 % 2 ^ w) ∧
      (∀ j < (n + 3) / 4, elemGet r 4 (1536 + j) = (quant j).1) ∧
      (∀ i < 8192, ¬ active (i / w) → ¬ (6144 ≤ i ∧ i < 6144 + 4 * ((n + 3) / 4)) → r.getLsbD i = (bk.getV d).getLsbD i) ∧
      RaisedBy fl (· < (n + 3) / 4) fun j => (quant j).2.2)

/-- R81, R177, R178: reductions and scans. Of integers vred is the exact fold of the active elements, whatever the order,
with its identity when none is active; vscan gives each active element the fold up to it; of floats vred is the pairwise
tree of R81 and vscan the left fold, of the values with each NaN canonical, and the flags are those of each combination and
NV for a signalling NaN (R66). The other elements of vd stay. That a NaN passed on without a combination becomes canonical too, and
raises NV where it signals, is the model's reading (log 41). -/
def Obligations.ReductionsAndScans : Prop :=
  ∀ (s : State) (t : Task) (b : Nat) (op : RedOp) (ty : Ty) (d va : VReg) (k : KReg), Armed s t b →
    op.types ty = true → t.window ≤ d.val → t.window ≤ va.val →
    let bk := s.bankHere b
    let w := ty.bits
    let n := min t.ctl.vl.toNat (8192 / w)
    let act := (List.range n).filter (maskAt (bk.getK k) ty)
    let x := fun (e : Nat) => elemGet (bk.getV va) w e
    let fold2 := fun (a c : Nat) =>
      let p := BitVec.ofNat w a
      let q := BitVec.ofNat w c
      match op with
      | .add => (p + q).toNat
      | .and => (p &&& q).toNat
      | .or => (p ||| q).toNat
      | .xor => (p ^^^ q).toNat
      | .min => if p.toInt ≤ q.toInt then a else c
      | .max => if p.toInt ≤ q.toInt then c else a
      | .minn => min a c
      | .maxn => max a c
    let identity := match op with
      | .add | .or | .xor | .maxn => 0
      | .and | .minn => 2 ^ w - 1
      | .min => 2 ^ (w - 1) - 1
      | .max => 2 ^ (w - 1)
    let fold := fun (es : List Nat) => match es with
      | [] => identity
      | e :: es => (es.map x).foldl fold2 (x e)
    let gives := fun (i : Instr) (P : VWord → Flags → Prop) => Leads (exec i s) fun s' => ∃ r fl, P r fl ∧
      OnlyBank s s' ((t.setCtl { t.ctl with fflags := t.ctl.fflags ||| fl.zeroExtend 64 }).setPc (t.regs.pc + 4)) b
        (bk.setV d r)
    (floatFormat ty = none → 0 < n →
      gives (.vred op ty d va k) (fun r fl => fl = 0 ∧ Elementwise (bk.getV d) r w (· = 0) fun _ => fold act) ∧
      gives (.vscan op ty d va k) (fun r fl => fl = 0 ∧
        Elementwise (bk.getV d) r w (· ∈ act) fun e => fold (act.filter (· ≤ e)))) ∧
    (∀ f, floatFormat ty = some f → 0 < n →
      let leaf := fun (e : Nat) => match f.decode (x e) with | .nan _ => f.nanEnc | _ => x e
      let signals := fun (e : Nat) => match f.decode (x e) with | .nan true => flagNV | _ => 0
      let rm := t.rounding .dyn
      let both := fun (a c : Nat) => match op with
        | .add => f.add rm a c
        | .min => f.minMax false a c
        | _ => f.minMax true a c
      let tree := treeFold both 11 ((List.range n).map fun e => if maskAt (bk.getK k) ty e then some (leaf e) else none)
      let none_ := match op with | .add => 0 | _ => f.nanEnc
      let upTo := fun (es : List Nat) => match es with
        | [] => 0
        | e :: es => es.foldl (fun a e => (both a (leaf e)).val) (leaf e)
      let before := fun (e : Nat) => act.filter (· < e)
      gives (.vred op ty d va k) (fun r fl =>
        Elementwise (bk.getV d) r w (· = 0) (fun _ => tree.1.getD none_ % 2 ^ w) ∧
        ∀ j : Nat, fl.getLsbD j = true ↔ tree.2.getLsbD j = true ∨ ∃ e ∈ act, (signals e).getLsbD j = true) ∧
      gives (.vscan op ty d va k) (fun r fl =>
        Elementwise (bk.getV d) r w (· ∈ act) (fun e => upTo (act.filter (· ≤ e)) % 2 ^ w) ∧
        RaisedBy fl (· ∈ act) fun e =>
          signals e ||| if before e = [] then 0 else (both (upTo (before e)) (leaf e)).flags)) ∧
    (n = 0 →
      Leads (exec (.vred op ty d va k) s) (Only s · (t.setPc (t.regs.pc + 4))) ∧
      Leads (exec (.vscan op ty d va k) s) (Only s · (t.setPc (t.regs.pc + 4))))

/-- R37, R116, R157, R158: the long form of an operation reads its sources, each stream once, rounds by its own code,
and has the operation's effect. Which operations take a rounding code is the model's reading (log 12); the width of the elements
that a stream gives a source is its choice (log 65), and so is what an odd number of e2m1 elements takes of a stream (log 63). -/
def Obligations.VectorLongForms : Prop :=
  ∀ (s : State) (t : Task) (b : Nat) (op : VOp) (ty : Ty) (d : VReg) (a c : VSrc) (k : KReg) (rc : Rc), Armed s t b →
    op.isMask = false → (crossLane op = true → ∀ r ∈ d.val :: vRegs (srcsOf op a c), t.window ≤ r) →
    let bk := s.bankHere b
    let srcs := srcsOf op a c
    let n := lenOf op ty t
    let w := (srcTyOf op ty).bits
    let input : VecIn :=
      { task := t, n := n, x := (srcs[0]?).elim 0 (bk.srcVal n w), y := (srcs[1]?).elim 0 (bk.srcVal n w), z := bk.getV d,
        k := bk.getK k, kd := bk.getK (Fin.ofNat 8 d.val), rm := t.rounding rc }
    let i : Instr := .vectorOpLong op ty d a c k rc
    let leads := fun (bk' : Bank) (fl : Flags) => Leads (exec i s)
      (OnlyBank s · ((t.setCtl { t.ctl with fflags := t.ctl.fflags ||| fl.zeroExtend 64 }).setPc (t.regs.pc + 8)) b bk')
    (n = 0 → Leads (exec i s) (Only s · (t.setPc (t.regs.pc + 8)))) ∧
    (n ≠ 0 → (∀ q ∈ qRegs srcs, bk.q[q].isSome = true) → (∀ x ∈ srcs, bk.arrived n w x = true) →
      match effectOf op ty input with
      | .v x fl => leads ((srcs.eraseDups.foldl (fun b x => b.take n w x) bk).setV d x) fl
      | .k x fl => leads ((srcs.eraseDups.foldl (fun b x => b.take n w x) bk).setK (Fin.ofNat 8 d.val) x) fl
      | .illegal =>
        exec i s = .next (s.enterUpcall s.focus t (cause ILLEGAL (BitVec.ofNat 64 (word0 i)) t.regs.pc) 0)) ∧
    (n ≠ 0 → (∃ q ∈ qRegs srcs, bk.q[q].isSome = false) →
      exec i s = .next (s.enterUpcall s.focus t (cause ILLEGAL (BitVec.ofNat 64 (word0 i)) t.regs.pc) 0))

/-! ### Vector memory -/

/-- R98, R179, R181, R184: vector loads with no window whose every active element lands: each active element takes the
element of memory its address names, the low nibble of a byte for the even element of e2m1, and the base of the inc
form moves on by the bytes of the effective length. Nothing else changes: that the upper nibble of the last byte keeps what it holds where
the rep form of e2m1 meets an odd n is the model's reading (log 100). -/
def Obligations.VectorLoads : Prop :=
  ∀ (s : State) (t : Task) (b : Nat) (ty : Ty) (d vi : VReg) (a c : SReg) (off : BitVec 14) (k : KReg)
    (place : Nat → Place), Armed s t b → s.quiet →
    let bk := s.bankHere b
    let w := ty.bits
    let len := (w + 7) / 8
    let vlmax := 8192 / w
    let unit := fun (e : Nat) => if ty = .e2m1 then e / 2 else e
    let base := t.getS a
    let far := t.getS a + off.signExtend 64
    let index := fun (e : Nat) => if w = 64 then BitVec.ofNat 64 (elemGet (bk.getV vi) 64 e)
      else (BitVec.ofNat 32 (elemGet (bk.getV vi) 32 e)).signExtend 64
    let loads := fun (i : Instr) (pc : Word) (n : Nat) (u : Task) (addr : Nat → Word) (rep : Bool) =>
      let active := fun (e : Nat) => e < n ∧ maskAt (bk.getK k) ty e = true
      let value := fun (e : Nat) =>
        let m := s.readAt (place (unit e)) (addr (unit e)).toNat len
        if ty = .e2m1 then (if e % 2 = 0 ∨ rep then m % 16 else m / 16) else m
      (∀ e, active e → Lands s t 0 len (addr (unit e)) (place (unit e))) →
      Leads (exec i s) fun s' => ∃ r, Elementwise (bk.getV d) r w active value ∧
        ReadsBank s s' (u.setPc (t.regs.pc + pc)) b (bk.setV d r)
    let n := min t.ctl.vl.toNat vlmax
    let next := t.setS a (base + BitVec.ofNat 64 ((n * w + 7) / 8))
    let step := fun (x : Word) (j : Nat) => x + BitVec.ofNat 64 (j * len)
    loads (.vld ty d a k 0) 4 n t (step base) false ∧
    loads (.vldInc ty d a k 0) 4 n next (step base) false ∧
    loads (.vldRep ty d a k 0) 4 n t (fun _ => base) true ∧
    loads (.vmemLong false .unit ty (.v d) a off k 0) 8 n t (step far) false ∧
    loads (.vmemLong false .rep ty (.v d) a off k 0) 8 n t (fun _ => far) true ∧
    loads (.vlds ty d a c off k 0) 8 n t (fun j => far + BitVec.ofNat 64 j * t.getS c) false ∧
    loads (.vldx ty d a vi off k 0) 8 (min n 256) t (fun j => far + index j) false

/-- R179, R183, R184: vector stores with no window whose every active element lands: the elements are stored in ascending
order, and every byte outside them reads as before. -/
def Obligations.VectorStores : Prop :=
  ∀ (s : State) (t : Task) (b : Nat) (ty : Ty) (d vi : VReg) (a c : SReg) (off : BitVec 14) (k : KReg)
    (place : Nat → Place), s.Inv → Armed s t b → s.quiet →
    let bk := s.bankHere b
    let w := ty.bits
    let len := (w + 7) / 8
    let base := t.getS a
    let far := t.getS a + off.signExtend 64
    let index := fun (e : Nat) => if w = 64 then BitVec.ofNat 64 (elemGet (bk.getV vi) 64 e)
      else (BitVec.ofNat 32 (elemGet (bk.getV vi) 32 e)).signExtend 64
    let stores := fun (i : Instr) (pc : Word) (n : Nat) (u : Task) (addr : Nat → Word) =>
      let units := (List.range (if ty = .e2m1 then (n + 1) / 2 else n)).filter (bk.getK k).getLsbD
      (∀ j ∈ units, Lands s t 1 len (addr j) (place j)) →
      Leads (exec i s) fun s' => StoresMany s s' (u.setPc (t.regs.pc + pc)) b bk
        (units.map fun j => (place j, len, elemGet (bk.getV d) (8 * len) j))
    let n := min t.ctl.vl.toNat (8192 / w)
    let next := t.setS a (base + BitVec.ofNat 64 ((n * w + 7) / 8))
    let step := fun (x : Word) (j : Nat) => x + BitVec.ofNat 64 (j * len)
    stores (.vst ty d a k 0) 4 n t (step base) ∧
    stores (.vstInc ty d a k 0) 4 n next (step base) ∧
    stores (.vmemLong true .unit ty (.v d) a off k 0) 8 n t (step far) ∧
    stores (.vsts ty (.v d) a c off k 0) 8 n t (fun j => far + BitVec.ofNat 64 j * t.getS c) ∧
    stores (.vstx ty (.v d) a vi off k 0) 8 (min n 256) t (fun j => far + index j)

/-! ### Matrix instructions -/

/-- R196, R200: mma of i8 with no window: each accumulator takes the exact sum of its 64 products, wrapped to 32 bits;
the tile is the only register that changes. R80, R196 to R200: the products with no window on their accumulator tile:
the sums of blocks of four, each added and rounded once, from the operands as they were at issue; FFLAGS gains their
flags. The sign of a zero sum is the model's reading (log 13). R74, R75, R187, R188, R191, R194, R196 to R199: a value of
each product, from the numbers its operands stand for. Row i0 of A and column j0 of B are the only ones that are not zero,
the accumulators are zero, and the array sums in f32: element (i0, j0) takes the sum of all K products and every other
element stays zero, with no flag. For mma of f16 that is 32 times 1.0 x 1.0; for mmas of m8 64 times 1.0 x 1.0 under the
scales 2.0 and 1.0 and the shifts 1 and 0; for mmaq of q8 64 times 1 x (3 - 1) with group scales of 2.0, the codes of the
other columns being the zero point; for mmag of f16 32 times 1.0 x 1.0, row i0 of the list naming row r0 of the four registers
and the rest of the list no row. -/
def Obligations.MatrixProducts : Prop :=
  (∀ (s : State) (t : Task) (b : Nat) (td va vb : VReg), Armed s t b → td.val < t.window →
    td ≠ va → td ≠ vb →
    let bk := s.bankHere b
    let x := fun (r : VReg) (i k : Nat) => (BitVec.ofNat 8 (elemGet (bk.getV r) 8 (64 * i + k))).toInt
    let c := fun (i j : Nat) => BitVec.ofNat 32 (elemGet (bk.getV td) 32 (16 * i + j))
    Leads (exec (.mma .i8 td va vb 0) s) fun s' => ∃ r,
      OnlyBank s s' (t.setPc (t.regs.pc + 4)) b (bk.setV td r) ∧
      ∀ i < 16, ∀ j < 16, elemGet r 32 (16 * i + j) =
        (c i j + BitVec.ofInt 32 (((List.range 64).map fun k => x va i k * x vb j k).sum)).toNat) ∧
  (∀ (s : State) (t : Task) (b : Nat) (fmt : Fmt) (td va vb vl : VReg), Armed s t b →
    let bk := s.bankHere b
    let w := (accOf fmt t).bits
    let gives := fun (i : Instr) (pc : Word) (srcs : List Nat) (xs : List (Res2 Nat)) =>
      t.tileIn w td = true → (∀ r ∈ tileRegs w td, r ∉ srcs) →
      Leads (exec i s)
        (OnlyBank s · ((t.raiseFlags (xs.foldl (fun f x => f ||| x.flags) 0)).setPc (t.regs.pc + pc)) b
          (bk.setTile w td (xs.map fun x => x.val)))
    gives (.mma fmt td va vb 0) 4 [va, vb]
      (plainProduct bk t fmt td ((List.range 16).map fun i => plainRow bk fmt va (64 * i)) vb) ∧
    gives (.mmas fmt td va vb 0) 4
      (runRegs va (if fmt = .m8 then 4 else 8) ++ runRegs vb (if fmt = .m8 then 4 else 8))
      (scaledProduct bk t fmt td va vb) ∧
    gives (.mmaq fmt td va vb 0) 4 (runRegs va (if fmt = .q4 then 2 else 1) ++ [vb.val])
      (quantProduct bk t fmt td va vb) ∧
    gives (.mmag fmt td va vb vl 0) 8 (runRegs va 4 ++ [vb.val])
      (plainProduct bk t fmt td ((rowOf bk vl 0 32 16).map (gatheredRow bk fmt va)) vb)) ∧
  (∀ (s : State) (t : Task) (b : Nat) (td va vb vl : VReg) (i0 j0 r0 : Nat), Armed s t b → td.val < t.window →
    t.ctl.mfmt = 0 → (s.bankHere b).getV td = 0 → i0 < 16 → j0 < 16 → r0 < 64 →
    let bk := s.bankHere b
    let reg := fun (n : Nat) => bk.getV (Fin.ofNat 32 n)
    let run := fun (r : VReg) (n : Nat) => (List.range n).map fun i => r.val + i
    let lone := fun (x : VWord) (w v other i0 : Nat) =>
      ∀ i < 16, ∀ k < 512 / w, elemGet x w (512 / w * i + k) = if i = i0 then v else other
    let loneOf4 := fun (r : VReg) (v shift i0 : Nat) => ∀ i < 16,
      (∀ k < 64, elemGet (reg (r.val + i / 4)) 8 (64 * (i % 4) + k) = if i = i0 then v else 0) ∧
      ∀ n < 16, elemGet (reg (r.val + i / 4)) 4 (1536 + 16 * (i % 4) + n) = shift
    let gives := fun (i : Instr) (pc : Word) (v : Nat) => Leads (exec i s) fun s' => ∃ x,
      OnlyBank s s' (t.setPc (t.regs.pc + pc)) b (bk.setV td x) ∧
      ∀ i < 16, ∀ j < 16, elemGet x 32 (16 * i + j) = if i = i0 ∧ j = j0 then v else 0
    (td.val ∉ [va.val, vb.val] → lone (bk.getV va) 16 0x3C00 0 i0 → lone (bk.getV vb) 16 0x3C00 0 j0 →
      gives (.mma .f16 td va vb 0) 4 0x42000000) ∧
    (td.val ∉ run va 4 ++ run vb 4 → loneOf4 va 0x38 1 i0 → loneOf4 vb 0x38 0 j0 →
      t.ctl.mscaleA = 0x40000000 → t.ctl.mscaleB = 0x3F800000 → gives (.mmas .m8 td va vb 0) 4 0x42800000) ∧
    (td.val ∉ [va.val, vb.val] → lone (bk.getV va) 8 1 0 i0 → lone (bk.getV vb) 8 3 1 j0 →
      (∀ n < 32, elemGet (reg t.ctl.mzp.toNat) 16 n = 0x4000 ∧ elemGet (reg t.ctl.mzp.toNat) 8 (512 + n) = 1) →
      gives (.mmaq .q8 td va vb 0) 4 0x43800000) ∧
    (td.val ∉ run va 4 ++ [vb.val] → (∀ i < 16, elemGet (bk.getV vl) 32 i = if i = i0 then r0 else 64) →
      (∀ k < 32, elemGet (reg (va.val + r0 / 16)) 16 (32 * (r0 % 16) + k) = 0x3C00) →
      lone (bk.getV vb) 16 0x3C00 0 j0 → gives (.mmag .f16 td va vb vl 0) 8 0x42000000))

/-- R56, R58, R195: mode.m takes the free grid and opens a window of N1 + 1 registers; held by another context, it queues
in issue order and waits. mode.v closes the window and frees the grid.
R57, R201, R202: tile control: a zeroed tile, a transposed one, and a conversion that rounds each element once. That the vector which tcvt
writes has to lie in the window is the model's choice (log 99). -/
def Obligations.ModesAndTiles : Prop :=
  (∀ (s : State) (t : Task) (b : Nat) (n : Fin 32), Running s t → t.bank = some b →
    let c := s.hereCore
    let me := ctxNum s.focus
    let into := fun (i : Instr) (window : Nat) (grid : Option Nat) => Leads (exec i s) fun s' => ∃ m,
      Only s m (({ t with window := window } : Task).setPc (t.regs.pc + 4)) ∧
        s' = m.setCore s.here { m.core s.here with grid := grid }
    (c.grid = some me ∨ (c.grid = none ∧ c.gridQueue = []) → into (.modeM n) (n + 1) (some me)) ∧
    (¬ (c.grid = some me ∨ (c.grid = none ∧ c.gridQueue = [])) →
      exec (.modeM n) s =
        .next ((s.setCore s.here { c with gridQueue := c.gridQueue ++ [me] }).setTask s.focus
          { t with flow := { t.flow with wait := .grid } })) ∧
    (t.window = 0 → into .modeV 0 c.grid) ∧
    (t.window ≠ 0 → into .modeV 0 (if c.grid = some me then none else c.grid))) ∧
  (∀ (s : State) (t : Task) (b : Nat) (fmt : Fmt) (td ta : VReg), Armed s t b →
    let bk := s.bankHere b
    let leads := fun (i : Instr) (fl : Flags) (bk' : Bank) => Leads (exec i s)
      (OnlyBank s · ((t.setCtl { t.ctl with fflags := t.ctl.fflags ||| fl.zeroExtend 64 }).setPc (t.regs.pc + 4)) b bk')
    (td.val < t.window → leads (.tzero td) 0 (bk.setV td 0)) ∧
    (td.val < t.window → ta.val < t.window → ∃ r,
      leads (.ttrn td ta) 0 (bk.setV td r) ∧
      ∀ i < 16, ∀ j < 16, elemGet r 32 (16 * i + j) = elemGet (bk.getV ta) 32 (16 * j + i)) ∧
    (let w := match fmt with | .f64 => 64 | .bs32 => 128 | _ => 32
     let src := if fmt = .f32 then 128 else 32
     let eref := (BitVec.ofNat 16 (t.ctl.mfmt.toNat / 2 ^ 16)).toInt
     let rs := (bk.tile src ta).map fun x => match fmt with
       | .f32 => unbin false fmtF32 eref x
       | .bs32 => binVal false eref (fmtF32.decode x)
       | .f64 => convertFloat fmtF32 fmtF64 .rne x
       | .i8 => convertToInt fmtF32 true 32 (t.rounding .dyn) x
       | f => convertElem f.ty .f32 (t.rounding .dyn) x
     let fl := rs.foldl (fun f r => f ||| r.flags) 0
     let xs := rs.map fun r => r.val
     t.tileIn w td = true → t.tileIn src ta = true →
       (fmt = .f32 ∨ fmt = .bs32 ∨ fmt = .f64 ∨ fmt = .i8 → leads (.tcvt fmt td ta) fl (bk.setTile w td xs)) ∧
       (¬ (fmt = .f32 ∨ fmt = .bs32 ∨ fmt = .f64 ∨ fmt = .i8) → ∃ r,
         leads (.tcvt fmt td ta) fl (bk.setV td r) ∧
         (∀ j < 256, elemGet r fmt.ty.bits j = xs.getD j 0 % 2 ^ fmt.ty.bits) ∧
         ∀ i < 8192, 256 * fmt.ty.bits ≤ i → r.getLsbD i = (bk.getV td).getLsbD i)))

/-- R66, R71, R203 to R205: tile loads with no window whose every element lands: row r starts at s[a] + r x the row bytes,
or at s[a] + r x s[b]; each element is widened to its tile's format, a NaN to the canonical NaN of it, a signalling NaN sets
NV and nothing else sets a flag; no register outside the tile changes. R50, R203, R204, R206: tld, with contiguous and with
strided rows, completes. With no window, where every element lands, it answers a next state one instruction further that has
stored nothing; with a window, where every address passes its checks, it goes into flight with its destination registers
pending and the context goes on. -/
def Obligations.TileLoads : Prop :=
  (∀ (s : State) (t : Task) (b : Nat) (fmt : Fmt) (td : VReg) (a c : SReg) (place : Nat → Nat → Place), Armed s t b →
    s.quiet → fmt.tile = true →
    let bk := s.bankHere b
    let w := fmtTile fmt
    let len := fmtAlign fmt
    let units := if fmt = .e2m1 then 8 else 16
    let loads := fun (i : Instr) (pc : Word) (row : Nat → Word) =>
      let addr := fun (r j : Nat) => row r + BitVec.ofNat 64 (j * len)
      let raw := fun (r j : Nat) =>
        if fmt = .e2m1 then s.readAt (place r (j / 2)) (addr r (j / 2)).toNat len / 2 ^ (4 * (j % 2)) % 16
        else s.readAt (place r j) (addr r j).toNat len
      let held := fun (r j : Nat) => (floatFormat fmt.ty).map fun f => f.decode (raw r j)
      let wide := if fmt = .f64 then fmtF64 else fmtF32
      let value := fun (r j : Nat) => match held r j with
        | some (.nan _) => wide.nanEnc
        | some v => if fmt = .f32 ∨ fmt = .f64 then raw r j else (wide.roundVal .rne v).val
        | none => raw r j
      (∀ r < 16, ∀ j < units, Lands s t 0 len (addr r j) (place r j)) → t.tileIn w td = true →
      Leads (exec i s) fun s' => ∃ bk' fl,
        ReadsBank s s' ((t.raiseFlags fl).setPc (t.regs.pc + pc)) b bk' ∧
        (∀ r < 16, ∀ j < 16, (bk'.tile w td)[16 * r + j]? = some (value r j)) ∧
        RaisedBy fl (fun e => e < 256) (fun e => if held (e / 16) (e % 16) = some (.nan true) then flagNV else 0) ∧
        (∀ r : VReg, r.val ∉ tileRegs w td → bk'.getV r = bk.getV r) ∧ { bk' with v := bk.v } = bk
    loads (.tld fmt td a 0) 4 (fun r => t.getS a + BitVec.ofNat 64 (r * (2 * fmtBits fmt))) ∧
    loads (.tldStrided fmt td a c 0) 8 (fun r => t.getS a + BitVec.ofNat 64 r * t.getS c)) ∧
  (∀ (s : State) (t : Task) (b : Nat) (fmt : Fmt) (td : VReg) (a c : SReg) (la : Fin 16) (place : Nat → Nat → Place),
    Armed s t b → fmt.tile = true → t.tileIn (fmtTile fmt) td = true →
    let len := fmtAlign fmt
    let units := if fmt = .e2m1 then 8 else 16
    let dest := (tileRegs (fmtTile fmt) td).map Res.v
    let completes := fun (i : Instr) (pc : Word) (row : Nat → Word) =>
      let addr := fun (r j : Nat) => row r + BitVec.ofNat 64 (j * len)
      (la = 0 → s.quiet → (∀ r < 16, ∀ j < units, Lands s t 0 len (addr r j) (place r j)) →
        ∃ s', exec i s = .next s' ∧ s.sameBytes s' ∧ ∃ v, s'.task? s.focus = some v ∧
          v.regs.pc = t.regs.pc + pc ∧ v.regs.s = t.regs.s ∧ v.flow = t.flow.retired) ∧
      (la ≠ 0 → (∀ r < 16, ∀ j < units, (addr r j).toNat % len = 0 ∧ (addr r j).toNat < 2 ^ 56) →
        ∃ s' o, exec i s = .next s' ∧ Departs s s' (t.setPc (t.regs.pc + pc)) o ∧ o.seq = t.flow.seq ∧
          o.last = t.flow.seq + la ∧ o.pc = t.regs.pc ∧ o.pend = dest ∧ o.done = false ∧ o.failed = none)
    completes (.tld fmt td a la) 4 (fun r => t.getS a + BitVec.ofNat 64 (r * (2 * fmtBits fmt))) ∧
    completes (.tldStrided fmt td a c la) 8 (fun r => t.getS a + BitVec.ofNat 64 r * t.getS c))

/-- R203 to R205: tile stores with no window whose every element lands: the rows in ascending order, each element in its
memory format, and every byte outside them reads as before. tscat takes row r's address from element r of vi. -/
def Obligations.TileStores : Prop :=
  ∀ (s : State) (t : Task) (b : Nat) (fmt : Fmt) (td vi : VReg) (a c : SReg) (place : Nat → Nat → Place), s.Inv →
    Armed s t b → s.quiet → fmt.tile = true →
    let bk := s.bankHere b
    let w := fmtTile fmt
    let len := fmtAlign fmt
    let units := if fmt = .e2m1 then 8 else 16
    let elem := fun (r j : Nat) =>
      let x := (bk.tile w td).getD (16 * r + j) 0
      match fmt with
      | .i8 | .f32 | .f64 | .bs32 => (⟨x, 0⟩ : Res2 Nat)
      | f => convertElem f.ty .f32 (t.rounding .dyn) x
    let data := fun (r j : Nat) =>
      if fmt = .e2m1 then (elem r (2 * j)).val + 16 * (elem r (2 * j + 1)).val else (elem r j).val
    let all := ((List.range 16).map fun r => (List.range units).map fun j => (r, j)).flatten
    let stores := fun (i : Instr) (pc : Word) (row : Nat → Word) =>
      let addr := fun (r j : Nat) => row r + BitVec.ofNat 64 (j * len)
      (∀ r < 16, ∀ j < units, Lands s t 1 len (addr r j) (place r j)) → t.tileIn w td = true →
      Leads (exec i s) fun s' => ∃ fl,
        StoresMany s s' ((t.raiseFlags fl).setPc (t.regs.pc + pc)) b bk
          (all.map fun e => (place e.1 e.2, len, data e.1 e.2)) ∧
        RaisedBy fl (fun e => e < 256) fun e => (elem (e / 16) (e % 16)).flags
    stores (.tst fmt td a 0) 4 (fun r => t.getS a + BitVec.ofNat 64 (r * (2 * fmtBits fmt))) ∧
    stores (.tstStrided fmt td a c 0) 8 (fun r => t.getS a + BitVec.ofNat 64 r * t.getS c) ∧
    stores (.tscat fmt td a vi 0) 8 (fun r => t.getS a + BitVec.ofNat 64 (elemGet (bk.getV vi) 64 r))

/-! ### Device writes, records and weight on its way -/

/-- R225, R292, R320, R336, R339, R366, R369, R370, R434, R443: what the device itself writes. A write of it fires the monitors of its
line, meets the signals watched there and changes nothing else; one to a line of an image is refused, one to a line that a copy owns
waits, and otherwise one to part of a poisoned line or to a retired channel is dropped; a record of 64 bytes goes to
entry FWR of its queue's fault ring, FWR moves on, and the event counts towards the queue's interrupt; it waits after an earlier record of
its queue; weight on its way is one return from its sender, and none is sent for nothing. How a write waits, that a line has no last write
after it, and that a record is lost with its queue's descriptor are the model's choices (log 70), as is that nothing is sent for a halt with WEIGHT 0 (log 76). -/
def Obligations.DeviceWritesAndRecords : Prop :=
  ∀ (s : State) (pa n x q : Nat) (r : Record) (src : Origin) (asid : Nat) (h : Word) (amount : Nat)
    (kill : Bool),
    let desc := s.localPa (s.cfg.qtab + 64 * q)
    let fwr := s.mem.readNat (desc + 40) 4
    let slot := s.localPa (s.mem.readNat (desc + 48) 8 + 64 * (fwr % 2 ^ (s.mem.readNat (desc + 33) 1 % 32)))
    let record := leBytes 8 r.tid.toNat ++ leBytes 8 r.path.toNat ++ leBytes 8 r.pc.toNat ++ leBytes 8 r.cause.toNat ++
      leBytes 8 r.addr.toNat ++ leBytes 8 s.stime ++ leBytes 2 r.asid ++ leBytes 1 r.kind ++ List.replicate 13 0
    let wrote := s.deviceWrite pa n x
    let posted := s.postRecord q r
    let whole := pa % 64 = 0 ∧ n = 64
    let image := ∃ im, s.wsImage = some im ∧ (im.lines.get? (pa / 64)).isSome = true
    let dropped := (pa / 64 ∈ s.poison ∧ ¬ whole) ∨ (isLocal pa = true ∧ (s.channel (channelOf pa)).retired = true)
    let held := fun (pa : Nat) => s.owned (outsideWho 0 6001) (pa / 64) = true ∨ ∃ p bs, Owed.bytes p bs ∈ s.owed ∧ p / 64 = pa / 64
    let after : State := { s with mem := s.mem.writeNat pa n x }
    (image → wrote = s) ∧
    (¬ image → held pa → wrote = { s with owed := s.owed ++ [.bytes pa (leBytes n x)] }) ∧
    (¬ image → ¬ held pa → dropped → wrote = s) ∧
    (¬ image → ¬ held pa → ¬ dropped → wrote.mem = after.mem ∧ (∀ k, (s.cluster k).kept (wrote.cluster k)) ∧
      (∀ k, (wrote.cluster k).lastWrites.get? (pa / 64) = none) ∧
      (∀ l, l ∈ wrote.poison ↔ l ∈ s.poison ∧ (whole → l ≠ pa / 64)) ∧
      { wrote with mem := s.mem, clusters := s.clusters, poison := s.poison } = s) ∧
    (¬ image → ¬ held pa → ¬ dropped → ∀ k j,
      (∀ m, (s.cluster k).monitors.get? j = some m → ∃ m', (wrote.cluster k).monitors.get? j = some m' ∧
        { m' with fired := m.fired } = m ∧ (m'.fired = true ↔ m.fired = true ∨ (m.entry / 64 = pa / 64 ∧
          after.entryGrants m.va.toNat m.lo m.acc m.entry m.scalar = true))) ∧
      ∀ w, (s.cluster k).signals.get? j = some w → ∃ w', (wrote.cluster k).signals.get? j = some w' ∧
        { w' with met := w.met } = w ∧ (w'.met = true ↔ w.met = true ∨ (w.pa / 64 = pa / 64 ∧
          w.cc.holds (BitVec.ofNat 64 (after.mem.readNat w.pa 8)) w.comparand = true))) ∧
    let waits := held desc ∨ ∃ bs, Owed.record q bs ∈ s.owed
    let later : State := { s with owed := s.owed ++ [.record q record] }
    (q < 65534 → waits → posted = later) ∧
    (q < 65534 → ¬ waits → s.poisonedAt desc = true → posted = s) ∧
    (q < 65534 → ¬ waits → s.poisonedAt desc = false → held slot → posted = later) ∧
    (q < 65534 → s.sound →
      posted.mem = (s.mem.writeBytes slot record).writeNat (desc + 40) 4 (fwr + 1) ∧
      (posted.queue q).events = (s.queue q).events + 1 ∧ (posted.queue q).latest = s.stime ∧
      (∀ p, p ≠ q → posted.queue p = s.queue p) ∧ (∀ k, (s.cluster k).kept (posted.cluster k)) ∧
      { posted with mem := s.mem, clusters := s.clusters, queues := s.queues } = s) ∧
    (65534 ≤ q → posted = s) ∧
    s.sendReturn src asid h amount kill =
      if amount = 0 ∧ kill = false then s
      else { s with
        nextId := s.nextId + 1
        returns := s.returns.set s.nextId { src := src, asid := asid, hoist := h, amount := amount, kill := kill } }

/-! ### Tasks -/

/-- R212, R216 to R220: the five sends. The pc advances, the weight and the spawn index are taken, and the context waits
for the acceptance of its message; spawn and spawnc give half of the weight and hand the views on. A refused target
raises PERM with its operand, an unaligned handler ALIGN, a handler or a data address of callat outside the address range XLATE, and a
sender short of weight borrows first. A borrow that a UALink has held for 2 ms raises POISON with the record's address, the model's choice
(log 31). -/
def Obligations.Sends : Prop :=
  ∀ (s : State) (t : Task) (a b : SReg) (bank : Bool), Running s t → s.inMergeHandler t = false →
    let path := childPath t.ident.path t.purse.spawnIx
    let target := t.sAt (b.val + 4)
    let entry := (if bank then 0x8000000000000000 else 0) ||| (t.getS a &&& 0x00FFFFFFFFFFFFFC)
    let sends := fun (i : Instr) (child : Bool) (hdr : Word) (d : Dest) =>
      let least := if child then 2 else 1
      let carried := if child then t.purse.weight / 2 else 1
      let core := match d with | .core _ => true | _ => false
      let r := if child then s.splitViews t.ident.tid (coreCluster s.here) t.views else (s, t.views, [])
      let msg : Msg :=
        { id := r.1.nextId, dst := d, hdr := hdr,
          args := #v[t.sAt b.val, t.sAt (b.val + 1), t.sAt (b.val + 2), t.sAt (b.val + 3)], s5 := t.ident.tid,
          weight := carried, hoist := t.purse.hoist,
          ident := { t.ident with
            tid := 0, path := if core then path else t.ident.path, parent := if child then some t.ident.tid else none },
          views := r.2.2, sender := some s.focus, senderPath := t.ident.path, launchStart := false, arrived := 0 }
      let u : Task := { t with
        views := r.2.1
        purse := { t.purse with
          weight := t.purse.weight - carried
          spawnIx := if core then (t.purse.spawnIx + 1) % 2 ^ 64 else t.purse.spawnIx }
        flow := { t.flow with wait := .accept r.1.nextId } }
      (least ≤ t.purse.weight → Leads (exec i s) fun s' => ∃ m, Only s m (u.setPc (t.regs.pc + 4)) ∧
        s' = { m with
          chains := r.1.chains, nextId := r.1.nextId + 1, fabric := r.1.fabric.set r.1.nextId msg }) ∧
      (t.purse.weight < least → t.flow.woken = .no ∨ t.flow.woken = .yes → exec i s = .next (s.sendBorrow s.focus t)) ∧
      (t.purse.weight < least → t.flow.woken = .refused →
        exec i s = .next (s.enterUpcall s.focus t (cause PENNANT 0 t.regs.pc) 0)) ∧
      (t.purse.weight < least → t.flow.woken = .late →
        exec i s = .next (s.enterUpcall s.focus t { cause POISON t.purse.hoist t.regs.pc with acc := 2 } 0))
    let raises := fun (i : Instr) (code : Nat) (addr : Word) =>
      exec i s = .next (s.enterUpcall s.focus t (cause code addr t.regs.pc) 0)
    let taken := fun (k : Nat) => s.launchCore k = true ∧ t.ident.coreSet.has k = true
    let aligned := (t.getS a).toNat % 4 = 0 ∧ (t.getS a).toNat < 2 ^ 56
    let described := fun (i : Instr) (w : Word) =>
      let q := w.toNat % 2 ^ 32
      (w.getLsbD 63 = true →
        sends i false (t.getS a) (if q = 65534 then .transfer 0 else if q = 65535 then .transfer 1 else .queue q)) ∧
      (w.toNat < 2 ^ 48 → taken (w.toNat % 2 ^ 13) → sends i false (t.getS a) (.core (w.toNat % 2 ^ 13))) ∧
      (w.toNat < 2 ^ 63 → 2 ^ 48 ≤ w.toNat ∨ ¬ taken (w.toNat % 2 ^ 13) → raises i PERM w)
    (aligned → ∀ k, s.spawnCore t.ident.coreSet (s.determ t.ident.launch) (coreCluster s.here) path = some k →
      sends (.spawn a b bank) true entry (.core k)) ∧
    (aligned → taken (target.toNat % 2 ^ 13) → sends (.spawnc a b bank) true entry (.core (target.toNat % 2 ^ 13))) ∧
    (aligned → ¬ taken (target.toNat % 2 ^ 13) → raises (.spawnc a b bank) PERM target) ∧
    (aligned → (t.getS b).toNat < 2 ^ 56 → ∀ k,
      s.callatCore t.ident.coreSet (s.determ t.ident.launch) s.here (t.getS b) path = some k →
        sends (.callat a b bank) false entry (.core k)) ∧
    described (.sendm a b) target ∧ described (.reply a b) (t.getS 5) ∧
    (∀ i ∈ [Instr.spawn a b bank, .spawnc a b bank, .callat a b bank],
      ((t.getS a).toNat % 4 ≠ 0 → raises i ALIGN (t.getS a)) ∧
      ((t.getS a).toNat % 4 = 0 → 2 ^ 56 ≤ (t.getS a).toNat → raises i XLATE (t.getS a))) ∧
    (aligned → 2 ^ 56 ≤ (t.getS b).toNat → raises (.callat a b bank) XLATE (t.getS b))

/-- R221 to R223, R268, R274: the ends of tasks. halt frees the context and bank of its task and returns its weight, of a task with an open
hoist the purse there and the outer weight to the outer hoist, whose record no longer names it as waiter; halt.retain also sets the retain
name of its launch. An inherited segment is closed, and the halt waits for the combinations that its closing owes (R277); it stays open
while a declared entry still waits for children. join waits for every child and for those combinations, and then goes on: a declared chain
that has combined goes on to its real tile, and once merged begins again. kill is PERM for a task of another launch, nothing for one that is
gone, merging or suspended by the fault of a combination (R278), and else waits for its acknowledgement; of oneself it empties what it
closes, and segments that an earlier spawn has closed as well, the model's reading (log 68). What counts as merging is its reading, too (log
75); that nothing is sent for a weight of 0, against the table of R225, is its choice (log 76), as are that tasks of no launch count as
those of one (log 77) and that such a task sets no retain name (log 94). -/
def Obligations.TaskEnds : Prop :=
  ∀ (s : State) (t : Task) (a : SReg), Running s t →
    let tid := t.ident.tid
    let x := t.getS a
    let me := coreOrigin s.here tid
    let raises := fun (i : Instr) (code : Nat) (addr : Word) =>
      exec i s = .next (s.enterUpcall s.focus t (cause code addr t.regs.pc) 0)
    let goes := fun (i : Instr) => Leads (exec i s) (Only s · (t.setPc (t.regs.pc + 4)))
    let back := fun (r : Tab Return × Nat) (h : Word) (n : Nat) (kill : Bool) =>
      if n = 0 ∧ kill = false then r
      else (r.1.set r.2 { src := me, asid := t.ident.asid, hoist := h, amount := n, kill := kill }, r.2 + 1)
    let ended := fun (retain : Tab Word) (kill : Bool) (s' : State) =>
      s'.task? s.focus = none ∧ (∀ j, j ≠ s.focus → s'.task? j = s.task? j) ∧
      (s'.core s.here).retain = retain ∧ (s'.core s.here).grid ≠ some (ctxNum s.focus) ∧
      (match t.purse.outer with
        | none => s.sameBytes s' ∧ s'.returns = (back (s.returns, s.nextId) t.purse.hoist t.purse.weight kill).1
        | some (h, w) =>
          s'.returns = (back (back (s.returns, s.nextId) t.purse.hoist t.purse.weight kill) h w false).1 ∧
          (s.sound → ∀ pa, s.recordPa me.die t.ident.asid t.purse.hoist = some pa →
            s'.spad = s.spad ∧
              s'.mem = if s.mem.readNat (pa + 24) 8 = tid.toNat then s.mem.writeNat (pa + 24) 8 0 else s.mem))
    let named := match t.ident.launch with
      | some l => if x = 0 then s.hereCore.retain.erase l else s.hereCore.retain.set l x
      | none => s.hereCore.retain
    let plain := t.flow.soft = [] ∧ t.flow.wait = .run ∧
      ∀ e ∈ s.clusters, ∀ q ∈ e.2.engine.active, q.tid = tid → q.stuck = none
    let first := t.flow.merging = false ∧ t.flow.halting = false
    let owed := s.mergeFault tid = none ∧ s.inMergeHandler t = false
    let child := ∃ h ∈ s.holders, h.1.parent = some tid
    let parked := fun (w : Wait) (halting : Bool) (v : Flow) =>
      v = { t.flow with wait := w, woken := .no, merging := true, halting := halting }
    (t.views = [] → plain → owed → s.worksDone tid = true →
      Leads (exec .halt s) (ended s.hereCore.retain false) ∧ Leads (exec (.haltRetain a) s) (ended named false)) ∧
    (∀ vid v c g, t.views = [(vid, v)] → v.declared = false → s.chains.get? v.chain = some c → c.discard = false →
      c.segment? v.seg = some g → g.complete = false → plain → first → owed →
      let closed := c.mapSeg v.seg fun g => { g with complete := true }
      (closed.pairs v.seg = false → s.worksDone tid = true → ∀ i ∈ [Instr.halt, .haltRetain a],
        Leads (exec i s) fun s' => ended (if i = .halt then s.hereCore.retain else named) false s' ∧
          s'.chains = s.chains.set v.chain closed) ∧
      (closed.pairs v.seg = true → ∀ i ∈ [Instr.halt, .haltRetain a],
        Leads (exec i s) fun s' => s.sameBytes s' ∧ s'.returns = s.returns ∧
          (∃ u, s'.task? s.focus = some u ∧ u.views = t.views ∧ u.window = 0 ∧ parked .halting true u.flow) ∧
          s'.chains = s.chains.set v.chain
            { closed with work := c.work ++ [{ tid := tid, cluster := s.here / 8, seg := v.seg, right := false }] }) ∧
      (x.toNat < 2 ^ 48 → x = tid → s.ctxOf tid = some s.focus → s.unkillable t = false → closed.pairs v.seg = false →
        Leads (exec (.kill a) s) fun s' => ended s.hereCore.retain true s' ∧
          ∃ c', s'.chains.get? v.chain = some c' ∧ c'.segs = closed.segs.map fun g =>
            if g.owner = tid then { g with lines := [] } else g)) ∧
    (∀ n v m w, t.views = [(n, v), (m, w)] → v.declared = true → w.declared = false → v.chain ≠ w.chain → first → owed → child →
      ∀ i ∈ [Instr.halt, .haltRetain a], Leads (exec i s) fun s' =>
        (∃ u, s'.task? s.focus = some u ∧ u.views = t.views ∧ u.window = 0 ∧ parked .halting true u.flow) ∧
        s'.chains.get? w.chain = s.chains.get? w.chain ∧ s.sameBytes s' ∧ s'.returns = s.returns) ∧
    (t.views = [] → first → owed → ¬ child → s.worksDone tid = true → goes .join) ∧
    (t.views = [] → first → owed → child ∨ s.worksDone tid = false →
      exec .join s = .next (s.setTask s.focus
        { t with flow := { t.flow with wait := .join, woken := .no, merging := true } })) ∧
    (∀ vid v c g, t.views = [(vid, v)] → v.declared = true → s.chains.get? v.chain = some c → c.segs = [g] → g.id = v.seg →
      c.work = [] → c.discard = false → owed → ¬ child → s.worksDone tid = true →
      (first → g.complete = false → c.joining = false →
        Leads (exec .join s) fun s' => (∃ u, s'.task? s.focus = some u ∧ u.agrees t ∧ parked .join false u.flow) ∧
          (∀ n, s'.chains.get? n =
            if n = v.chain then some { c with segs := [{ g with complete := true }], joining := true } else s.chains.get? n) ∧
          { s' with chains := s.chains, ctxs := s.ctxs } = s) ∧
      (t.flow.merging = true → g.complete = true → c.joining = true → g.lines = [] →
        Leads (exec .join s) fun s' => ∃ m,
          Only s m (({ t with
            views := [(vid, { v with seg := s.nextId })], flow := { t.flow with merging := false } } : Task).setPc (t.regs.pc + 4)) ∧
          s' = { m with
            nextId := s.nextId + 1
            chains := s.chains.set v.chain
              { c with joining := false, bad := [], since := none, segs := [Segment.blank s.nextId tid] } })) ∧
    (2 ^ 48 ≤ x.toNat → raises (.kill a) PERM x) ∧
    (x.toNat < 2 ^ 48 → s.taskOf x = none → goes (.kill a)) ∧
    (x.toNat < 2 ^ 48 → ∀ u, s.taskOf x = some u →
      (u.ident.launch ≠ t.ident.launch → raises (.kill a) PERM x) ∧
      (u.ident.launch = t.ident.launch → s.unkillable u = true → goes (.kill a)) ∧
      (u.ident.launch = t.ident.launch → s.unkillable u = false → x ≠ tid →
        exec (.kill a) s = .next ({ s with
          nextId := s.nextId + 1
          kills := s.kills.set s.nextId { target := x, killer := some tid, queue := none } }.setTask s.focus
            { t with flow := { t.flow with wait := .kill s.nextId, woken := .no } }))) ∧
    (x.toNat < 2 ^ 48 → x = tid → s.ctxOf tid = some s.focus → t.views = [] → plain → s.unkillable t = false →
      Leads (exec (.kill a) s) (ended s.hereCore.retain true))

/-- R224 to R228: hoist.open writes an open record and takes a fresh weight, keeping the outer pair; waitq gives its
weight back and parks, or closes the record and restores the outer pair; a waitq that the record has woken closes it and restores
the pair too. Its status word holds KILLED and NEG of the record. pborrow waits for its grant. That the step at the record
is not redirected by a view is the model's reading (log 17), and what a borrow that a UALink has held for 2 ms raises its choice
(log 31). -/
def Obligations.Hoists : Prop :=
  ∀ (s : State) (t : Task) (a : SReg) (p : Place), s.Inv → Running s t →
    let r := t.getS a
    let me : Who := { s.who t with views := [] }
    let raises := fun (i : Instr) (code : Nat) (addr : Word) =>
      exec i s = .next (s.enterUpcall s.focus t (cause code addr t.regs.pc) 0)
    let field := fun (line off len : Nat) => line / 2 ^ (8 * off) % 2 ^ (8 * len)
    let opened := s.readAt p r.toNat 64
    let inner := s.readAt p t.purse.hoist.toNat 64
    let out := field inner 0 8 - t.purse.weight
    let isOpen := field inner 20 1 % 2 = 1
    let negative := field inner 20 1 / 2 % 2 = 1 ∨ ¬ isOpen ∨ field inner 0 8 < t.purse.weight
    let left := fun (status waiter : Nat) (x : Nat) =>
      field x 0 8 = (if isOpen ∧ t.purse.weight ≤ field inner 0 8 then out else 0) ∧ field x 8 8 = field inner 8 8 ∧
        field x 16 4 = field inner 16 4 ∧ field x 20 4 = status ∧ field x 24 8 = waiter ∧ field x 32 32 = field inner 32 32
    (r.toNat % 64 = 0 → r.toNat < 2 ^ 56 → inWindow r.toNat = false → s.locate me 2 r.toNat 64 false false = .ok p →
      (t.purse.outer = none → field opened 20 1 % 2 = 0 →
        Leads (exec (.hoistOpen a) s) (Stores s · (({ t with
          purse := { t.purse with
            hoist := r, weight := 2 ^ 31, outer := some (t.purse.hoist, t.purse.weight), quiet := false } } : Task).setPc
              (t.regs.pc + 4)) p 64 (2 ^ 31 + 2 ^ 31 * 2 ^ 64 + 1 * 2 ^ 160))) ∧
      (t.purse.outer ≠ none → raises (.hoistOpen a) PENNANT 2) ∧
      (t.purse.outer = none → field opened 20 1 % 2 = 1 → raises (.hoistOpen a) PENNANT 3)) ∧
    (t.purse.outer = none → raises (.waitq a) PENNANT 4) ∧
    (∀ h w, t.purse.outer = some (h, w) → t.purse.quiet = false →
      s.locate me 2 t.purse.hoist.toNat 64 false false = .ok p →
      (isOpen → t.purse.weight < field inner 0 8 →
        Leads (exec (.waitq a) s) fun s' => ∃ x,
          left (if field inner 20 1 / 2 % 2 = 1 then 3 else 1) t.ident.tid.toNat x ∧ s.stored s' p 64 x ∧
          s.Recorded s' ∧ s'.task? s.focus = some { t with
            purse := { t.purse with weight := 0 }, flow := { t.flow with wait := .quiet, woken := .no } } ∧
          ∀ j, j ≠ s.focus → s'.task? j = s.task? j) ∧
      (¬ (isOpen ∧ t.purse.weight < field inner 0 8) →
        Leads (exec (.waitq a) s) fun s' => ∃ x,
          left (if negative then 2 else 0) 0 x ∧
          Stores s s' ((({ t with
            purse := { t.purse with hoist := h, weight := w, outer := none, quiet := false } } : Task).setS a
              (BitVec.ofNat 64 (field inner 16 4 * 2 ^ 32 + if negative then 1 else 0))).setPc (t.regs.pc + 4)) p 64 x)) ∧
    (∀ h w, t.purse.outer = some (h, w) → t.purse.quiet = true →
      s.locate me 2 t.purse.hoist.toNat 64 false false = .ok p →
      Leads (exec (.waitq a) s) fun s' => ∃ x,
        let neg := field inner 20 1 / 2 % 2
        field x 20 1 = 2 * neg ∧ field x 24 8 = 0 ∧ field x 0 20 = field inner 0 20 ∧ field x 21 3 = field inner 21 3 ∧
        field x 32 32 = field inner 32 32 ∧
        Stores s s' ((({ t with
          purse := { t.purse with hoist := h, weight := w, outer := none, quiet := false } } : Task).setS a
            (BitVec.ofNat 64 (field inner 16 4 * 2 ^ 32 + neg))).setPc (t.regs.pc + 4)) p 64 x) ∧
    (t.flow.woken = .yes → Leads (exec .pborrow s) (Only s · (t.setPc (t.regs.pc + 4)))) ∧
    (t.flow.woken = .no → 2 ^ 32 - 1 - 2 ^ 16 < t.purse.weight → raises .pborrow PENNANT 1) ∧
    (t.flow.woken = .no → t.purse.weight ≤ 2 ^ 32 - 1 - 2 ^ 16 → exec .pborrow s = .next (s.sendBorrow s.focus t)) ∧
    (t.flow.woken = .refused → raises .pborrow PENNANT 0) ∧
    (t.flow.woken = .late →
      exec .pborrow s = .next (s.enterUpcall s.focus t { cause POISON t.purse.hoist t.regs.pc with acc := 2 } 0))

/-- R229, R230, R269 to R271, R279: view.decl opens an entry with a chain of one blank segment, or refuses; view.drop
ends an entry nobody else holds, does nothing for another's, and waits otherwise. An access of the declared range goes
to the task's private line, which the first access fills with the operator's identity; memory stays as it is. That a view takes no
e_ref is the model's reading (log 78). -/
def Obligations.Views : Prop :=
  ∀ (s : State) (t : Task) (vid : Fin 8) (op : ViewOp) (d a b : SReg) (off : BitVec 8) (so : SmOrd) (g : PReg),
    Running s t → s.inMergeHandler t = false → t.getP g = true →
    let base := t.getS a
    let len := t.getS b
    let raises := fun (i : Instr) (code : Nat) (addr : Word) =>
      exec i s = .next (s.enterUpcall s.focus t (cause code addr t.regs.pc) 0)
    let decl : Instr := .viewDecl vid a b op
    let illegal := raises decl ILLEGAL (BitVec.ofNat 64 (word0 decl))
    let aligned := base.toNat % 64 = 0
    let inside := base.toNat < 2 ^ 56 ∧ (base + len).toNat < 2 ^ 56
    let sized := 0 < len.toNat ∧ len.toNat ≤ 2 ^ 20 ∧ len.toNat % 64 = 0 ∧ (op = .addBs64 → len.toNat % 192 = 0)
    let apart := ∀ e ∈ t.views, base.toNat + len.toNat ≤ e.2.base ∨ e.2.base + e.2.len ≤ base.toNat
    let outside := inWindow base.toNat = false ∧ inWindow (base.toNat + len.toNat - 1) = false
    let free := t.views.get? vid.val = none ∧ apart
    let determ := op = .addF32 ∧ s.determ t.ident.launch = true
    (aligned → inside → sized → free → outside → ¬ determ →
      Leads (exec decl s) fun s' => ∃ m,
        Only s m (({ t with
          views := t.views.set vid.val
            { base := base.toNat, len := len.toNat, op := op, chain := s.nextId, seg := s.nextId + 1,
              declared := true } } : Task).setPc (t.regs.pc + 4)) ∧
        s' = { m with
          nextId := s.nextId + 2
          chains := s.chains.set s.nextId
            { slice := coreCluster s.here, vid := vid.val, base := base.toNat, len := len.toNat, op := op, declarer := t.ident.tid,
              hoist := t.purse.hoist, asid := t.ident.asid, launch := t.ident.launch,
              segs := [{ id := s.nextId + 1, owner := t.ident.tid, complete := false, lines := [] }], bad := [],
              joining := false, discard := false, work := [], fault := none, since := none, told := false } }) ∧
    (¬ aligned → raises decl ALIGN base) ∧ (aligned → ¬ inside → raises decl XLATE base) ∧
    (aligned → inside → ¬ sized ∨ ¬ free → illegal) ∧
    (aligned → inside → sized → free → ¬ outside → raises decl PERM base) ∧
    (aligned → inside → sized → free → outside → determ → raises decl DETERM base) ∧
    (t.views.get? vid.val = none → Leads (exec (.viewDrop vid) s) (Only s · (t.setPc (t.regs.pc + 4)))) ∧
    (∀ v, t.views.get? vid.val = some v →
      (v.declared = false → Leads (exec (.viewDrop vid) s) (Only s · (t.setPc (t.regs.pc + 4)))) ∧
      (v.declared = true → s.heldBelow v.chain t.ident.tid = false →
        Leads (exec (.viewDrop vid) s) fun s' => ∃ m,
          Only s m (({ t with views := t.views.erase vid.val } : Task).setPc (t.regs.pc + 4)) ∧
          s' = { m with chains := s.chains.erase v.chain }) ∧
      (v.declared = true → s.heldBelow v.chain t.ident.tid = true →
        exec (.viewDrop vid) s = .next (s.setTask s.focus
          { t with flow := { t.flow with wait := .drop vid.val, woken := .no } }))) ∧
    (∀ (ea : Word) (v : View) (c : Chain) (sg : Segment), ea.toNat % 8 = 0 → ea.toNat < 2 ^ 56 →
      inWindow ea.toNat = false → viewAt (s.who t) ea.toNat = some v → s.chains.get? v.chain = some c →
      c.segment? v.seg = some sg → (∀ l, s.translate (nearSlice (s.who t).die ea.toNat) t.ident.asid ea.toNat = .ok l →
        l.io = false) → s.arenaUsed + (v.group (ea.toNat / 64)).length ≤ 2 ^ 28 →
      let line := ((sg.lines.get? (ea.toNat / 64)).getD v.op.identityLine).toNat
      let bit := 8 * (ea.toNat % 64)
      let kept := fun (s' : State) (u : Task) => s.sameBytes s' ∧ (∃ w, s'.task? s.focus = some w ∧ w.agrees u) ∧
        ∀ j, j ≠ s.focus → s'.task? j = s.task? j
      (ea = t.getS a + t.getS b → Leads (exec (.ldxD d a b g) s) fun s' =>
        kept s' ((t.setS d (BitVec.ofNat 64 (line / 2 ^ bit))).setPc (t.regs.pc + 4)) ∧
        (s'.heldLine v.chain v.seg (ea.toNat / 64)).map BitVec.toNat = some line) ∧
      (ea = t.getS a + off.signExtend 64 * 8 → Leads (exec (.stD d a off 0 so) s) fun s' =>
        kept s' (t.setPc (t.regs.pc + 4)) ∧ ∃ l', s'.heldLine v.chain v.seg (ea.toNat / 64) = some l' ∧
        ∀ i < 512, l'.getLsbD i =
          if bit ≤ i ∧ i < bit + 64 then (t.getS d).getLsbD (i - bit) else line.testBit i))

/-! ### Barriers, signals and copies -/

/-- R231 to R234, R304, R305: bar.init, bar.arv and bar.wait of the wired barrier (address 0) and of a named one, and
sig.add and sig.wait. An arrival that completes a generation moves GEN on; a wait returns when its generation has
passed and parks otherwise. That the step at the line is not redirected by a view is the model's reading (log 17), as is the ACC of an
ALIGN (log 44). -/
def Obligations.BarriersAndSignals : Prop :=
  ∀ (s : State) (t : Task) (a b : SReg) (cc : Cc) (p : Place), s.Inv → Running s t →
    let x := t.getS a
    let n := (t.getS b).toNat
    let me : Who := { s.who t with views := [] }
    let cl := coreCluster s.here
    let c := s.cluster cl
    let next := t.regs.pc + 4
    let raises := fun (i : Instr) (code acc : Nat) =>
      exec i s = .next (s.enterUpcall s.focus t { cause code x t.regs.pc with acc := acc } 0)
    let illegal := fun (i : Instr) =>
      exec i s = .next (s.enterUpcall s.focus t (cause ILLEGAL (BitVec.ofNat 64 (word0 i)) t.regs.pc) 0)
    let field := fun (line off len : Nat) => line / 2 ^ (8 * off) % 2 ^ (8 * len)
    let line := s.readAt p x.toNat 64
    let named := x ≠ 0 ∧ x.toNat % 64 = 0 ∧ x.toNat < 2 ^ 56 ∧ inWindow x.toNat = false
    let park := fun (w : Wait) (token : Option (Word × Word)) (s' : State) =>
      s'.task? s.focus = some { t with token := token, flow := { t.flow with wait := w, woken := .no } } ∧
        s.sameBytes s' ∧ ∀ j, j ≠ s.focus → s'.task? j = s.task? j
    let count := field line 8 8 + 1
    let full := field line 0 8 ≤ count
    let gen := BitVec.ofNat 64 (field line 16 8)
    -- the wired barrier
    (x = 0 → 1 ≤ n → n ≤ 128 → Leads (exec (.barInit a b) s) fun s' => ∃ m, Only s m (t.setPc next) ∧
      s' = m.setCluster cl { c with expect := n, arrived := 0, first := 0 }) ∧
    (x = 0 → n = 0 ∨ 128 < n → illegal (.barInit a b)) ∧
    (x = 0 → Leads (exec (.barArv a) s) fun s' =>
      (∃ v, s'.task? s.focus = some v ∧ v.agrees (({ t with token := some (0, c.gen) } : Task).setPc next)) ∧
      (if c.expect ≤ c.arrived + 1 then (s'.cluster cl).arrived = 0 ∧ (s'.cluster cl).gen = c.gen + 1
        else (s'.cluster cl).arrived = c.arrived + 1 ∧ (s'.cluster cl).gen = c.gen) ∧ s.sameBytes s') ∧
    (x = 0 → ∀ g, t.token = some (0, g) →
      (g ≠ c.gen → Leads (exec (.barWait a) s) (Only s · (({ t with token := none } : Task).setPc next))) ∧
      (g = c.gen → Leads (exec (.barWait a) s) (park (.bar 0 c.gen) (some (0, c.gen))))) ∧
    (x = 0 → (∀ y g, t.token = some (y, g) → y ≠ 0) →
      Leads (exec (.barWait a) s) (park (.bar 0 c.gen) (some (0, c.gen)))) ∧
    -- named barriers
    (x ≠ 0 → x.toNat % 64 ≠ 0 → raises (.barInit a b) ALIGN 2 ∧ raises (.barArv a) ALIGN 2 ∧ raises (.barWait a) ALIGN 0) ∧
    (named → n = 0 ∨ 2 ^ 63 - 1 < n → illegal (.barInit a b)) ∧
    (named → 1 ≤ n → n ≤ 2 ^ 63 - 1 → s.locate me 2 x.toNat 64 false false = .ok p →
      Leads (exec (.barInit a b) s) fun s' => ∃ y, Stores s s' (t.setPc next) p 64 y ∧ field y 0 8 = n ∧
        field y 8 8 = 0 ∧ field y 24 8 = 0 ∧ field y 16 8 = field line 16 8 ∧ field y 32 8 = field line 32 8 ∧
        field y 40 24 = 0) ∧
    (named → s.locate me 2 x.toNat 64 false false = .ok p →
      Leads (exec (.barArv a) s) fun s' => ∃ y, s.stored s' p 64 y ∧
        (∃ v, s'.task? s.focus = some v ∧ v.agrees (({ t with token := some (x, gen) } : Task).setPc next)) ∧
        field y 0 8 = field line 0 8 ∧ field y 8 8 = (if full then 0 else count % 2 ^ 64) ∧
        field y 16 8 = (if full then (field line 16 8 + 1) % 2 ^ 64 else field line 16 8) ∧
        field y 24 8 = (if field line 8 8 = 0 then s.stime % 2 ^ 64 else field line 24 8) ∧
        field y 32 8 = (if full then s.stime % 2 ^ 64 else field line 32 8) ∧ field y 40 24 = field line 40 24) ∧
    (named → s.locate me 0 x.toNat 64 false false = .ok p → ∀ g, t.token = some (x, g) →
      (g ≠ gen → Leads (exec (.barWait a) s) (Reads s · (({ t with token := none } : Task).setPc next))) ∧
      (g = gen → Leads (exec (.barWait a) s) (park (.bar x gen) (some (x, gen))))) ∧
    (named → s.locate me 0 x.toNat 64 false false = .ok p → (∀ y g, t.token = some (y, g) → y ≠ x) →
      Leads (exec (.barWait a) s) (park (.bar x gen) (some (x, gen)))) ∧
    -- signals
    (x.toNat % 8 = 0 → x.toNat < 2 ^ 56 → inWindow x.toNat = false →
      let m := s.readAt p x.toNat 8
      let sum := (BitVec.ofNat 64 m).toInt + (t.getS b).toInt
      (s.locate me 2 x.toNat 8 false false = .ok p → -(2 ^ 63) ≤ sum → sum < 2 ^ 63 →
        Leads (exec (.sigAdd a b) s) (Stores s · (t.setPc next) p 8 (BitVec.ofInt 64 sum).toNat)) ∧
      (s.locate me 2 x.toNat 8 false false = .ok p → sum < -(2 ^ 63) ∨ 2 ^ 63 ≤ sum → 65534 ≤ t.ident.queue →
        Leads (exec (.sigAdd a b) s)
          (Stores s · (t.setPc next) p 8 (if sum < 0 then 2 ^ 63 else 2 ^ 63 - 1))) ∧
      (s.locate me 0 x.toNat 8 false false = .ok p →
        (cc.holds (BitVec.ofNat 64 m) (t.getS b) = true ∨ t.flow.woken = .yes →
          Leads (exec (.sigWait cc a b) s) (Reads s · (t.setPc next))) ∧
        (cc.holds (BitVec.ofNat 64 m) (t.getS b) = false → t.flow.woken ≠ .yes →
          Leads (exec (.sigWait cc a b) s) (park (.sig x cc (t.getS b)) t.token))))

/-- R235 to R239, R303: acopy, acopy.nb and apf put a request with one unit of weight at the end of the core's FIFO; a
full FIFO parks acopy and apf and answers 1 to acopy.nb; request words that R235 or R236 refuse raise ILLEGAL. abind
binds a stream register to the oldest request of the tag that none holds. That a PB off 64 bytes raises ILLEGAL is the model's reading
(log 88), as is that a prefetch of length 0 goes through the FIFO, and parks on a full one, though R239 has it complete at once (log 89). -/
def Obligations.CopyRequests : Prop :=
  ∀ (s : State) (t : Task) (a b : SReg) (n : Fin 3) (q : QReg), Running s t →
    let w := fun (j : Nat) => t.sAt (a.val + j)
    let k := s.here
    let bits := fun (x : Word) (hi lo : Nat) => x.toNat / 2 ^ lo % 2 ^ (hi - lo + 1)
    let kind := bits (w 0) 63 60
    let done := bits (w 0) 59 58
    let size := match kind with
      | 0 => bits (w 2) 31 0
      | 1 => bits (w 2) 63 32 * bits (w 2) 31 0
      | 2 => bits (w 2) 63 32 * 2 ^ bits (w 0) 57 56
      | _ => 1
    let okay := kind ≤ 4 ∧ done ≠ 3 ∧ (done = 2 → bits (w 1) 55 0 = 0 ∧ t.bank ≠ none) ∧ (w 3).toNat % 64 = 0 ∧
      (kind = 0 → bits (w 2) 63 32 = 0) ∧ (kind = 2 → bits (w 2) 31 0 = 0) ∧ (3 ≤ kind → w 2 = 0) ∧
      (kind ≠ 0 ∨ done = 1 → w 3 ≠ 0) ∧ 1 ≤ size ∧ size ≤ 2 ^ 30
    let room := s.hereCore.fifo.length < 8
    let illegal := fun (i : Instr) =>
      exec i s = .next (s.enterUpcall s.focus t (cause ILLEGAL (BitVec.ofNat 64 (word0 i)) t.regs.pc) 0)
    let queues := fun (i : Instr) (u : Task) (r : CopyReq → Prop) =>
      Leads (exec i s) fun s' => ∃ m x, r x ∧ Only s m (u.setPc (t.regs.pc + 4)) ∧
        s' = { m.setCore k { m.core k with fifo := s.hereCore.fifo ++ [x] } with nextId := s.nextId + 1 } ∧
        x.id = s.nextId ∧ x.tid = t.ident.tid ∧ x.ident = t.ident ∧ x.hoist = t.purse.hoist ∧ x.bank = t.bank ∧
        x.taken = false ∧ x.pos = 0
    let paid : Task := { t with purse := { t.purse with weight := t.purse.weight - 1 } }
    let request := fun (x : CopyReq) => x.pf = none ∧ x.kind = kind ∧ x.done = done ∧ x.esz = bits (w 0) 57 56 ∧
      x.src = bits (w 0) 55 0 ∧ x.dst = bits (w 1) 55 0 ∧ x.n1 = bits (w 2) 63 32 ∧ x.n0 = bits (w 2) 31 0 ∧
      x.pb = (w 3).toNat ∧ x.tag = bits (w 1) 63 56
    let parks := fun (i : Instr) =>
      exec i s = .next (s.setTask s.focus { t with flow := { t.flow with wait := .fifo, woken := .no } })
    let range := (t.getS b).toNat ≤ 2 ^ 30
    let bar := t.sAt (b.val + 1)
    let barOk := n.val = 2 → bar.toNat % 64 = 0 ∧ bar.toNat < 2 ^ 56 ∧ inWindow bar.toNat = false
    (okay → room → 1 ≤ t.purse.weight →
      queues (.acopy a) paid request ∧ queues (.acopyNb b a) (paid.setS b 0) request) ∧
    (okay → ¬ room → parks (.acopy a) ∧
      Leads (exec (.acopyNb b a) s) (Only s · ((t.setS b 1).setPc (t.regs.pc + 4)))) ∧
    (okay → room → t.purse.weight = 0 → ∀ i ∈ [Instr.acopy a, .acopyNb b a],
      (t.flow.woken = .no ∨ t.flow.woken = .yes → exec i s = .next (s.sendBorrow s.focus t)) ∧
      (t.flow.woken = .refused → exec i s = .next (s.enterUpcall s.focus t (cause PENNANT 0 t.regs.pc) 0))) ∧
    (¬ okay → illegal (.acopy a) ∧ illegal (.acopyNb b a)) ∧
    (range → barOk → room → 1 ≤ t.purse.weight →
      queues (.apf a b n) paid fun x => x.pf = some (n.val, if n.val = 2 then bar else 0) ∧
        x.src = (t.getS a).toNat ∧ x.n0 = (t.getS b).toNat) ∧
    (range → barOk → ¬ room → parks (.apf a b n)) ∧
    (¬ range → illegal (.apf a b n)) ∧
    (∀ bk, t.bank = some bk →
      let bank := s.bankHere bk
      let found := s.streamRequests k t ((t.getS a).toNat % 256)
      let open_ := fun (r : Nat) => r ∈ found ∧ some r ∉ bank.q.toList
      (bank.q[q] ≠ none → illegal (.abind q a)) ∧
      ((∀ r, ¬ open_ r) → illegal (.abind q a)) ∧
      (∀ r, bank.q[q] = none → open_ r → (∀ r', open_ r' → r ≤ r') →
        Leads (exec (.abind q a) s)
          (OnlyBank s · (t.setPc (t.regs.pc + 4)) bk { bank with q := bank.q.set q (some r) })))

/-! ### Regions, translations and slices -/

/-- R241, R242, R281, R283, R290, R294, R328, R397 to R399: handover by the region's writer, and its arrival, which waits while a copy
owns the table's line (R320); xinv in
the firmware column, which parks until every slice has acknowledged, and the three events of an invalidation; a walk
that fills a slice's cache; a recalled line, which is no pinned one (R376); the weight store's refresh window, after which
another window's stalls are over. That no access is outstanding at an invalidation is the model's choice (log 14), and so are how a
write of the device waits (log 70) and that the slices alone learn of a handover whose table's descriptor cannot be read (log 54). -/
def Obligations.RegionsAndTranslations : Prop :=
  ∀ (s : State) (t : Task) (a b : SReg) (id slice asid va line : Nat), Running s t →
    let x := (t.getS a).toNat
    let y := (t.getS b).toNat
    let index := x % 256
    let engine := x / 2 ^ 15 % 2 = 1
    let l := x / 2 ^ 8 % 2 ^ 7
    let raises := fun (i : Instr) (code : Nat) (addr : Word) =>
      exec i s = .next (s.enterUpcall s.focus t (cause code addr t.regs.pc) 0)
    let start := x
    let len := y % 2 ^ 48
    let column := s.inColumn (coreCluster s.here) = true
    ((s.regions.getD t.ident.asid []).find? (fun r => r.index == index) = none →
      raises (.handover a b) WRITER (BitVec.ofNat 64 index)) ∧
    (∀ r, (s.regions.getD t.ident.asid []).find? (fun r => r.index == index) = some r →
      let mine := if r.engine then coreCluster s.here = r.writer.toNat
        else t.ident.path.toNat / 2 ^ (64 - r.prefixLen) = r.writer.toNat / 2 ^ (64 - r.prefixLen)
      let legal := if engine then y ≤ 639 else l ≤ 64
      (¬ mine → raises (.handover a b) WRITER (BitVec.ofNat 64 index)) ∧
      (mine → ¬ legal → raises (.handover a b) ILLEGAL (BitVec.ofNat 64 (word0 (.handover a b)))) ∧
      (mine → legal → 1 ≤ t.purse.weight →
        Leads (exec (.handover a b) s) fun s' => ∃ m,
          Only s m (({ t with purse := { t.purse with weight := t.purse.weight - 1 } } : Task).setPc (t.regs.pc + 4)) ∧
          s' = { m with
            nextId := s.nextId + 1
            handovers := s.handovers.set s.nextId
              { src := coreOrigin s.here t.ident.tid, asid := t.ident.asid, region := index, engine := decide engine, prefixLen := l,
                writer := t.getS b, hoist := t.purse.hoist } })) ∧
    (∀ h, s.handovers.get? id = some h →
      let desc := s.localPa (s.cfg.astab + 32 * h.asid)
      let entry := s.localPa (s.readPa (desc + 8) 8 + 32 * h.region)
      let s1 := { s with
        handovers := s.handovers.erase id
        regions := s.regions.set h.asid ((s.regions.getD h.asid []).map fun (r : Region) =>
          if r.index = h.region then { r with writer := h.writer, engine := h.engine, prefixLen := h.prefixLen } else r) }
      (s.poisonedAt desc = true → exec (.handoverArrival id) s = .next (s1.sendReturn h.src h.asid h.hoist 1 false)) ∧
      (s.poisonedAt desc = false → s.heldBack entry = false →
        exec (.handoverArrival id) s = .next (((s1.deviceWrite (entry + 16) 8 h.writer.toNat).deviceWrite (entry + 24) 8
          (1 + h.engine.toNat * 2 + h.prefixLen % 128 * 256)).sendReturn h.src h.asid h.hoist 1 false)) ∧
      (s.poisonedAt desc = false → s.heldBack entry = true → exec (.handoverArrival id) s = .next s)) ∧
    (¬ column → raises (.xinv a b) ILLEGAL (BitVec.ofNat 64 (word0 (.xinv a b)))) ∧
    (column → t.flow.woken = .yes → Leads (exec (.xinv a b) s) (Only s · (t.setPc (t.regs.pc + 4)))) ∧
    (column → t.flow.woken ≠ .yes → start % 4096 ≠ 0 ∨ len % 4096 ≠ 0 → raises (.xinv a b) ALIGN (t.getS a)) ∧
    (column → t.flow.woken ≠ .yes → start % 4096 = 0 → len % 4096 = 0 → start + len ≤ 2 ^ 56 →
      exec (.xinv a b) s = .next (({ s with
        nextId := s.nextId + 1
        invals := s.invals.set s.nextId
          { issuer := .task t.ident.tid, asid := y / 2 ^ 48, start := start, len := len, arrived := [],
            acked := [] } } : State).setTask s.focus
        { t with flow := { t.flow with wait := .xinv s.nextId, woken := .no } })) ∧
    (∀ v, s.invals.get? id = some v →
      (slice < 640 → slice ∉ v.arrived → Leads (exec (.invalidationArrival id slice) s) fun s' =>
        s'.invals.get? id = some { v with arrived := slice :: v.arrived } ∧
        (∀ e, e ∈ (s'.cluster slice).cache ↔ e ∈ (s.cluster slice).cache ∧
          ¬ (e.1 = v.asid ∧ (v.len = 0 ∨ (e.2.vbase < v.start + v.len ∧ v.start < e.2.vbase + 2 ^ e.2.size)))) ∧
        (v.len = 0 → (s'.cluster slice).descs.get? v.asid = none) ∧
        (∀ n, n ≠ slice → s'.cluster n = s.cluster n) ∧ { s' with invals := s.invals, clusters := s.clusters } = s) ∧
      (slice ∈ v.arrived → slice ∉ v.acked →
        exec (.invalidationAck id slice) s =
          .next { s with invals := s.invals.set id { v with acked := slice :: v.acked } }) ∧
      (640 ≤ v.acked.length → ∀ tid, v.issuer = .task tid → v.len ≠ 0 →
        Leads (exec (.invalidationDone id) s) fun s' => s'.invals = s.invals.erase id ∧
          ∀ i u, s.task? i = some u → u.ident.tid = tid → u.flow.wait = .xinv id →
            s'.task? i = some { u with
              flow := { u.flow with wait := if u.flow.frozen then .xinv id else .run, woken := .yes } })) ∧
    (slice < 640 → asid < 65536 → va < 2 ^ 56 → nearSlice (clusterDie slice) va = slice →
      s.cached slice asid va = none →
      (∀ lf, s.translate slice asid va = .ok lf →
        Leads (exec (.translationWalk slice asid va) s) fun s' =>
          (asid, lf) ∈ (s'.cluster slice).cache ∧ (s'.cluster slice).descs.get? asid = some (s.descAt slice asid) ∧
          (∀ n, n ≠ slice → s'.cluster n = s.cluster n) ∧ { s' with clusters := s.clusters } = s) ∧
      (s.translate slice asid va = .error (.poisoned (s.descPa asid) 0) →
        Leads (exec (.translationWalk slice asid va) s) fun s' =>
          (s'.cluster slice).cache = (s.cluster slice).cache ∧ { s' with clusters := s.clusters } = s) ∧
      (∀ l, s.translate slice asid va = .error (.stalled l) → exec (.translationWalk slice asid va) s = .next s)) ∧
    ((∃ e ∈ s.queues, line ∈ e.2.pinned) → exec (.lineRecall line) s = .next s) ∧
    (∀ h, s.directory.get? line = some h → s.wsImage = none → (∀ e ∈ s.queues, line ∉ e.2.pinned) →
      Leads (exec (.lineRecall line) s) fun s' => s'.directory = s.directory.erase line ∧
        (s'.cluster h.slice).lastWrites.get? line = none ∧
        { s' with directory := s.directory, clusters := s.clusters } = s) ∧
    (let phase := s.stime % 32000
     let bank := if phase % 2000 < 500 ∧ phase < 16000 then some (phase / 2000) else none
     exec .weightStoreRefresh s = .next { s with
       refreshBank := bank, stalls := if bank = s.refreshBank then s.stalls else [] })

/-! ### Events of cores and contexts -/

/-- R47, R48, R50, R52, R55, R58, R152, R186, R301, R332, R338, R393, R433: what happens to a context beside its own instructions: a load
or a store in flight completes once its latency is over, a vector or tile load only while no other context has the array or has reserved it;
the aging cycle grants the longest ready context; a yield ends; the head of the grid's
queue takes the free grid; a failed instruction or a waiting cause enters its upcall with WDONE, in M mode once the context
has the grid; a soft fault without a handler leaves a record; a completion is delivered at a boundary. Nothing happens to a context of a retired core. That an
event which cannot happen leaves the machine as it is belongs to the model (log 2), as does what becomes of a parked request
whose cause is not taken (log 15) and which of several contexts ready equally long is granted (log 51). -/
def Obligations.ContextEvents : Prop :=
  (∀ (s : State) (core ctx seq : Nat), (s.core core).health.retired = true →
    ∀ i ∈ [Instr.longLatencyCompletion core ctx seq, .yieldExpiry core ctx, .gridAcquire core ctx, .upcallEntry core ctx,
      .copyCompletionDelivery core ctx, .quantumEnd core ctx, .contextSave core ctx], exec i s = .next s) ∧
  ∀ (s : State) (core ctx seq : Nat) (t : Task), s.Inv → core < 5120 → ctx < 16 → s.task? (16 * core + ctx) = some t →
    (s.core core).health.retired = false →
    let i := 16 * core + ctx
    let c := s.core core
    let others := fun (s' : State) => ∀ j, j ≠ i → s'.task? j = s.task? j
    let granted := t.window = 0 ∨ c.grid = some ctx
    let boundary := t.held c = false ∧ t.rank.block = none ∧ t.flow.woken = .no ∧ t.flow.busy = false ∧ t.flow.inUpcall = false ∧
      t.flow.inXfer = false ∧ t.flow.halting = false ∧ t.flow.skip.headD false = false
    let calm := t.flow.inflight = [] ∧ t.flow.trap = none
    (∀ o p, t.flow.inflight = [o] → o.seq = seq → o.done = false → o.failed = none → o.ready ≤ c.cycle → s.asking t seq = false →
      let w := taskWho i t
      let after := fun (s' : State) (u : Task) => (∃ v, s'.task? i = some v ∧ v.agrees u ∧
        v.flow = { t.flow with inflight := if t.flow.seq ≤ o.last then [{ o with done := true }] else [] }) ∧ others s'
      (∀ d len signed acq ea, o.work = .load d len signed acq ea → viewAt w ea.toNat = none →
        s.locate w 0 ea.toNat len false false = .ok p →
        let m := BitVec.ofNat (8 * len) (s.readAt p ea.toNat len)
        Leads (exec (.longLatencyCompletion core ctx seq) s) fun s' =>
          after s' (t.setS d (if signed then m.signExtend 64 else m.zeroExtend 64)) ∧ s.sameBytes s') ∧
      (∀ len rel ea data, o.work = .store len rel ea data → viewAt w ea.toNat = none →
        s.locate w 1 ea.toNat len true false = .ok p →
        Leads (exec (.longLatencyCompletion core ctx seq) s) fun s' =>
          after s' t ∧ s.stored s' p len (data.toNat % 2 ^ (8 * len)))) ∧
    (∀ o, t.flow.inflight = [o] → c.cycle < o.ready → exec (.longLatencyCompletion core ctx seq) s = .next s) ∧
    (∀ o, t.flow.inflight = [o] → o.work.writeBack ≠ 0 → c.halted = false →
      c.cycle < c.arrayUntil ∨ (∃ n, c.reserved = some n ∧ n ≠ ctx) → exec (.longLatencyCompletion core ctx seq) s = .next s) ∧
    (let ready := fun (e : Nat × Task) (n : Nat) => e ∈ s.ctxs ∧ ctxCore e.1 = core ∧ e.2.rank.ready = some n
     c.cycle % 32 = 0 → (∃ e n, ready e n) → Leads (exec (.agingCycle core) s) fun s' => ∃ e n, ready e n ∧
       (∀ f m, ready f m → n ≤ m) ∧ (s'.core core).grant = some (ctxNum e.1) ∧
       (s'.core core).reserved =
         (if s.wantsArray e.1 e.2 = true ∧ c.cycle < c.arrayUntil then some (ctxNum e.1) else c.reserved) ∧
       (∀ k, k ≠ core → s'.core k = s.core k) ∧ { s' with cores := s.cores } = s) ∧
    (t.rank.yieldUntil ≠ 0 → t.rank.yieldUntil ≤ c.cycle →
      exec (.yieldExpiry core ctx) s = .next (s.setTask i { t with rank := { t.rank with yieldUntil := 0 } })) ∧
    (c.gridQueue.head? = some ctx → c.grid = none → s.drained i t = true → c.dip = false →
      exec (.gridAcquire core ctx) s =
        .next ((s.setCore core { c with grid := some ctx, gridQueue := c.gridQueue.drop 1 }).setTask i
          { t with flow := { t.flow with wait := if t.flow.wait = .grid then .run else t.flow.wait } })) ∧
    (c.halted = false → t.flow.saving = false → ¬ granted → exec (.upcallEntry core ctx) s = .next s) ∧
    (c.halted = false → t.flow.saving = false → granted → t.flow.trap = none → ∀ o x, t.flow.inflight = [o] → o.failed = some x → ∃ wdone,
      exec (.upcallEntry core ctx) s = .next (s.enterUpcall i t x wdone) ∧
      ∀ j, wdone.testBit j = decide (j < 15 ∧ o.seq + j + 1 ≤ o.last ∧
        (o.seq + j + 1 < t.flow.seq ∨ t.flow.skip.getD (o.seq + j + 1 - t.flow.seq) false = true))) ∧
    (c.halted = false → t.flow.saving = false → granted → ∀ x, t.flow.inflight = [] → t.flow.trap = some x →
      exec (.upcallEntry core ctx) s = .next (s.enterUpcall i t x 0)) ∧
    (c.halted = false → granted → calm → boundary → t.ctl.upcVec = 0 → ∀ x xs, t.flow.soft = x :: xs →
      ∃ wdone, (∀ j, wdone.testBit j = decide (j < 15 ∧ t.flow.skip.getD (j + 1) false = true)) ∧
        exec (.upcallEntry core ctx) s =
          .next ((s.setTask i { t with flow := { t.flow with soft := xs } }).postRecord t.ident.queue
            { tid := t.ident.tid, path := t.ident.path, pc := 0, cause := x.word wdone, addr := x.addr, asid := t.ident.asid,
              kind := 2 })) ∧
    (boundary → t.flow.soft = [] → ∀ d ds, (s.cluster (coreCluster core)).engine.done = d :: ds → d.tid = t.ident.tid →
      Leads (exec (.copyCompletionDelivery core ctx) s) fun s' => others s' ∧ s.sameBytes s' ∧
        (s'.cluster (coreCluster core)).engine.done = ds ∧
        s'.task? i = some { t with
          ctl := { t.ctl with
            xferId := BitVec.ofNat 64 d.tag, xferVec := d.handler &&& 0x00FFFFFFFFFFFFFC,
            xferPc := t.regs.pc &&& 0x00FFFFFFFFFFFFFC }
          regs := { t.regs with pc := d.handler &&& 0x00FFFFFFFFFFFFFC }
          flow := { t.flow with
            inXfer := true, held := some (t.flow.resumed, t.flow.skip), resumed := false, skip := [] } })

/-- R39, R211, R245 to R247, R309, R389 to R395: the task a core chooses takes the lowest free context and, where it needs one, the
lowest free bank, or the context and the bank that a save has freed for it, which no other takes; a context freed in this cycle is
not offered. It
starts with the registers of R39 and a fresh id, and its first instruction issues four cycles later at the earliest. At the
end of a quantum a task stops for its save where another, for which no other save is made, takes its place; a save moves the whole context and its bank into a
record and frees them; a restore puts the record back. That a task of no launch ranks after every launch is the model's
choice (log 18), and so are which of equals starts and whose place is kept (log 74). A save comes before every access after it (R309). -/
def Obligations.TaskScheduling : Prop :=
  ∀ (s : State) (core ctx : Nat), core < 5120 → ctx < 16 → (s.core core).health.retired = false →
    let i := 16 * core + ctx
    let c := s.core core
    let others := fun (s' : State) => ∀ j, j ≠ i → s'.task? j = s.task? j
    let offered := fun (n : Nat) => s.task? (16 * core + n) = none ∧ c.freed.get? n ≠ some c.cycle
    let freeBanks := fun (b : Nat) => b < 4 ∧ ∀ e ∈ s.ctxs, ctxCore e.1 = core → e.2.bank ≠ some b
    let meant := fun (x : Seat) (w : Waiting) => match w with
      | .msg _ m => x.saved = false ∧ x.id = m.id
      | .saved k _ => x.saved = true ∧ x.id = k
    let opens := fun (x : Seat) => (∀ u, s.task? (16 * core + x.ctx) = some u → u.flow.saving = true) ∧
      ∀ e ∈ s.ctxs, ctxCore e.1 = core → e.2.bank ≠ none → e.2.bank = x.bank → e.2.flow.saving = true
    (∀ w, c.due = [] → offered ctx → (∀ n < ctx, ¬ offered n) →
      (w.bank = false → s.placeFor core w = some (ctx, none)) ∧
      (w.bank = true → (∀ b, freeBanks b → (∀ m < b, ¬ freeBanks m) → s.placeFor core w = some (ctx, some b)) ∧
        ((∀ b, ¬ freeBanks b) → s.placeFor core w = none))) ∧
    (∀ w x pre post, c.due = pre ++ x :: post → (∀ y ∈ pre, ¬ meant y w) → meant x w → x.ctx = ctx → offered ctx →
      (w.bank = true → ∃ b, x.bank = some b ∧ freeBanks b) →
      s.placeFor core w = some (ctx, if w.bank then x.bank else none)) ∧
    (∀ w v y b, y ∈ c.due →
      v ∈ placed c.mailbox ++ s.savedHere core ∨ (v ∈ placed c.spill ∧ s.allSuspended core = false) → meant y v → (∀ x ∈ c.due, ¬ meant x w) →
      s.placeFor core w ≠ some (y.ctx, b)) ∧
    (∀ n m b, s.choice core = some (.msg n m) → s.placeFor core (.msg n m) = some (ctx, b) → m.views = [] →
      Leads (exec (.taskStart core) s) fun s' => ∃ v, s'.task? i = some v ∧ others s' ∧
        v.regs.pc = m.hdr &&& 0x00FFFFFFFFFFFFFC ∧ v.regs.p = 0 ∧
        (∀ r : SReg, v.getS r =
          if r.val = 1 then m.args[0] else if r.val = 2 then m.args[1] else if r.val = 3 then m.args[2]
          else if r.val = 4 then m.args[3] else if r.val = 5 then m.s5 else 0) ∧
        v.ctl = Ctl.reset ∧ v.window = 0 ∧ v.views = [] ∧ v.token = none ∧ v.flow = Flow.reset ∧
        v.purse = { hoist := m.hoist, weight := m.weight, outer := none, quiet := false, spawnIx := 0 } ∧
        v.ident = { m.ident with
          tid := BitVec.ofNat 64 ((c.seqs.getD ctx 0 + 1) % 2 ^ 31 * 2 ^ 17 + ctx * 2 ^ 13 + core) } ∧
        v.bank = b ∧ (∀ n, b = some n → s'.bankOf core n = Bank.reset) ∧ (s'.core core).started = some c.cycle ∧
        (∃ a ∈ (s'.core core).results, a.ctx = ctx ∧ a.reg = none ∧ c.cycle + 4 ≤ a.until_) ∧
        (c.spill = [] → (s'.core core).mailbox = c.mailbox.take n ++ c.mailbox.drop (n + 1)) ∧ s.sameBytes s') ∧
    (∀ t, s.task? i = some t → c.dip = false → t.flow.saving = false → s.control.gang = false →
      t.rank.quantum + s.control.quantumLen * 1000 ≤ s.stime →
      let u := { t with rank := { t.rank with quantum := s.stime } }
      let preempts := fun (w : Waiting) => w ∈ s.waiters core ∧ (w.bank = true → t.bank ≠ none) ∧
        (s.starved w = true ∨ s.outranks w.launch t.ident.launch = true) ∧ ∀ x ∈ c.due, ¬ (meant x w ∧ opens x)
      let yields := t.flow.halting = false ∧ t.flow.suspended = false ∧ ∃ w, preempts w
      (yields → ∃ w x, preempts w ∧ meant x w ∧ x.ctx = ctx ∧ x.bank = (if w.bank then t.bank else none) ∧
        exec (.quantumEnd core ctx) s = .next ((s.setCore core { c with due := c.due ++ [x] }).setTask i
          { u with flow := { u.flow with saving := true } })) ∧
      (¬ yields → exec (.quantumEnd core ctx) s = .next (s.setTask i u))) ∧
    (∀ t, s.task? i = some t → t.flow.saving = true → c.halted = false → t.flow.inflight = [] → (∀ m, t.flow.wait ≠ .accept m) →
      (∀ e ∈ c.results, e.ctx = ctx → e.until_ ≤ c.cycle) → s.asking t t.flow.seq = false → t.flow.suspended = false →
      Leads (exec (.contextSave core ctx) s) fun s' => s'.task? i = none ∧ others s' ∧ s.sameBytes s' ∧
        (s'.core core).grid ≠ some ctx ∧ (s'.core core).due = c.due ∧ ∃ k, s.saved.get? k = none ∧ s'.saved.get? k = some
          { core := core, bank := t.bank.map (s.bankOf core), task := { t with flow := { t.flow with saving := false, fenced := true } },
            savedAt := s.stime }) ∧
    (∀ k r b, s.saved.get? k = some r → s.choice core = some (.saved k r) → s.placeFor core (.saved k r) = some (ctx, b) →
      Leads (exec (.taskRestore core k) s) fun s' => s'.saved.get? k = none ∧ others s' ∧ s.sameBytes s' ∧
        ∃ v, s'.task? i = some v ∧ v.regs = r.task.regs ∧ v.ctl = r.task.ctl ∧ v.ident = r.task.ident ∧
          v.purse = r.task.purse ∧ v.window = r.task.window ∧ v.views = r.task.views ∧ v.token = r.task.token ∧
          v.rank.quantum = s.stime ∧ v.bank = b ∧ ∀ x n, r.bank = some x → b = some n → s'.bankOf core n = x)

/-- R140, R218, R220, R223, R225, R228, R249 to R251, R261, R262, R336: messages and weight on their way. A message enters the mailbox, the
spill ring or waits at the stop, and its sender goes on; one of the same context to the same core that left earlier enters first; a borrow
is granted by an open record within its bound, and ends where a UALink has held it for 2 ms (R405); a return reaches its record and closes
it at zero; a message to no queue leaves its record before its unit returns; a kill is acknowledged; a notice leaves. The page a hoist
record's step uses is the model's choice (log 29), as are what a UALink holds of a borrow (log 31), how a write of the device waits (log
70), and the ignored bits of a queue descriptor in a record (log 105); which halting task is past a kill is its reading (log 75). -/
def Obligations.MessagesAndWeight : Prop :=
  ∀ (s : State) (id k : Nat),
    let c := s.core k
    (∀ m, s.fabric.get? id = some m → m.dst = .core k → m.sender ≠ none →
      (∃ x ∈ (s.fabric.map fun e => e.2) ++ s.stops, x.id < m.id ∧ x.sender = m.sender ∧ x.dst = m.dst) →
      exec (.messageArrival id) s = .next s) ∧
    (∀ m, s.fabric.get? id = some m → m.dst = .core k →
      (m.sender = none ∨ ∀ x ∈ (s.fabric.map fun e => e.2) ++ s.stops, x.sender = m.sender → x.dst = m.dst → m.id ≤ x.id) →
      let s1 := { s with fabric := s.fabric.erase id }
      let here := { m with arrived := s.stime }
      (c.mailbox.length < 64 → c.spill = [] →
        exec (.messageArrival id) s =
          .next ((s1.setCore k { c with mailbox := c.mailbox ++ [here] }).accepted m)) ∧
      (64 ≤ c.mailbox.length ∨ c.spill ≠ [] → c.spill.length < 512 →
        exec (.messageArrival id) s =
          .next ((s1.setCore k (({ c with spill := c.spill ++ [here] } : Core).count 0 16 1)).accepted m)) ∧
      (64 ≤ c.mailbox.length ∨ c.spill ≠ [] → 512 ≤ c.spill.length →
        exec (.messageArrival id) s = .next { s1 with stops := s.stops ++ [m] })) ∧
    (∀ m ms, s.stops = m :: ms → m.id = id → m.dst = .core k → c.mailbox.length < 64 → c.spill = [] →
      exec (.fabricStopAccept id) s =
        .next (({ s with stops := s.stops.filter fun x => x.id != id }.setCore k
          { c with mailbox := c.mailbox ++ [{ m with arrived := s.stime }] }).accepted m)) ∧
    (∀ m, s.fabric.get? id = some m → ∀ q, m.dst = .queue q → q < 65534 →
      let desc := s.localPa (s.cfg.qtab + 64 * q)
      let mwr := s.mem.readNat (desc + 36) 4
      let slot := s.localPa (s.mem.readNat (desc + 24) 8 + 64 * (mwr % 2 ^ (s.mem.readNat (desc + 32) 1 % 32)))
      let entry := leBytes 8 m.hdr.toNat ++ (m.args.toList.map fun a => leBytes 8 a.toNat).flatten ++ List.replicate 24 0
      s.mem.readNat (desc + 9) 1 % 2 = 1 → (s.sound →
        Leads (exec (.queueMessageDelivery id) s) fun s' =>
          s'.mem = (s.mem.writeBytes slot entry).writeNat (desc + 36) 4 (mwr + 1) ∧ s'.fabric = s.fabric.erase id ∧
          (s'.queue q).events = (s.queue q).events + 1) ∧
        (s.poisonedAt desc = false → s.heldBack slot = true ∨ s.heldBack desc = true →
          exec (.queueMessageDelivery id) s = .next s)) ∧
    (∀ m, s.fabric.get? id = some m → ∀ q, m.dst = .queue q → 65534 ≤ q →
      let told := (({ s with fabric := s.fabric.erase id } : State).accepted m).postRecord m.ident.queue
        { tid := m.s5, path := m.senderPath, pc := 0, cause := 0, addr := BitVec.ofNat 64 (2 ^ 63 + q), asid := m.ident.asid,
          kind := 8 }
      let waits := ∃ bs, Owed.record m.ident.queue bs ∈ told.owed
      (¬ waits → exec (.queueMessageDelivery id) s =
        .next (told.sendReturn frontOrigin m.ident.asid m.hoist m.weight false)) ∧
      (waits → exec (.queueMessageDelivery id) s = .next { told with
        owed := told.owed ++ [.unit m.ident.queue frontOrigin m.ident.asid m.hoist m.weight] })) ∧
    (∀ b pa, s.borrows.get? id = some b → b.answer = none → s.recordPa b.src.die b.asid b.hoist = some pa →
      let n := s.noteRecord b.src b.asid b.hoist
      let answered := fun (s1 : State) (y : Bool) =>
        exec (.borrowStep id) s = .next { s1 with borrows := s1.borrows.set id { b with answer := some y } }
      let out := s.mem.readNat pa 8
      let minted := s.mem.readNat (pa + 8) 8
      let isOpen := s.mem.readNat (pa + 20) 1 % 2 = 1
      (isOpen → minted + 2 ^ 16 ≤ 2 ^ 63 →
        answered ((n.deviceWrite pa 8 (out + 2 ^ 16)).deviceWrite (pa + 8) 8 (minted + 2 ^ 16)) true) ∧
      (isOpen → 2 ^ 63 < minted + 2 ^ 16 → answered n false) ∧
      (¬ isOpen → answered (n.deviceWrite (pa + 20) 1 2) false) ∧
      { n with clusters := s.clusters, directory := s.directory, hits := s.hits } = s ∧ ∀ j, (s.cluster j).kept (n.cluster j)) ∧
    (∀ b, s.borrows.get? id = some b → b.answer = none → s.recordPa b.src.die b.asid b.hoist = none →
      let linked := s.recordLinked b.src.die b.asid b.hoist
      (linked = false → exec (.borrowStep id) s = .next s) ∧
      (linked = true → b.since = none → exec (.borrowStep id) s =
        .next { s with borrows := s.borrows.set id { b with since := some s.stime } }) ∧
      (linked = true → ∀ n, b.since = some n →
        (s.stime < n + 2000000 → exec (.borrowStep id) s = .next s) ∧
        (n + 2000000 ≤ s.stime → ∀ i u, s.ctxOf b.tid = some i → s.task? i = some u → u.ident.tid = b.tid →
          u.flow.wait = .borrow id →
          Leads (exec (.borrowStep id) s) fun s' => s'.borrows = s.borrows.erase id ∧ s'.task? i = some { u with
            flow := { u.flow with wait := if u.flow.frozen then .borrow id else .run, woken := .late } }))) ∧
    (∀ b y, s.borrows.get? id = some b → b.answer = some y → ∀ i u, s.ctxOf b.tid = some i → s.task? i = some u →
      u.ident.tid = b.tid → u.flow.wait = .borrow id →
      Leads (exec (.borrowGrantArrival id) s) fun s' => s'.borrows = s.borrows.erase id ∧
        s'.task? i = some { u with
          purse := { u.purse with weight := u.purse.weight + if y then 2 ^ 16 else 0 }
          flow := { u.flow with
            wait := if u.flow.frozen then .borrow id else .run, woken := if y then .yes else .refused } }) ∧
    (∀ r pa, s.returns.get? id = some r → s.recordPa r.src.die r.asid r.hoist = some pa → s.mapped →
      let field := fun (off n : Nat) => s.mem.readNat (pa + off) n
      let isOpen := field 20 1 % 2 = 1
      let bad := field 0 8 < r.amount ∨ ¬ isOpen
      let out := if bad then 0 else field 0 8 - r.amount
      let closes := isOpen ∧ out = 0 ∧ field 24 8 ≠ 0
      let status := (if isOpen ∧ ¬ closes then 1 else 0) + if field 20 1 / 2 % 2 = 1 ∨ bad then 2 else 0
      Leads (exec (.weightReturn id) s) fun s' => s'.returns = s.returns.erase id ∧
        s'.mem = s.mem.writeBytes pa (leBytes 8 out ++ leBytes 8 (field 8 8) ++
          leBytes 4 (if r.kill then min (field 16 4 + 1) (2 ^ 32 - 1) else field 16 4) ++ leBytes 4 status ++
          leBytes 8 (field 24 8)) ∧
        (¬ closes → s'.ctxs = s.ctxs) ∧
        (closes → ∀ i u, s.task? i = some u → u.ident.tid = BitVec.ofNat 64 (field 24 8) → u.flow.wait = .quiet →
          s'.task? i = some { u with
            purse := { u.purse with quiet := true }
            flow := { u.flow with wait := if u.flow.frozen then .quiet else .run, woken := .yes } })) ∧
    (∀ m, s.notes.get? id = some m →
      exec (.notificationTask id) s = .next { s with
        notes := s.notes.erase id, nextId := s.nextId + 1, fabric := s.fabric.set s.nextId { m with id := s.nextId } }) ∧
    (∀ r, s.kills.get? id = some r →
      (s.taskOf r.target = none → r.killer = none →
        exec (.killAcknowledgement id) s = .next { s with kills := s.kills.erase id }) ∧
      (∀ i u, s.ctxOf r.target = some i → s.task? i = some u → s.unkillable u = false →
        (s.drained i u = true ∧ (∀ e ∈ (s.core (ctxCore i)).results, e.ctx = ctxNum i →
          e.until_ ≤ (s.core (ctxCore i)).cycle) ∧ s.asking u u.flow.seq = false ∧ (∀ m, u.flow.wait ≠ .accept m)) ∨
          (s.core (ctxCore i)).health.retired = true → u.views = [] →
        Leads (exec (.killAcknowledgement id) s) fun s' => s'.kills = s.kills.erase id ∧ s'.task? i = none)) ∧
    (∀ j m pc w, (s.cluster k).monitors.get? j = some m → m.upc = some (pc, w) → m.fired = true →
      exec (.monitorFire k j) s =
        .next ((s.setCluster k { s.cluster k with monitors := (s.cluster k).monitors.erase j }).depart
          { id := 0, dst := .core m.core, hdr := m.hdr, args := #v[m.va, m.tid, pc, w], s5 := m.tid, weight := 0,
            hoist := m.hoist, ident := { m.ident with tid := 0, path := 0x8000000000000000, parent := none },
            views := [], sender := none, senderPath := 0x8000000000000000, launchStart := false, arrived := 0 }))

/-! ### The copy engine and the merge queue -/

/-- R236, R237, R270, R275, R276, R278, R298, R300, R320, R338: the engine takes the head of the next FIFO; a contiguous
copy moves one line at a time from its source, whose page its slice holds, to its destination; a completed request returns its unit and leaves its
completion; a refused line parks its request, tells the task, and is tried again; a merge step combines two segments
or writes one line of the real tile, and one that meets a poisoned private line faults (R443). That a chunk is read and written in one step is the model's choice (log 40), and
so are what a tile out of R236's range moves (log 20) and whose turn it is after a step that takes nothing (log 80); that an active
request takes a place of the pending list is its reading (log 79). -/
def Obligations.EngineEvents : Prop :=
  ∀ (s : State) (cl req : Nat) (q : CopyReq), s.Inv → cl < 640 →
    let e := (s.cluster cl).engine
    let w := q.who cl
    let src := q.src + q.pos
    let dst := q.dst + q.pos
    let len := min (q.n0 - q.pos) (64 - dst % 64)
    let plain := q.pf = none ∧ q.kind = 0 ∧ q.done = 0 ∧ q.taken = true ∧ q.stuck = none ∧ q.pos < q.n0
    let inLine := src / 64 = (src + len - 1) / 64 ∧ dst < 2 ^ 63
    let has := fun (s' : State) (r : CopyReq) => (s'.cluster cl).engine.request req = some r
    (∀ c, s.nextSource cl e = some (c, q) → e.frozen = false → e.active.length < 4 → (∀ x ∈ e.active, x.id ≠ q.id) →
      Leads (exec (.engineTakeRequest cl) s) fun s' =>
        (s'.core (8 * cl + c)).fifo = (s.core (8 * cl + c)).fifo.drop 1 ∧ (s'.cluster cl).engine.last = c ∧
        (∃ r, (s'.cluster cl).engine.active = e.active ++ [r] ∧ r.id = q.id ∧ r.tid = q.tid ∧ r.src = q.src ∧
          r.dst = q.dst ∧ r.n1 = q.n1 ∧ r.n0 = q.n0 ∧ r.kind = q.kind ∧ r.done = q.done ∧ r.pos = q.pos) ∧
        s.sameBytes s') ∧
    (e.request req = some q → e.frozen = false → e.mergeTurn = false → s.quiet → plain → inLine → ∀ p p',
      s.locate w 4 src len false false = .ok p →
      inWindow src = true ∨ (s.cached (nearSlice w.die src) q.ident.asid src).isSome = true → s.locate w 5 dst len false (decide (len = 64)) = .ok p' →
      Leads (exec (.engineLineTransfer cl req) s) fun s' => s.stored s' p' len (s.readAt p src len) ∧
        (∃ own, has s' { q with pos := q.pos + len, own := own, since := none }) ∧ ∀ j, s'.task? j = s.task? j) ∧
    (e.request req = some q → q.taken = true → q.total ≤ q.pos →
      let d : Completion := { tid := q.tid, tag := q.tag, handler := q.block.handler }
      let tells := q.pf = none ∧ q.done = 1 ∧ s.taskOf q.tid ≠ none
      exec (.copyCompletion cl req) s =
        .next ((s.setCluster cl { s.cluster cl with
          engine := { e with
            active := e.active.filter fun y => y.id != req
            done := if tells then e.done ++ [d] else e.done } }).sendReturn (engineOrigin cl) q.ident.asid q.hoist 1 false)) ∧
    (e.request req = some q → e.frozen = false → plain → inLine → q.told = false → ∀ code addr slice i u,
      s.locate w 4 src len false false = .error (.refuse code addr slice none) → s.ctxOf q.tid = some i →
      s.task? i = some u → u.ident.tid = q.tid →
      let k : Stuck :=
        { slice := slice, monitor := none, retryAt := s.stime + 10000, code := code, acc := 4, addr := addr / 64 * 64 }
      Leads (exec (.engineFault cl req) s) fun s' => has s' { q with stuck := some k, told := true } ∧
        s'.task? i = some { u with
          flow := { u.flow with
            soft := u.flow.soft ++ [{ cause code (BitVec.ofNat 64 (addr / 64 * 64)) 0 with
              acc := 4, tag := q.tag, parked := true }] } } ∧ s.sameBytes s') ∧
    (e.request req = some q → e.frozen = false → ∀ k, q.stuck = some k → k.monitor = none → k.retryAt ≤ s.stime →
      ((∃ r, s.engineStep cl q = .ok r) →
        exec (.engineRetry cl req) s = .next (s.putReq cl { q with stuck := none })) ∧
      ((∃ z, s.engineStep cl q = .error z) →
        Leads (exec (.engineRetry cl req) s) fun s' => has s' { q with stuck := some { k with retryAt := s.stime + 10000 } } ∧
          s.sameBytes s' ∧ ∀ j, s'.task? j = s.task? j)) ∧
    (∀ slice n m, (s.cluster slice).engineMonitors.get? n = some m → m.fired = true →
      Leads (exec (.engineMonitorFire slice n) s) fun s' => (s'.cluster slice).engineMonitors.get? n = none ∧
        (m.waiter = .request cl req → e.request req = some q → has s' { q with stuck := none })) ∧
    (∀ n c, s.chains.get? n = some c → c.fault = none → e.frozen = false → e.mergeTurn = true →
      (∀ x xs, c.work = x :: xs → x.cluster = cl →
        Leads (exec (.mergeStep n) s) fun s' => s.sameBytes s' ∧
          s'.chains = s.chains.set n (match c.combine x with | some r => r.1 | none => { c with work := xs })) ∧
      (c.work = [] → c.joining = true → s.joinCluster c = some cl → c.op ≠ .addBs64 →
        ∀ g line x ls p, c.segs.find? (fun g => !g.lines.isEmpty) = some g → g.lines = (line, x) :: ls →
          let path := ((s.taskOf c.declarer).map fun t => t.ident.path).getD 0
          ((g.id, line) ∈ c.bad → Leads (exec (.mergeStep n) s) fun s' => s.sameBytes s' ∧
            s'.chains = s.chains.set n { c with
              fault := some { cause POISON (BitVec.ofNat 64 (64 * line)) 0 with acc := 4 }, since := none }) ∧
          ((g.id, line) ∉ c.bad → s.locate (engineWho cl (8 * cl) c.asid path c.launch none) 5 (64 * line) 64 false false = .ok p →
          Leads (exec (.mergeStep n) s) fun s' =>
            s.stored s' p 64 (combineRun c.op (64 / c.op.bytes) (s.readAt p (64 * line) 64) x.toNat % 2 ^ 512) ∧
            s'.chains = s.chains.set n
              { c.mapSeg g.id (fun _ => { g with lines := g.lines.erase line }) with since := none }))) ∧
    (∀ (a b : Nat), combineElem .addI32 a b = (a + b) % 2 ^ 32 ∧ combineElem .addI64 a b = (a + b) % 2 ^ 64 ∧
      combineElem .addBs32 a b = (a + b) % 2 ^ 128 ∧ combineElem .addBs64 a b = (a + b) % 2 ^ 192 ∧
      combineElem .minnN32 a b = min a b ∧ combineElem .maxnN64 a b = max a b ∧
      combineElem .and a b = a &&& b ∧ combineElem .or a b = a ||| b ∧ combineElem .xor a b = a ^^^ b)

/-! ### Queues and launches -/

/-- R366 to R368, R370, R377: a doorbell maps a queue with work to the lowest free slot, an idle slot is given up, the next
entry is fetched and RD moves on, a malformed entry leaves a KIND 9 record, a parked command is tried again, a parked
queue goes on when a write has met its signal's condition, EN cleared abandons a parked command, and the events of a queue
become one interrupt. -/
def Obligations.QueueFetch : Prop :=
  ∀ (s : State) (q : Nat), s.Inv → s.sound → q < 65534 → s.control.bootStage = 7 →
    let x := s.queue q
    let desc := s.localPa (s.cfg.qtab + 64 * q)
    let field := fun (off n : Nat) => s.mem.readNat (desc + off) n
    let en := field 9 1 % 2 = 1
    let rd := field 16 4
    let wr := field 20 4
    let rung := s.setQueue q { x with doorbell := s.stime }
    let at_ := s.localPa (field 0 8 + 64 * (rd % 2 ^ (field 8 1 % 32)))
    let word := fun (n : Nat) => BitVec.ofNat 64 (s.mem.readNat (at_ + 8 * n) 8)
    let entry := (List.range 8).map word
    let fetched := s.deviceWrite (desc + 16) 4 (rd + 1)
    let used := fun (n : Nat) => ∃ e ∈ s.queues, e.2.slot = some n
    (en → rd ≠ wr → x.slot = none → x.parked = [] → ∀ n < 256, ¬ used n → (∀ m < n, used m) →
      Leads (exec (.queueDoorbell q) s) fun s' =>
        s'.queue q = { x with doorbell := s.stime, slot := some n, waiting := none } ∧
        s'.mem = s.mem.writeNat (desc + 56) 8 (1 + 256 * n)) ∧
    (¬ en ∨ rd = wr ∨ x.slot ≠ none ∨ x.parked ≠ [] → exec (.queueDoorbell q) s = .next rung) ∧
    (x.slot ≠ none → rd = wr → x.stuck = none → x.parked = [] → x.doorbell + 64000 ≤ s.stime →
      (∀ e ∈ s.queues, e.2.waiting = none) →
      Leads (exec (.slotIdleTimeout q) s) fun s' => s'.queue q = { x with slot := none } ∧
        s'.mem = s.mem.writeNat (desc + 56) 8 0) ∧
    (x.slot ≠ none → x.parked = [] → x.command = none → en → rd ≠ wr →
      (cmdOk entry = true → exec (.commandFetch q) s = .next (fetched.setQueue q { x with command := some entry })) ∧
      (cmdOk entry = false →
        exec (.commandFetch q) s = .next (fetched.postRecord q
          { tid := 0, path := 0, pc := 0, cause := BitVec.ofNat 64 ((word 0).toNat % 256), addr := word 1,
            asid := fetched.mem.readNat (desc + 10) 2, kind := 9 }))) ∧
    (∀ c, (c.getD 0 0).toNat % 256 = 11 ∨ (c.getD 0 0).toNat / 256 ≠ 0 → cmdOk c = false) ∧
    (∀ c, x.command = some c → (c.getD 0 0).toNat % 256 = 0 →
      exec (.cmdNop q) s = .next (s.setQueue q { x with command := none, stuck := none, since := none })) ∧
    (∀ va cc y, .signal va cc y ∈ x.parked → x.slot = none → x.waiting = none →
      let met := ∃ e ∈ s.clusters, ∃ w, e.2.signals.get? (2 * q) = some w ∧ w.met = true
      let left := x.parked.filter fun p => match p with | .signal .. => false | .counter .. => true
      let goes := fun (y : Queue) => Leads (exec (.waitSatisfied q) s) fun s' => s'.queue q = y ∧
        ∀ k, (s'.cluster k).signals.get? (2 * q) = none
      (met → left ≠ [] → goes { x with parked := left }) ∧
      (met → left = [] → en → rd ≠ wr → ∀ n < 256, ¬ used n → (∀ m < n, used m) →
        goes { x with parked := [], slot := some n }) ∧
      (met → left = [] → ¬ en ∨ rd = wr → goes { x with parked := [] }) ∧
      (¬ met → exec (.waitSatisfied q) s = .next s)) ∧
    (∀ c k, x.command = some c → x.stuck = some k → k.monitor = none → ¬ en →
      exec (.commandAccessRetry q) s = .next ((s.postRecord q
        { tid := 0, path := 0, pc := 0,
          cause := ({ cause k.code (BitVec.ofNat 64 k.addr) 0 with acc := k.acc } : Trap).word 0,
          addr := BitVec.ofNat 64 k.addr, asid := field 10 2, kind := 3 }).dispatched q)) ∧
    (∀ c k p, x.command = some c → (c.getD 0 0).toNat % 256 = 3 → x.stuck = some k → k.monitor = none →
      k.retryAt ≤ s.stime → s.queueAsid q ≠ 0 → en →
      s.locate (frontWho (s.queueAsid q)) 5 (c.getD 1 0).toNat 8 false false = .ok p →
      let sum := (BitVec.ofNat 64 (s.readAt p (c.getD 1 0).toNat 8)).toInt + (c.getD 2 0).toInt
      sum < 2 ^ 63 → -(2 ^ 63) ≤ sum →
      Leads (exec (.commandAccessRetry q) s) fun s' => s'.queue q = { x with command := none, stuck := none, since := none } ∧
        s.stored s' p 8 (BitVec.ofInt 64 sum).toNat) ∧
    (∀ a, a = s.deviceWrite (desc + 9) 1 (field 9 1 / 2 * 2) →
      (x.stuck = none → exec (.queueEnCleared q) s = .next a) ∧
      (∀ k, x.stuck = some k → k.monitor = none → exec (.queueEnCleared q) s =
        .next ((a.postRecord q
          { tid := 0, path := 0, pc := 0,
            cause := ({ cause k.code (BitVec.ofNat 64 k.addr) 0 with acc := k.acc } : Trap).word 0,
            addr := BitVec.ofNat 64 k.addr, asid := a.mem.readNat (desc + 10) 2, kind := 3 }).dispatched q))) ∧
    (x.events ≠ 0 → x.oldest + min (field 34 1 % 128) 64 * 1000 ≤ s.stime →
      exec (.msixInterrupt q) s =
        .next ({ s with msix := s.msix ++ [(if field 9 1 / 2 % 2 = 1 then Port.b else .a, field 12 4)] }.setQueue q
          { x with events := 0 }))

/-- R218, R233, R263, R293, R339, R368, R370, R373, R376: the commands that are no launch. WAIT goes on or parks its queue, SIGNAL and DEC
act on their word, MSG mints and sends, WSLOAD copies an image, XINV starts an invalidation, RESUME lets a suspended context go on, KILL
asks for its target's end, and UNPIN empties the pin set. Where the front end of a MSG stands is the model's choice (log 21), and so is its
die at a record (log 29), that RESUME keeps the skips of WDONE and inUpcall (log 43), which L2 lines the banks of an image drop (log 82),
which failure of an image is reported and how its banks fill (log 81), that a command waits while its queue's descriptor cannot be read (log
57), what a UALink holds of a command (log 31), and that a MSG whose w7 is no multiple of 64, or that no page maps, is minted where it
points, or refused (log 92); which halting task a KILL does not end is its reading (log 75). -/
def Obligations.QueueCommands : Prop :=
  ∀ (s : State) (q op : Nat) (c : List Word) (p : Place), s.Inv → (s.queue q).command = some c → (c.getD 0 0).toNat % 256 = op →
    let desc := s.localPa (s.cfg.qtab + 64 * q)
    (s.poisonedAt desc = true →
      ∀ i ∈ [Instr.cmdNop q, .cmdWait q, .cmdSignal q, .cmdDec q, .cmdMsg q, .cmdXinv q, .cmdResume q, .cmdKill q, .cmdUnpin q,
        .cmdWsload q, .wsloadComplete q, .cmdLaunch q], exec i s = .next s) ∧
    (s.poisonedAt desc = false →
    let x := s.queue q
    let asid := s.queueAsid q
    let a := c.getD 1 0
    let b := c.getD 2 0
    let done : Queue := { x with command := none, stuck := none, since := none }
    let front := frontWho asid
    let old := s.readAt p a.toNat 8
    let cc := match b.toNat with | 0 => Cc.eq | 1 => .ne | 2 => .lt | 3 => .ge | 4 => .le | _ => .gt
    let wrote := fun (s' : State) (y : Nat) => s'.queue q = done ∧ s.stored s' p 8 y
    let parks := fun (i : Instr) => Leads (exec i s) fun s' => (s'.queue q).command = some c ∧
      ∃ k, (s'.queue q).stuck = some k ∧ k.code = XLATE ∧ k.addr = a.toNat ∧ k.retryAt = s.stime + retryNs
    (asid = 0 → x.stuck = none →
      (op = 2 → parks (.cmdWait q)) ∧ (op = 3 → parks (.cmdSignal q)) ∧ (op = 10 → parks (.cmdDec q))) ∧
    (op = 2 → asid ≠ 0 → x.stuck = none → s.locate front 4 a.toNat 8 false false = .ok p →
      (cc.holds (BitVec.ofNat 64 old) (c.getD 3 0) = true →
        Leads (exec (.cmdWait q) s) fun s' => s'.queue q = done ∧ s.sameBytes s') ∧
      (cc.holds (BitVec.ofNat 64 old) (c.getD 3 0) = false → (∀ e ∈ s.queues, e.2.waiting = none) →
        Leads (exec (.cmdWait q) s) fun s' =>
          s'.queue q = { done with parked := x.parked ++ [.signal a.toNat cc (c.getD 3 0)], slot := none } ∧
          (s.quiet → (s.cached (nearSlice front.die a.toNat) asid a.toNat).isSome = true → ∀ pa home, p = .mem pa home →
            ∃ w, (s'.cluster home).signals.get? (2 * q) = some w ∧ w.pa = pa ∧ w.cc = cc ∧ w.comparand = c.getD 3 0))) ∧
    (op = 3 → asid ≠ 0 → x.stuck = none → s.locate front 5 a.toNat 8 false false = .ok p →
      let sum := (BitVec.ofNat 64 old).toInt + b.toInt
      sum < 2 ^ 63 → -(2 ^ 63) ≤ sum →
      Leads (exec (.cmdSignal q) s) fun s' => wrote s' (BitVec.ofInt 64 sum).toNat) ∧
    (op = 10 → asid ≠ 0 → x.stuck = none → s.locate front 5 a.toNat 8 false false = .ok p → old ≠ 0 →
      Leads (exec (.cmdDec q) s) fun s' => wrote s' (old - 1)) ∧
    (op = 4 → x.stuck ≠ none → exec (.cmdMsg q) s = .next s) ∧
    (op = 4 → x.stuck = none → s.msgCore a ≠ none →
      let h := c.getD 7 0
      let refused := fun (m : State) => exec (.cmdMsg q) s = .next ((m.postRecord q
        { tid := 0, path := 0, pc := 0, cause := 13, addr := h, asid := asid, kind := 7 }).dispatched q)
      (asid ≠ 0 → s.recordBusy 0 asid h = false → s.recordPa 0 asid h = none →
        refused (s.noteTranslation (nearSlice 0 h.toNat) asid h.toNat)) ∧
      (asid = 0 → s.recordBusy 0 asid h = false → refused s) ∧
      (s.recordBusy 0 asid h = true → s.recordLinked 0 asid h = false → exec (.cmdMsg q) s = .next s) ∧
      (s.recordBusy 0 asid h = true → s.recordLinked 0 asid h = true →
        (x.since = none → exec (.cmdMsg q) s = .next (s.setQueue q { x with since := some s.stime })) ∧
        ∀ n, x.since = some n →
          (s.stime < n + 2000000 → exec (.cmdMsg q) s = .next s) ∧
          (n + 2000000 ≤ s.stime → Leads (exec (.cmdMsg q) s) fun s' => (s'.queue q).command = some c ∧
            ∃ k, (s'.queue q).stuck = some k ∧ k.code = POISON ∧ k.retryAt = s.stime + retryNs))) ∧
    (op = 4 → x.stuck = none → ∀ core pa, s.msgCore a = some core → s.recordPa 0 asid (c.getD 7 0) = some pa →
      let out := s.mem.readNat pa 8
      let minted := s.mem.readNat (pa + 8) 8
      let isOpen := s.mem.readNat (pa + 20) 1 % 2 = 1
      (s.sound → asid ≠ 0 → isOpen → minted + 2 ^ 16 ≤ 2 ^ 63 →
        Leads (exec (.cmdMsg q) s) fun s' => s'.queue q = done ∧
          s'.mem = (s.mem.writeNat pa 8 (out + 2 ^ 16)).writeNat (pa + 8) 8 (minted + 2 ^ 16) ∧
          s'.nextId = s.nextId + 1 ∧ s'.fabric = s.fabric.set s.nextId
            { id := s.nextId, dst := .core core, hdr := b, args := #v[c.getD 3 0, c.getD 4 0, c.getD 5 0, c.getD 6 0],
              s5 := BitVec.ofNat 64 (2 ^ 63 + q), weight := 2 ^ 16, hoist := c.getD 7 0,
              ident := { tid := 0, path := 0x8000000000000000, asid := asid, queue := q, launch := none, coreSet := .all,
                         parent := none },
              views := [], sender := none, senderPath := 0x8000000000000000, launchStart := false, arrived := 0 }) ∧
      (asid ≠ 0 → ¬ isOpen ∨ 2 ^ 63 < minted + 2 ^ 16 →
        exec (.cmdMsg q) s =
          .next (((s.noteRecord frontOrigin asid (c.getD 7 0)).postRecord q
            { tid := 0, path := 0, pc := 0, cause := 13, addr := c.getD 7 0, asid := asid, kind := 7 }).dispatched q))) ∧
    (op = 6 → (∀ v ∈ s.invals, v.2.issuer ≠ .command q) →
      exec (.cmdXinv q) s = .next { s with
        nextId := s.nextId + 1
        invals := s.invals.set s.nextId
          { issuer := .command q, asid := b.toNat / 2 ^ 48, start := a.toNat, len := b.toNat % 2 ^ 48, arrived := [],
            acked := [] } }) ∧
    (op = 7 → Leads (exec (.cmdResume q) s) fun s' => s'.queue q = done ∧ ∀ i t, s.task? i = some t → t.ident.tid = b →
      t.flow.suspended = true → ∃ v, s'.task? i = some v ∧
        v.agrees { t with regs := { t.regs with pc := t.ctl.upcPc &&& 0x00FFFFFFFFFFFFFC } } ∧
        v.flow.suspended = false ∧ v.flow.inUpcall = t.flow.inUpcall ∧
        ∀ j < 15, v.flow.skip.getD (j + 1) false = t.ctl.upcCause.getLsbD (16 + j)) ∧
    (op = 8 →
      (∀ t, s.taskOf b = some t → t.ident.queue = q → s.unkillable t = false →
        Leads (exec (.cmdKill q) s) fun s' => s'.queue q = done ∧ s'.nextId = s.nextId + 1 ∧
          s'.kills = s.kills.set s.nextId { target := b, killer := none, queue := some q }) ∧
      ((∀ t, s.taskOf b = some t → t.ident.queue ≠ q ∨ s.unkillable t = true) →
        exec (.cmdKill q) s = .next (s.setQueue q done))) ∧
    (op = 9 → exec (.cmdUnpin q) s = .next (s.setQueue q { x with pins := [], pinned := [], command := none })) ∧
    (op = 5 → s.weightUsers = false →
      let imaged := fun (n : Nat) => ∃ im, s.wsImage = some im ∧ (im.lines.get? n).isSome = true
      let empties := fun (s' : State) => s'.wsImage = none ∧ (∀ k, (s.cluster k).kept (s'.cluster k)) ∧
        (∀ n, imaged n → s'.directory.get? n = none) ∧ (∀ n, ¬ imaged n → s'.directory.get? n = s.directory.get? n) ∧
        { s' with wsImage := s.wsImage, directory := s.directory, clusters := s.clusters, queues := s.queues } = s
      let banks := (c.getD 3 0).toNat
      let taken := s.takeBanks asid banks
      let load := taken.imageLines front banks (overdue x.since s.stime) (linesOf a.toNat b.toNat) []
      (∀ e ∈ s.queues, ∀ n ∈ e.2.pinned, taken.directory.get? n = s.directory.get? n) ∧
      ((c.getD 3 0).toNat = 0 → Leads (exec (.cmdWsload q) s) fun s' => empties s' ∧ s'.queue q = done) ∧
      ((c.getD 3 0).toNat ≠ 0 → Leads (exec (.cmdWsload q) s) fun s' => empties s' ∧ s'.queues = s.queues) ∧
      ((c.getD 3 0).toNat ≠ 0 → s.wsImage = none →
        (∀ s1 ls, load = .whole s1 ls →
          Leads (exec (.wsloadComplete q) s) fun s' => s'.queue q = done ∧
            s'.wsImage = some { asid := asid, banks := banks, lines := ls } ∧ s.sameBytes s') ∧
        (∀ k va, load = .waits (.link (.ualink k) va) →
          exec (.wsloadComplete q) s = .next (if x.since.isSome then s else s.setQueue q { x with since := some s.stime })) ∧
        (∀ z, load = .waits z → (∀ k va, z ≠ .link (.ualink k) va) → exec (.wsloadComplete q) s = .next (s.heldAt z)) ∧
        (∀ s1 code va, load = .failed s1 code va → s.sameBytes s1 ∧
          exec (.wsloadComplete q) s =
            .next (({ s1 with wsImage := none }.postRecord q
              { tid := 0, path := 0, pc := 0, cause := BitVec.ofNat 64 code, addr := BitVec.ofNat 64 va, asid := asid,
                kind := 14 }).dispatched q)))))

/-- R263, R371 to R375, R380, R382, R384, R386, R444, R445: a launch command is rejected with the code its checks give, or waits for its
counter or for acceptance; acceptance snapshots its set; the shares add up to what they divide, each the floor or one more, and the ones
more go to the largest fractions, then the largest weights, then the lowest cores; each start report frees a place; completion keeps or
frees its partitions, adds to its signal and decrements its counter; a retained partition is reclaimed after 1 ms; an abort leaves no
message and no copy of the launch, and the second one clears its queue's EN; a notice aborts the launches of its gang. A counter that cannot
be read holds the launch, the model's choice (log 22); so are that a queue whose EN is clear dispatches no launch (log 57), and that an
abort takes as many events as it needs (log 47) and that a retain name is a launch's own (log 94); WAITER is cleared at completion, its
reading (log 28). -/
def Obligations.Launches : Prop :=
  ∀ (s : State) (q id : Nat), s.Inv →
    let asid := s.queueAsid q
    let x := s.queue q
    let rejected := fun (m : State) (va : Nat) (code pc : Nat) => (m.postRecord q
      { tid := 0, path := 0, pc := BitVec.ofNat 64 pc, cause := BitVec.ofNat 64 code, addr := BitVec.ofNat 64 va,
        asid := asid, kind := 6 }).dispatched q
    (s.queueEn q = false → exec (.cmdLaunch q) s = .next s) ∧
    (∀ c, x.command = some c → (c.getD 0 0).toNat % 256 = 1 → s.pendingLaunch q = false → s.queueEn q = true →
      let va := (c.getD 1 0).toNat
      (asid = 0 ∨ (s.poisonedAt (s.descPa asid) = false ∧ (s.readDesc asid).valid = false) →
        exec (.cmdLaunch q) s = .next (rejected s va 7 0)) ∧
      (∀ r, s.readRecord q va = .ok r →
        let malformed := (r.getD 1 0).toNat / 2 ^ 26 ≠ 0 ∨ (r.getD 0 0).toNat % 4 ≠ 0 ∨ 2 ^ 56 ≤ (r.getD 0 0).toNat ∨
          (r.getD 1 0).toNat / 2 ^ 3 % 4 = 3 ∨ (r.getD 14 0 ≠ 0 ∧ r.getD 15 0 = 0)
        let spad := (r.getD 1 0).toNat / 2 ^ 9 % 2 ^ 9
        let read := s.touchRecord q va r
        { read with clusters := s.clusters, directory := s.directory, hits := s.hits } = s ∧
        (∀ k, (s.cluster k).kept (read.cluster k)) ∧
        (malformed → exec (.cmdLaunch q) s = .next (rejected read va 1 0)) ∧
        (¬ malformed → spad % 16 ≠ 0 ∨ 304 < spad → exec (.cmdLaunch q) s = .next (rejected read va 2 0)) ∧
        (∀ code pc, s.checkRecord q r = .reject code pc → exec (.cmdLaunch q) s = .next (rejected read va code pc)) ∧
        (s.checkRecord q r = .ok → r.getD 10 0 = 0 →
          Leads (exec (.cmdLaunch q) s) fun s' => s'.nextId = s.nextId + 1 ∧ s.sameBytes s' ∧
            s'.launches = s.launches.set s.nextId
              { queue := q, asid := asid, va := va, record := r, phase := .accepting, set := [], snap := [],
                windows := [], members := [], starts := [], outstanding := [], armed := false, since := none, exports := [],
                overflow := false, attempt := 0, noticed := false, order := 0, waitingSince := s.stime, service := 0 }))) ∧
    (∀ l, s.launches = [(id, l)] → l.queue = q → l.phase = .waitingDep →
      (∃ e ∈ s.clusters, ∃ w, e.2.signals.get? (2 * id + 1) = some w ∧ w.met = true) ∨
        s.depZero l.asid (l.record.getD 10 0) = true →
      Leads (exec (.depRelease q) s) fun s' =>
        s'.launches = s.launches.set id { l with phase := .accepting, waitingSince := s.stime } ∧
        (∀ k, (s'.cluster k).signals.get? (2 * id + 1) = none) ∧
        (x.parked = [] → { s' with launches := s.launches, clusters := s.clusters } = s) ∧
        (∀ va, x.parked = [.counter va id] → (s'.queue q).parked = [])) ∧
    (∀ l set windows granted, s.launches.get? id = some l → l.phase = .accepting → s.weightBlocked l.record = false →
      s.queueEn l.queue = true → s.recordBusy 0 l.asid (l.record.getD 5 0) = false → s.launchSet (frontWho l.asid) l.record = some set → s.checkLate (frontWho l.asid) l.queue l.record = .ok →
      s.grantAll id ((l.record.getD 1 0).toNat / 2 ^ 9 % 2 ^ 9 / 16) (l.record.getD 6 0) l.asid set = some granted →
      s.copyWindows (frontWho l.asid) l.record = .ok windows →
      Leads (exec (.launchAcceptance id) s) fun s' => ∃ l', s'.launches.get? id = some l' ∧ l'.phase = .running ∧
        l'.set = set ∧ l'.windows = windows ∧ l'.record = l.record ∧
        l'.snap = set.map fun c => (granted.core c).health.trial.getD (granted.core c).health.curve.su) ∧
    (∀ (total : Nat) (ws : List Nat), 0 < ws.sum →
      let shares := apportion total ws
      let floor := fun (i : Nat) => total * ws.getD i 0 / ws.sum
      let part := fun (i : Nat) => total * ws.getD i 0 % ws.sum
      let ranks := fun (i j : Nat) => part j < part i ∨
        (part i = part j ∧ (ws.getD j 0 < ws.getD i 0 ∨ (ws.getD i 0 = ws.getD j 0 ∧ i < j)))
      shares.length = ws.length ∧ shares.sum = total ∧
      (∀ i < ws.length, shares.getD i 0 = floor i ∨ shares.getD i 0 = floor i + 1) ∧
      ∀ i < ws.length, ∀ j < ws.length, ranks i j → shares.getD j 0 = floor j + 1 → shares.getD i 0 = floor i + 1) ∧
    (∀ l core, s.launches.get? id = some l → l.phase = .running → l.starts = [] →
      s.startsWaiting id core < l.outstanding.getD core 0 →
      exec (.launchStartReport id core) s = .next { s with
        launches := s.launches.set id
          { l with outstanding := l.outstanding.set core (l.outstanding.getD core 0 - 1) } }) ∧
    (∀ l pa, s.launches.get? id = some l → l.phase = .running → l.starts = [] → l.armed = true → s.sound →
      s.recordPa 0 l.asid (l.record.getD 5 0) = some pa → s.mem.readNat (pa + 20) 1 % 2 = 0 →
      let front := frontWho l.asid
      let sig := l.record.getD 12 0
      let dep := l.record.getD 11 0
      let closed := (((s.noteRecord frontOrigin l.asid (l.record.getD 5 0)).deviceWrite (pa + 24) 8 0).freeUnclaimed
        l.queue l.order).keepPartitions id l
      let completes := fun (b : State) (P : State → Prop) => Leads (exec (.launchCompletion id) s) fun s' => P s' ∧
        s'.launches = s.launches.erase id ∧ (s'.queue l.queue).events = (b.queue l.queue).events + 1 ∧
        ∀ k, ∀ g < 20, (s.core k).granules.getD g .l1 = .launch id → (s'.core k).granules.getD g .l1 =
          if (s.core k).retain.getD id 0 = 0 then .l1 else .retained ((s.core k).retain.getD id 0) l.asid l.queue l.order
      (sig = 0 → dep = 0 → completes s fun s' => s'.mem = s.mem.writeNat (pa + 24) 8 0) ∧
      (sig ≠ 0 → dep = 0 → l.asid ≠ 0 → ∀ p, closed.locate front 5 sig.toNat 8 false false = .ok p →
        let sum := (BitVec.ofNat 64 (closed.readAt p sig.toNat 8)).toInt + (l.record.getD 13 0).toInt
        sum < 2 ^ 63 → -(2 ^ 63) ≤ sum →
          completes s fun s' => closed.stored s' p 8 (BitVec.ofInt 64 sum).toNat) ∧
      (dep ≠ 0 → l.asid ≠ 0 → ∀ b p,
        (if sig = 0 then b = closed else closed.frontSigAdd l.queue l.asid sig (l.record.getD 13 0) = .ok b) →
        b.locate front 5 dep.toNat 8 false false = .ok p → b.readAt p dep.toNat 8 ≠ 0 →
          completes b fun s' => b.stored s' p 8 (b.readAt p dep.toNat 8 - 1))) ∧
    (∀ core n l set, (n, l) ∈ s.launches → l.phase = .accepting → l.waitingSince + 1000000 ≤ s.stime →
      s.launchSet (frontWho l.asid) l.record = some set → core ∈ set →
      s.grant core n ((l.record.getD 1 0).toNat / 2 ^ 9 % 2 ^ 9 / 16) (l.record.getD 6 0) l.asid = none →
      Leads (exec (.retainedPartitionReclaim core) s) fun s' =>
        (∀ g < 20, (s'.core core).granules.getD g .l1 =
          match (s.core core).granules.getD g .l1 with | .retained .. => Granule.l1 | g => g) ∧
        (∀ k, k ≠ core → s'.core k = s.core k) ∧ { s' with cores := s.cores } = s) ∧
    (∀ l, s.launches.get? id = some l → l.phase = .aborting →
      Leads (exec (.launchAbort id) s) fun s' => (∀ m ∈ s'.messages, m.ident.launch ≠ some id) ∧
        (∀ e ∈ s'.notes, e.2.ident.launch ≠ some id) ∧ ∀ k, ∀ r ∈ (s'.core k).fifo, r.ident.launch ≠ some id) ∧
    (∀ l pa, s.launches.get? id = some l → l.phase = .aborting → l.attempt = 1 → s.launchTasks id = [] → s.sound →
      (∀ m ∈ s.messages, m.ident.launch ≠ some id) → (∀ e ∈ s.notes, e.2.ident.launch ≠ some id) →
      (∀ e ∈ s.asks, e.2.ident.launch ≠ some id) → (∀ e ∈ s.cores, ∀ r ∈ e.2.fifo, r.ident.launch ≠ some id) →
      (∀ e ∈ s.clusters, ∀ r ∈ e.2.engine.active, r.ident.launch ≠ some id) →
      (∀ e ∈ s.borrows, e.2.asid = l.asid → e.2.hoist = l.record.getD 5 0 → e.2.answer ≠ none) →
      (∀ e ∈ s.returns, ¬ (e.2.asid = l.asid ∧ e.2.hoist = l.record.getD 5 0)) →
      s.recordPa 0 l.asid (l.record.getD 5 0) = some pa → s.mem.readNat pa 8 = 0 →
      Leads (exec (.launchAbort id) s) fun s' => s'.launches.get? id = none ∧
        s'.mem.readNat (s.localPa (s.cfg.qtab + 64 * l.queue) + 9) 1 % 2 = 0) ∧
    (∀ gang sender, gang ≠ (0 : Word) → Leads (exec (.abortNotice gang sender) s) fun s' =>
      { s' with launches := s.launches } = s ∧ ∀ n l, s.launches.get? n = some l → s'.launches.get? n = some
        (if l.phase = .running ∧ l.record.getD 14 0 = gang ∧ sender ∈ l.members then
          { l with phase := .aborting, noticed := true } else l))

/-! ### Host ports and links -/

/-- R232, R306, R403, R405, R406: accesses from outside the cores. A write of a bound doorbell slot arrives at its
barrier and a read returns GEN; the memory window reads and writes the address space of MWIN; a peer reads, writes and
operates on local memory, or is answered that its request is refused; a transfer starts, or leaves a KIND 9 record before its unit returns,
and its end returns its unit. The KIND of a transfer whose fields are out of range is the model's choice (log 19), as is the order of the window's
requests (log 61) and that an address space whose descriptor cannot be read takes no transfer (log 54); that an outside write of a whole line may meet poison is its reading (log 32). -/
def Obligations.HostAccesses : Prop :=
  ∀ (s : State) (va len peer pa id : Nat) (p : Place), s.Inv → s.control.bootStage = 7 →
    let oneLine := 0 < len ∧ va / 64 = (va + len - 1) / 64
    let replies := fun (s' : State) (x : Nat) => s'.control.hostRead = some (.data (BitVec.ofNat 512 x)) ∧ s.sameBytes s'
    let arrived := arrivedLine s.stime
    let mwin := s.control.mwin.toNat
    let off := va % 2 ^ 36
    let window := mwin / 2 ^ 36 % 2 ^ 20 * 2 ^ 36 + off = va
    (∀ port slot d, slot < 8192 → s.control.doorTable.getD slot (0, 0) = d →
      (d.1.toNat % 65536 = 0 → exec (.hostBarrierDoorbell ⟨port, slot⟩ true) s = .next s ∧
        Leads (exec (.hostBarrierDoorbell ⟨port, slot⟩ false) s) fun s' => replies s' 0) ∧
      (let who := outsideWho (d.1.toNat % 65536) (match port with | .a => 6004 | .b => 6005)
       d.1.toNat % 65536 ≠ 0 → d.2.toNat = va → va % 64 = 0 → va < 2 ^ 56 → inWindow va = false →
       (s.locate who 5 va 64 false false = .ok p →
         Leads (exec (.hostBarrierDoorbell ⟨port, slot⟩ true) s) fun s' => s.stored s' p 64 (arrived (s.readAt p va 64))) ∧
       (s.locate who 4 va 64 false false = .ok p →
         Leads (exec (.hostBarrierDoorbell ⟨port, slot⟩ false) s) fun s' =>
           replies s' (s.readAt p va 64 / 2 ^ 128 % 2 ^ 64)))) ∧
    (peer < 1024 → pa % 64 = 0 → s.peerStop peer pa 64 true false = none →
      Leads (exec (.peerBarrierArrival peer pa) s) fun s' =>
        s.stored s' (.mem pa 0) 64 (arrived (s.mem.readNat pa 64))) ∧
    (oneLine → window → s.control.mwin.getLsbD 63 = true → len ≤ 64 → s.inbound = [] →
      let who := outsideWho (mwin % 65536) 6004
      (∀ x, s.locate who 5 va len false (decide (len = 64)) = .ok p →
        Leads (exec (.memoryWindowAccess off len (some x)) s) fun s' =>
          s.stored s' p len (x.toNat % 2 ^ (8 * len))) ∧
      (∀ x, s.locate who 5 va len false (decide (len = 64)) = .error .hold →
        exec (.memoryWindowAccess off len (some x)) s = .next { s with inbound :=
          [{ asid := mwin % 65536, queue := mwin / 2 ^ 16 % 2 ^ 16, va := va, bytes := leBytes len x.toNat }] }) ∧
      (s.locate who 4 va len false false = .ok p →
        Leads (exec (.memoryWindowAccess off len none) s) fun s' => replies s' (s.readAt p va len)) ∧
      (∀ code addr slice e, s.locate who 4 va len false false = .error (.refuse code addr slice e) → code ≠ POISON →
        exec (.memoryWindowAccess off len none) s =
          .next ((((s.unlink windowKey).noteRefused 0 (mwin % 65536) code addr slice e).postRecord (mwin / 2 ^ 16 % 2 ^ 16)
            { tid := 0, path := 0, pc := 0, cause := BitVec.ofNat 64 code, addr := BitVec.ofNat 64 (max va addr),
              asid := mwin % 65536, kind := 10 }).reply .unsupported))) ∧
    (0 < len → off + len ≤ 2 ^ 36 → s.control.mwin.getLsbD 63 = false → len ≤ 512 →
      exec (.memoryWindowAccess off len none) s = .next (s.reply .unsupported) ∧
      ∀ x, exec (.memoryWindowAccess off len (some x)) s = .next s) ∧
    (peer < 1024 → ∀ data op half x e,
      let old := s.mem.readNat pa (if half then 4 else 8)
      let w := if half then 32 else 64
      let answered := fun (req : PeerReq) (len : Nat) (write whole : Bool) => ∀ code a sl en,
        s.peerStop peer pa len write whole = some (.refuse code a sl en) →
        exec (.ualinkPeerAccess peer pa req) s = .next (s.reply (if code = POISON then .poisoned else .unsupported))
      answered (.read len) len false false ∧ answered (.write data) data.length true (decide (data.length = 64)) ∧
      (s.peerStop peer pa len false false = none →
        Leads (exec (.ualinkPeerAccess peer pa (.read len)) s) fun s' => replies s' (s.mem.readNat pa len)) ∧
      (s.peerStop peer pa data.length true (decide (data.length = 64)) = none →
        Leads (exec (.ualinkPeerAccess peer pa (.write data)) s) fun s' =>
          s.stored s' (.mem pa 0) data.length (leNat data)) ∧
      (op ≠ AmoOp.trig → pa % (if half then 4 else 8) = 0 →
        s.peerStop peer pa (if half then 4 else 8) true false = none →
        Leads (exec (.ualinkPeerAccess peer pa (.atomic op half x e)) s) fun s' =>
          s'.control.hostRead = some (.data (BitVec.ofNat 512 old)) ∧
          s.stored s' (.mem pa 0) (w / 8) (amoValue op w (x.toNat % 2 ^ w) (e.toNat % 2 ^ w) old))) ∧
    (∀ m port, s.fabric.get? id = some m → m.dst = .transfer port →
      let kind := m.hdr.toNat % 256
      let okay := (kind = 1 ∨ kind = 2) ∧ m.args[1].toNat ≤ 524287 ∧ 1 ≤ m.args[3].toNat ∧ m.args[3].toNat ≤ 2 ^ 30
      (okay → Leads (exec (.ueTransfer id) s) fun s' => s'.fabric = s.fabric.erase id ∧ s'.nextId = s.nextId + 1 ∧
        s'.transfers = s.transfers.set s.nextId
          { port := port, write := decide (kind = 1), localVa := m.args[0].toNat, device := m.args[1].toNat,
            remoteVa := m.args[2].toNat, len := m.args[3].toNat, msg := m }) ∧
      let told := (({ s with fabric := s.fabric.erase id } : State).accepted m).postRecord m.ident.queue
        { tid := m.s5, path := m.senderPath, pc := 0, cause := BitVec.ofNat 64 kind, addr := m.args[0], asid := m.ident.asid,
          kind := 9 }
      let waits := ∃ bs, Owed.record m.ident.queue bs ∈ told.owed
      (¬ okay → ¬ waits → exec (.ueTransfer id) s =
        .next (told.sendReturn frontOrigin m.ident.asid m.hoist m.weight false)) ∧
      (¬ okay → waits → exec (.ueTransfer id) s = .next { told with
        owed := told.owed ++ [.unit m.ident.queue frontOrigin m.ident.asid m.hoist m.weight] })) ∧
    (∀ x data, s.transfers.get? id = some x → x.localVa = va → x.len = len → oneLine → x.write = false →
      data.length = len → s.locate (outsideWho x.msg.ident.asid (2 ^ 20 + x.device)) 5 va len false false = .ok p →
      s.locate (outsideWho x.msg.ident.asid (2 ^ 20 + x.device)) 5 va len false (decide (len = 64)) = .ok p →
      Leads (exec (.ueTransferComplete id false data) s) fun s' => s'.transfers = s.transfers.erase id ∧
        s.stored s' p len (leNat data) ∧
        (x.msg.weight ≠ 0 → s'.returns = s.returns.set s.nextId
          { src := frontOrigin, asid := x.msg.ident.asid, hoist := x.msg.hoist, amount := x.msg.weight, kill := false })) ∧
    (∀ device data, oneLine → data.length = len → s.control.xasid.getLsbD 63 = true → s.control.xasid.toNat % 65536 ≠ 0 →
      s.poisonedAt (s.descPa (s.control.xasid.toNat % 65536)) = false → (s.readDesc (s.control.xasid.toNat % 65536)).valid = true →
      s.locate (outsideWho (s.control.xasid.toNat % 65536) (2 ^ 20 + device)) 5 va len false false = .ok p →
      s.locate (outsideWho (s.control.xasid.toNat % 65536) (2 ^ 20 + device)) 5 va len false (decide (len = 64)) = .ok p →
      Leads (exec (.incomingTransfer ⟨device, va⟩ len (some data)) s) fun s' => s.stored s' p len (leNat data)) ∧
    (∀ device, oneLine → s.control.xasid.getLsbD 63 = true → s.control.xasid.toNat % 65536 ≠ 0 →
      s.poisonedAt (s.descPa (s.control.xasid.toNat % 65536)) = false → (s.readDesc (s.control.xasid.toNat % 65536)).valid = true →
      (s.locate (outsideWho (s.control.xasid.toNat % 65536) (2 ^ 20 + device)) 4 va len false false = .ok p →
        Leads (exec (.incomingTransfer ⟨device, va⟩ len none) s) fun s' =>
          s'.control.hostRead = some (.bytes (leBytes len (s.readAt p va len))) ∧ s.sameBytes s') ∧
      ∀ code addr slice e,
        s.locate (outsideWho (s.control.xasid.toNat % 65536) (2 ^ 20 + device)) 4 va len false false = .error (.refuse code addr slice e) →
        exec (.incomingTransfer ⟨device, va⟩ len none) s =
          .next (((s.unlink incomingKey).noteRefused 0 (s.control.xasid.toNat % 65536) code addr slice e).reply .denied)) ∧
    (s.control.xasid.getLsbD 63 = false ∨ s.poisonedAt (s.descPa (s.control.xasid.toNat % 65536)) = true → ∀ device data, exec (.incomingTransfer ⟨device, va⟩ len data) s = .next (s.reply .denied))

/-- R17, R306, R354, R356, R378, R389, R403, R405 to R409, R437 to R439: the registers and links of the host: semaphores, a port's reset,
register writes with their ranges, PTP, whose step the quantum timers of a DIP do not count, credit and the time limit of a UALink
access, in flight or not. When STIME steps and when it
slews is the model's reading of R407 (log 33); what a write of QUANTUM does to the quanta that run is its choice (log 104). -/
def Obligations.HostRegisters : Prop :=
  ∀ (s : State) (n : Nat) (port : Port) (x : Word) (reg : HostReg),
    let c := s.control
    let holder := match port with | .a => 1 | .b => 2
    let held := c.semaphores.getD n 0
    let writes := fun (reg : HostReg) (c' : Control) => exec (.registerWrite reg x) s = .next { s with control := c' }
    (n < 64 → exec (.semaphoreRead port n) s = .next { s with
      control := { c with
        hostRead := some (.data (BitVec.ofNat 512 held))
        semaphores := if held = 0 then c.semaphores.set n holder else c.semaphores } }) ∧
    (held ≠ 0 → x.toNat = held →
      exec (.semaphoreWrite port n x) s = .next { s with control := { c with semaphores := c.semaphores.erase n } }) ∧
    (held = 0 ∨ x.toNat ≠ held → exec (.semaphoreWrite port n x) s = .next s) ∧
    (exec (.portReset port) s = .next { s with
      control := { c with semaphores := c.semaphores.filter fun e => e.2 != holder } }) ∧
    (Leads (exec (.registerWrite .quantum x) s) fun s' =>
      let len := c.quantumLen * 1000
      let isOver : Task → Bool := fun t =>
        if c.gang then decide (t.rank.quantum / len < s.stime / len) else decide (t.rank.quantum + len ≤ s.stime)
      s'.control = { c with
        gang := x.getLsbD 32
        quantumLen := if 50 ≤ x.toNat % 2 ^ 32 ∧ x.toNat % 2 ^ 32 ≤ 100000 then x.toNat % 2 ^ 32 else c.quantumLen } ∧
      (∀ i, s'.task? i = (s.task? i).map fun t =>
        if x.getLsbD 32 = true ∧ isOver t = false then { t with rank := { t.rank with quantum := s.stime } } else t) ∧
      { s' with control := s.control, ctxs := s.ctxs } = s) ∧
    writes .mwin { c with mwin := x &&& 0x80FFFFF0FFFFFFFF } ∧
    writes .xasid { c with xasid := x &&& 0x800000000000FFFF } ∧
    (n < 5120 → writes (.trial n) { c with trials := c.trials.set n (x &&& 0x80000FFF) }) ∧
    (n < 8192 →
      writes (.doorTable n 0) { c with
        doorTable := c.doorTable.set n (x &&& 0x0000FFFF0000FFFF, (c.doorTable.getD n (0, 0)).2) } ∧
      writes (.doorTable n 1) { c with doorTable := c.doorTable.set n ((c.doorTable.getD n (0, 0)).1, x) }) ∧
    (n < 160 → s.inColumn n = true →
      exec (.registerWrite (.fwall n) x) s = .next
        (if (s.cluster n).fwall.getLsbD 8 = true then s
          else s.setCluster n { s.cluster n with fwall := x &&& 0x101 })) ∧
    (c.bootStage ≠ 7 → ∀ off, exec (.registerWrite (.dbg n off) x) s = .next s) ∧
    (c.bootStage = 7 → n < 640 →
      exec (.registerWrite (.dbg n 0) x) s = .next (s.setCluster n { s.cluster n with
        dbg := { (s.cluster n).dbg with ctl := x &&& 0x000000000000F7FF }
        lastWrites := if x.getLsbD 9 = true then (s.cluster n).lastWrites else [] })) ∧
    (∀ table image, exec (.registerWrite (.staging table image) x) s =
      .next { s with base := { s.base with stagedTable := table, stagedImage := image } }) ∧
    (∃ s', exec (.registerWrite reg x) s = .next s' ∧ s'.mem = s.mem ∧ (reg ≠ .quantum → s'.ctxs = s.ctxs)) ∧
    (∀ d : Int, 1000000 ≤ d → Leads (exec (.ptpDiscipline d) s) fun s' =>
      s'.stime = s.stime + d.toNat ∧ s'.slew = 0 ∧
      (∀ i, s'.task? i = (s.task? i).map fun t => if (s.core (ctxCore i)).dip then
        { t with rank := { t.rank with quantum := t.rank.quantum + d.toNat } } else t) ∧
      ((s.stime + d.toNat) % 1000000 ≠ 0 → s'.epoch = s.epoch ∧ s'.cores = s.cores ∧ s.sameBytes s')) ∧
    (∀ d : Int, d < 1000000 → exec (.ptpDiscipline d) s = .next { s with slew := d }) ∧
    (∀ l, Leads (exec (.linkCreditReturn l) s) fun s' => l ∉ s'.noCredit ∧ (∀ k, k ≠ l → (k ∈ s'.noCredit ↔ k ∈ s.noCredit)) ∧
      ∀ i t, s.task? i = some t → s'.task? i = some
        (match t.flow.wait with
          | .link z => if z.link = l then { t with flow := { t.flow with wait := .run } } else t
          | _ => t)) ∧
    (∀ core ctx t z m, core < 5120 → ctx < 16 → s.task? (16 * core + ctx) = some t → t.flow.wait = .link z →
      z.link = .ualink m → z.op = none → z.since + 2000000 ≤ s.stime → t.flow.inflight = [] →
      (s.core core).halted = false → (s.core core).health.retired = false →
      exec (.ualinkTimeout core ctx) s =
        .next (s.enterUpcall (16 * core + ctx) { t with flow := { t.flow with wait := .run } }
          { cause POISON z.addr t.regs.pc with acc := z.acc, vdone := z.vdone } 0)) ∧
    (∀ core ctx t o m n va, core < 5120 → ctx < 16 → s.task? (16 * core + ctx) = some t → (∀ z, t.flow.wait ≠ .link z) →
      t.flow.inflight = [o] → o.done = false → o.failed = none → o.since = some n → n + 2000000 ≤ s.stime →
      (s.core core).health.retired = false → s.perform (16 * core + ctx) t o.pc o.work = .wait (.link (.ualink m) va) →
      exec (.ualinkTimeout core ctx) s =
        .next (s.setTask (16 * core + ctx) { t with flow := { t.flow with inflight := [{ o with
          failed := some { cause POISON (BitVec.ofNat 64 va) o.pc with acc := o.work.acc, vdone := o.work.groups } }] } }))

/-! ### Curves, health and errors -/

/-- R380, R409, R425 to R433, R442, R443: a publication puts measured records and retirements in force and counts
EPOCH; a measurement starts and ends; the operating point follows the temperature; errors count, set their triggers,
poison lines and abort owners. The factor k of the power cap is an input (log 36), and which core counts an error at a
site is the model's reading (log 37), as is what a failed measurement publishes (log 59); that an error in saved or private state names
its HBM channel is its choice (log 83). -/
def Obligations.Health : Prop :=
  ∀ (s : State) (k : Nat) (h : Sys2Proof.Machine.Health), (s.core k).health = h →
    let now := s.stime
    let sat := fun (n : Nat) => min (n + 1) (2 ^ 32 - 1)
    let sets := fun (i : Instr) (h' : Sys2Proof.Machine.Health) =>
      exec i s = .next (s.setCore k { s.core k with health := h' })
    let within := fun (span : Nat) (xs : List Nat) => now :: xs.filter fun x => decide (now < x + span)
    let hour := 3600 * 10 ^ 9
    let passes := fun (c : Curve) => c.fmax.length = 8 ∧ c.passed = true ∧
      (∀ i < 7, c.fmax.getD i 0 ≤ c.fmax.getD (i + 1) 0) ∧ 1450 ≤ min 2400 (c.fmax.getD 7 0 * 98 / 100)
    (now % 10 ^ 6 = 0 → s.cursor < now / 10 ^ 6 → Leads (exec .speedPublication s) fun s' =>
      s'.epoch = (s.epoch + 1) % 2 ^ 32 ∧ s'.cursor = now / 10 ^ 6 ∧
      (∀ c at_, h.retired = false → h.retiring = false → h.pending = some (c, at_) → passes c →
        let r := (s'.core k).health
        r.curve.fmax = c.fmax ∧ r.curve.leak = c.leak ∧ r.curve.tslope = c.tslope ∧ r.curve.mtime = at_ ∧
          r.curve.su = min 2400 (c.fmax.getD 7 0 * 98 / 100) ∧ r.canary = false ∧ r.retest = false ∧
          r.cehigh = false ∧ r.pending = none ∧ (h.fnow = 0 → 1450 ≤ r.fnow)) ∧
      (h.retired = false → h.retiring = true → (s'.core k).health.retired = true ∧ (s'.core k).health.vnow = 0 ∧
        (s'.core k).health.fnow = 0 ∧ ∀ c at_, h.pending = some (c, at_) →
          (s'.core k).health.curve.mtime = at_ ∧ (s'.core k).health.retest = false)) ∧
    (now % 10 ^ 6 ≠ 0 ∨ now / 10 ^ 6 ≤ s.cursor → exec .speedPublication s = .next s) ∧
    (s.mayMeasure k = true → sets (.measurementStart k)
      { h with
        measuring := true, measureStart := now, lastMeasure := some now,
        lastScheduled := if h.retest then h.lastScheduled else some now }) ∧
    (∀ c : Curve, h.measuring = true → c.fmax.length = 8 → c.leak.length = 8 →
      let ended := { h with measuring := false, measurements := sat h.measurements }
      (passes c → sets (.measurementEnd k c) { ended with pending := some (c, now) }) ∧
      (¬ passes c → sets (.measurementEnd k c)
        { ended with pending := some (c, now), trigTime := now, trigCode := 4, retiring := true })) ∧
    (∀ n, 32 ≤ n → n ≤ 64 → s.control.opAt + 10000 ≤ now → h.retired = false → h.curve.fmax ≠ [] →
      Leads (exec (.operatingPointControl n) s) fun s' => s'.control.opAt = now ∧
        (s'.core k).health.thermal =
          (if 105 ≤ h.tnow then max 32 (h.thermal - 1) else if h.tnow < 100 then min 64 (h.thermal + 1) else h.thermal) ∧
        1450 ≤ (s'.core k).health.fnow) ∧
    (k < 5120 → h.retired = false → sets (.marginMonitorFire k)
      { h with
        trigTime := now, trigCode := 2, margin := sat h.margin, thermal := max 32 (h.thermal - 4), canary := true,
        retest := true }) ∧
    (k < 5120 →
      let xs := within hour h.correctedAt
      let g := { h with corrected := sat h.corrected, correctedAt := xs, cehigh := h.cehigh || decide (32 ≤ xs.length) }
      ∀ n, sets (.correctedError (.core k n))
        (if 64 ≤ xs.length then { g with trigTime := now, trigCode := 1, retest := true } else g)) ∧
    (∀ i n, i < 512 →
      let c := s.channel i
      let xs := within hour c.correctedAt
      let d := { c with corrected := sat c.corrected, correctedAt := xs }
      (∀ site ∈ [ErrSite.saved n i, .arena n n n i], exec (.correctedError site) s = exec (.correctedError (.channel i n)) s) ∧
      exec (.correctedError (.channel i n)) s = .next (s.setChannel i
        (if 4096 ≤ xs.length then { d with trigTime := now, trigCode := 5, retiring := true } else d)) ∧
      exec (.patrolScrub i) s = .next
        (if now < c.scrubbed + 24 * hour then s else s.setChannel i { c with scrubs := sat c.scrubs, scrubbed := now })) ∧
    (∀ n, exec (.uncorrectableError (.line n)) s =
      .next { s with poison := if n ∈ s.poison then s.poison else n :: s.poison }) ∧
    (∀ n, k < 5120 → Leads (exec (.uncorrectableError (.core k n)) s) fun s' =>
      n ∈ s'.poison ∧ (s'.core k).health.uncorrectable = sat h.uncorrectable ∧ s.sameBytes s') ∧
    (k < 5120 → ∀ ctx t id l, ctx < 16 → s.task? (16 * k + ctx) = some t → t.ident.launch = some id →
      s.launches.get? id = some l → l.phase = .running →
      Leads (exec (.uncorrectableError (.context k ctx)) s) fun s' =>
        s'.launches.get? id = some { l with phase := .aborting } ∧
        (s'.core k).health.uncorrectable = sat h.uncorrectable ∧
        (2 ≤ (within (24 * hour) h.uncorrectableAt).length → (s'.core k).health.retiring = true) ∧ s.sameBytes s')

/-! ### Trace and debug -/

/-- R340 to R344, R349 to R358, R389, R439: log and sample records, halts of a cluster and their release, breakpoints and
watchpoints, and a debugger's reads and writes, which a locked firewall refuses; a core with a result still to come has not drained (R351). What a debugger reads of a free context and of a mailbox is a free
value (log 23); the module that records an outside hit is the model's choice (log 25); the skip of a breakpoint is its
reading (log 35), as are the quanta after a DIP where GANG is 1 (log 95). -/
def Obligations.TraceAndDebug : Prop :=
  ∀ (s : State) (n k : Nat), n < 640 → s.control.bootStage = 7 → coreCluster k = n →
    let c := s.core k
    let x := s.cluster n
    let halts := fun (s' : State) (why : Nat) => (∀ i < 8, (s'.core (8 * n + i)).halted = true) ∧
      (s'.cluster n).dbg.cause = why ∧ (s'.cluster n).engine.frozen = true ∧ (s'.cluster n).dbg.engf = true ∧
      s.sameBytes s' ∧ ∀ i t, s.task? i = some t → ∃ v, s'.task? i = some v ∧
        { v with flow := { v.flow with frozen := t.flow.frozen } } = t
    let freezes := fun (s' : State) => ∀ i t, s.task? i = some t → coreCluster (ctxCore i) = n →
      s'.task? i = some { t with flow := { t.flow with frozen := true } }
    let dbg := fun (d : Debug) => s.setCluster n { x with dbg := d }
    let locked := x.fwall.getLsbD 8 = true
    (c.logging = true → c.log.started = true → c.log.lastCycle + (2 ^ 26 - 1) ≤ c.cycle → c.log.records.length < 13 →
      Leads (exec (.logOverflowRecord k) s) fun s' => (s'.core k).log.lastCycle = c.log.lastCycle + (2 ^ 26 - 1) ∧
        (s'.core k).log.records = c.log.records ++
          [BitVec.ofNat 32 (c.log.st % 4 * 2 ^ 30 + c.log.ctx % 16 * 2 ^ 26 + (2 ^ 26 - 1))]) ∧
    (s.stime % 1000000 = 0 → c.log.records ≠ [] →
      Leads (exec (.logLineFlush k) s) fun s' => (s'.core k).log.records = [] ∧
        (s'.cluster n).dbg.logWptr = x.dbg.logWptr + 1 ∧
        (s'.cluster n).logRing.get? (x.dbg.logWptr.toNat % 4096) = some c.log.words) ∧
    (c.samples = true → (∀ e ∈ s.ctxs, ctxCore e.1 = k → e.2.rank.block ≠ none) → ∀ i t, s.blocking k = some (i, t) →
      Leads (exec (.sample k) s) fun s' => (s'.cluster n).dbg.smpWptr = x.dbg.smpWptr + 1 ∧
        (s'.cluster n).sampleRing.get? (x.dbg.smpWptr.toNat % 4096) = some
          (BitVec.ofNat 64 (k % 8 * 2 ^ 61 + ctxNum i % 16 * 2 ^ 57 +
            ((t.charged &&& 0x00FFFFFFFFFFFFFC).toNat + t.blockCode % 4)), BitVec.ofNat 64 c.cycle)) ∧
    (¬ locked → x.dbg.cause = 0 → Leads (exec (.dbgHalt n) s) fun s' => halts s' 1 ∧ freezes s') ∧
    (locked → exec (.dbgHalt n) s = .next s) ∧
    (x.dbg.cause ≠ 0 → Leads (exec (.dip n) s) fun s' => halts s' x.dbg.cause) ∧
    (x.dbg.cause = 0 → exec (.dip n) s = .next s) ∧
    (n ∈ s.relays → x.dbg.cause = 0 →
      Leads (exec (.dipRelay n) s) fun s' => halts s' 5 ∧ freezes s' ∧ n ∉ s'.relays) ∧
    (Leads (exec (.dbgRun n) s) fun s' => (∀ i < 8, (s'.core (8 * n + i)).halted = false) ∧
      (∀ i t, s.task? i = some t → coreCluster (ctxCore i) = n → s'.task? i = some { t with
        rank := if (s.core (ctxCore i)).dip ∧ s.control.gang then { t.rank with quantum := s.stime } else t.rank
        flow := { t.flow with frozen := false, wait := if t.flow.woken = .no then t.flow.wait else .run } }) ∧
      s'.cluster n = { x with
        engine := { x.engine with frozen := false }
        dbg := { x.dbg with
          cause := 0, bpi := 0, bpCore := 0, dipAt := 0, engf := false, drained := 0, halted := 0, whit := none } }) ∧
    exec (.dbgStatClear n) s = .next (dbg { x.dbg with err := false }) ∧
    (∀ i : Fin 8, ∀ v : Word, Leads (exec (.watchpointWrite n (0x200 + 24 * i.val) v) s) fun s' =>
      s'.watches = s.watches.set i { s.watches[i] with word0 := v &&& 0xC0FFFFFFFFFFFFC0 } ∧
      { s' with watches := s.watches } = s) ∧
    (∀ ctx t b, k < 5120 → ctx < 16 → s.task? (16 * k + ctx) = some t → t.held c = false → s.bpMatch k t = some b →
      x.dbg.cause = 0 → c.dip = false →
      Leads (exec (.breakpointMatch k ctx) s) fun s' => (s'.core k).halted = true ∧
        (s'.core k).bpSkip = c.bpSkip ++ [t.regs.pc] ∧ ∃ v, s'.task? (16 * k + ctx) = some v ∧
          { v with flow := { v.flow with frozen := t.flow.frozen } } = t) ∧
    (∀ h hs, s.hits = h :: hs → h.cluster = some n → x.dbg.cause = 0 → x.dbg.whit = none →
      Leads (exec .watchpointHit s) fun s' => halts s' 3 ∧ freezes s' ∧ s'.hits = hs ∧ (s'.cluster n).dbg.whit =
        some { addr := h.addr, who := h.who, index := h.index, acc := h.acc, count := 0 }) ∧
    (let sel := x.dbg.sel.toNat
     let ctx := sel / 2 ^ 3 % 2 ^ 4
     let space := sel / 2 ^ 8 % 2 ^ 8
     let index := sel / 2 ^ 16 % 2 ^ 32
     let core := 8 * n + sel % 8
     let still := (s.core core).halted = true ∧ s.coreDrained core = true
     (still → space = 0 → ∀ r : SReg, r.val = index → ∀ t, s.task? (16 * core + ctx) = some t →
       (Leads (exec (.dbgData n none) s) fun s' =>
         s'.control.hostRead = some (.data (BitVec.ofNat 512 (t.getS r).toNat)) ∧ s'.ctxs = s.ctxs) ∧
       (¬ locked → ∀ v, exec (.dbgData n (some v)) s = .next (s.setTask (16 * core + ctx) (t.setS r v))) ∧
       (locked → ∀ v, exec (.dbgData n (some v)) s = .next s)) ∧
     (¬ still → space < 6 → Leads (exec (.dbgData n none) s) fun s' => (s'.cluster n).dbg.err = true)) ∧
    (∀ i t e, s.task? i = some t → ctxCore i = k → e ∈ c.results → e.ctx = ctxNum i → c.cycle < e.until_ → s.coreDrained k = false)

/-! ### Boot, reset and containers -/

/-- R436 to R441: boot checks the table and the image in order and stops with the stage and code of the first failure; a boot that passes
ends in stage 7 with the column's firewalls locked; a retry takes what the host has staged; a reset keeps flash and the version; a container
is loaded segment by segment. The digests, the signature check and what bring-up measures are free values (logs 11, 24); that a retry
follows a failed stage only is the model's reading (log 26), as are the place of the signatures, and that LOAD_STAT reads 0xFF until a load
has waited, the 2 ms of a UALink counting on (log 31), and its invalidations are done (log 7); that memory is empty after a reset (log 5)
and that boot runs at once (log 46) are its choices. -/
def Obligations.BootAndContainers : Prop :=
  ∀ (s : State) (pa asid : Nat),
    let cleared : State := { State.reset with base := s.base, free := s.free + 1, sched := s.sched }
    let table := s.base.table
    let signed := table.length = 33888 ∧
      Config.slhVerify Config.rootKey (table.take 4096) ((table.drop 4096).take 29792) = true
    let version := leNat ((table.drop 4).take 4)
    let fails := fun (s' : State) (stage err : Nat) => s'.control.bootStage = stage ∧ s'.control.bootErr = err
    let staged : Base := { s.base with
      table := if s.base.stagedTable = [] then table else s.base.stagedTable
      image := if s.base.stagedImage = [] then s.base.image else s.base.stagedImage
      stagedTable := [], stagedImage := [] }
    let held := fun (s : State) (gs : List Segm) => gs.foldl (fun s g => s.holdRange loadKey (frontWho asid) 5 g.va g.size) s
    let stat := fun (s' : State) (x : Nat) => s'.control.loadStat = BitVec.ofNat 64 x
    (¬ signed → exec .packageReset s = .next (cleared.stage 2 1)) ∧
    (signed → version < s.base.minVersion → exec .packageReset s = .next (cleared.stage 2 2)) ∧
    (s.tableErr table = 0 → Config.shake256 s.base.image ≠ (tableCfg table).fwd →
      Leads (exec .packageReset s) fun s' => fails s' 3 4 ∧ s'.base.minVersion = version ∧ s'.ctxs = [] ∧ s'.mem = []) ∧
    (Leads (exec .packageReset s) fun s' => s'.ctxs = [] ∧ s'.mem = [] ∧ s'.spad = [] ∧ s'.banks = [] ∧
      s'.base.table = table ∧ s'.base.image = s.base.image ∧ (fails s' 7 0 ∨ s'.control.bootErr ≠ 0) ∧
      (fails s' 7 0 → ∀ n < 160, s'.inColumn n = true → (s'.cluster n).fwall = 0x101)) ∧
    (s.control.bootErr = 0 → exec .bootRetry s = .next s) ∧
    (s.control.bootErr ≠ 0 → exec .bootRetry s = .next ({ s with base := staged, free := s.free + 1 } : State).boot) ∧
    (s.control.bootStage = 7 → asid < 65536 → s.control.loadStat ≠ 0xFF →
      let at_ := s.localPa (pa % 2 ^ 64)
      let s1 := { s with control := { s.control with
        loadReq := BitVec.ofNat 64 pa, loadAsid := BitVec.ofNat 64 asid, loadStat := 0xFF } }
      (s.headerWaits at_ = true → exec (.containerLoad pa asid) s = .next s1) ∧
      (s.headerWaits at_ = false → s.mem.readNat at_ 4 ≠ 0x50584301 →
        exec (.containerLoad pa asid) s = .next { s1 with control := { s1.control with loadStat := 4 } }) ∧
      (∀ gs, s.headerWaits at_ = false → s.segments at_ = some gs → s.loadWaits asid at_ gs = true →
        exec (.containerLoad pa asid) s = .next (held s1 gs)) ∧
      (∀ gs, s.headerWaits at_ = false → s.segments at_ = some gs → s.loadWaits asid at_ gs = false →
        let r := (s1.unlink loadKey).loadSegments asid at_ (sigBase gs) (s.containerKey at_) ((List.range gs.length).zip gs)
        (∀ code i, r.2 = some (code, i) → Leads (exec (.containerLoad pa asid) s) fun s' => stat s' (i * 2 ^ 8 + code)) ∧
        (r.2 = none → (∀ g ∈ gs, g.x = false) →
          Leads (exec (.containerLoad pa asid) s) fun s' => stat s' 1 ∧ s'.mem = r.1.mem) ∧
        (r.2 = none → (∃ g ∈ gs, g.x = true) → Leads (exec (.containerLoad pa asid) s) fun s' => stat s' 0xFF))) ∧
    (s.control.loadStat = 0xFF → exec (.containerLoad pa asid) s = .next s)

/-! ### Decoding, steps and the invariant -/

/-- R89, R90, R100 to R116: words written out field by field, most significant first, and the instructions they stand
for; words that name no instruction. -/
def Obligations.DecodedWords : Prop :=
  let word := fun (fs : List (Nat × Nat)) => fs.foldl (fun w f => w * 2 ^ f.2 + f.1) 0
  let long := fun (w0 w1 : List (Nat × Nat)) => word w0 + word w1 * 2 ^ 32
  decodeTableWord 32 (word [(0x00, 6), (3, 6), (1, 6), (2, 6), (0, 5), (0, 3)]) = some (.add 3 1 2 0) ∧
  decodeTableWord 32 (word [(0x10, 6), (4, 6), (9, 6), (1, 8), (0, 4), (2, 2)]) = some (.ldD 4 9 1 0 .pkg) ∧
  decodeTableWord 32 (word [(0x18, 6), (2, 3), (1, 1), (2 ^ 22 - 4, 22)]) = some (.br 2 true (-4)) ∧
  decodeTableWord 32 (word [(0x1D, 6), (4, 5), (1, 5), (2, 5), (0, 3), (10, 4), (0, 4)]) = some (.vfma .f32 4 1 2 0) ∧
  decodeTableWord 32 (word [(0x24, 6), (7, 5), (5, 6), (3, 3), (4, 4), (2, 4), (1, 4)]) = some (.vldInc .i32 7 5 3 2) ∧
  decodeTableWord 32 (word [(0x2C, 6), (2, 5), (8, 5), (9, 5), (9, 5), (3, 4), (0, 2)]) = some (.mma .bf16 2 8 9 3) ∧
  decodeTableWord 32 (word [(0x32, 6), (1, 6), (9, 6), (20, 6), (0, 8)]) = some (.spawnc 9 20 false) ∧
  decodeTableWord 32 (word [(0x34, 6), (0, 6), (8, 6), (9, 6), (15, 5), (5, 3)]) = some (.viewDecl 5 8 9 .xor) ∧
  decodeTableWord 32 (word [(0x39, 6), (1, 6), (6, 6), (0, 6), (0x10, 8)]) = some (.mtc 6 0x10) ∧
  decodeTableWord 64 (long [(0x3F, 6), (0x00, 6), (12, 6), (0, 6), (0, 6), (1, 2)] [(0xFFFFFFFE, 32)]) =
    some (.movi 12 (-2) 1) ∧
  decodeTableWord 64 (long [(0x3F, 6), (0x10, 6), (6, 6), (6, 6), (33, 6), (0, 2)]
    [(0x1C, 6), (0, 4), (4, 4), (2, 3), (0, 3), (0, 1), (0, 1), (0, 5), (0, 4), (0, 1)]) =
    some (.vectorOpLong .vadd .i32 6 (.v 6) (.q 1) 2 (.fixed .rne)) ∧
  decodeTableWord 32 0xE8000000 = some .nop ∧
  decodeTableWord 32 0 = none ∧ decodeTableWord 32 0xF0000000 = none ∧ decodeTableWord 32 0x003042C0 = none

/-- R86, R90 to R92, R115: decoding the bytes of any well-formed instruction gives it back and leaves the rest; and a word
that decodes is the only encoding of its instruction. -/
def Obligations.DecodeEncode : Prop :=
  (∀ (i : Instr) (rest : List Byte), i.wf = true → encode i ≠ [] →
    decodeBytes (encodeBytes i ++ rest) = .ok (i, rest)) ∧
  ∀ (w0 w1 : Nat) (i : Instr), w0 < 2 ^ 32 → w1 < 2 ^ 32 → decode w0 (some w1) = .ok i →
    i.wf = true ∧ encode i = if w0 / 2 ^ 26 = 0x3F then [w0, w1] else [w0]

/-- R45, R86, R87, R100: a step that issues from a context runs the instruction that the bytes at its pc decode to, one word
or two, or raises ILLEGAL where they name none, and the cycle ends; an instruction that raises
a cause or parks has issued, too, counts once and uses up a breakpoint's skip (R347, R353); its yield has ended (R152), and what an aging cycle kept for it is
used (R47). A step for an event runs it, a breakpoint's only where the core would issue from that context (R353). What follows a turn
settles (log 2). -/
def Obligations.StepRunsDecoded : Prop :=
  ∀ (s : State) (us : List Turn) (late : List Nat) (core ctx : Nat) (t : Task) (p p' : Place) (i : Instr),
    let s1 := { s with sched := us }
    let r := (s1.fetchLate core late).agingGrant core
    let n := 16 * core + ctx
    let s2 := r.1.picked core (n, t)
    let u := { t with rank := { t.rank with yieldUntil := 0 } }
    let here := { s2.noteFetch n u with focus := n }
    let pc := t.regs.pc.toNat
    let w0 := s2.readAt p pc 4
    let w1 := s2.readAt p' (pc + 4) 4
    let skip := match i with
      | .mtc _ x =>
        if 0x30 ≤ x.toNat ∧ x.toNat ≤ 0x37 ∧ s2.locked core u x.toNat = false then some (x.toNat - 0x30) else none
      | _ => none
    let runs := fun (o : Out) (f : Fetched) (skip : Option Nat) => step s =
      match o with
      | .next s' => .next ((s'.noteRaised n u f).endCycle core 0 ctx (some t.regs.pc) skip r.2).settle
      | o => o
    (s.sched = .issue core late :: us → ctx < 16 → (s1.core core).health.retired = false →
      (r.1.core core).mayIssue = true → r.1.chosenCtx core late = some (n, t) → r.1.bpMatch core t = none →
      s2.locate (taskWho n u) 3 pc 4 false false = .ok p →
      (w0 / 2 ^ 26 ≠ 0x3F → decode w0 none = .ok i → runs (exec i here) (.instr i) skip) ∧
      (w0 / 2 ^ 26 = 0x3F → s2.locate (taskWho n u) 3 (pc + 4) 4 false false = .ok p' →
        decode w0 (some w1) = .ok i → runs (exec i here) (.instr i) skip) ∧
      (w0 / 2 ^ 26 ≠ 0x3F → ∀ e, decode w0 none = .error e →
        runs (exec (.illegalWord (BitVec.ofNat 32 w0)) here) (.bad (BitVec.ofNat 32 w0)) none)) ∧
    (∀ e, s.sched = .event e :: us → isEvent e = true →
      (∀ k c, e = .breakpointMatch k c → s1.issuesNext k c = true) → step s =
      match exec e s1 with
      | .next s' => .next s'.settle
      | o => o) ∧
    (∀ k c, s.sched = .event (.breakpointMatch k c) :: us → s1.issuesNext k c = false → step s = .next s1.settle)

/-- R39, R304, R345, R347, R349 to R355, R378, R380, R389, R437: what a reset leaves, and that it meets the invariant.
The values of registers the spec gives none are the model's (logs 5, 8, 9, 10) and are not stated here. -/
def Obligations.ResetState : Prop :=
  State.reset.Inv ∧ State.reset.ctxs = [] ∧ State.reset.fabric = [] ∧ State.reset.launches = [] ∧
  (∀ k, (State.reset.core k).logCtl = 0 ∧ (State.reset.core k).halted = false ∧ (State.reset.core k).grid = none ∧
    (∀ i : Fin 8, (State.reset.core k).pms[i] = 0) ∧ ∀ g < 20, (State.reset.core k).granules[g]? = some .l1) ∧
  (∀ n, (State.reset.cluster n).expect = 1 ∧ (State.reset.cluster n).arrived = 0 ∧ (State.reset.cluster n).gen = 0 ∧
    (State.reset.cluster n).dbg.ctl = 0 ∧ (State.reset.cluster n).dbg.cause = 0 ∧
    (State.reset.cluster n).fwall = 0 ∧ (State.reset.cluster n).engine.active = []) ∧
  State.reset.control.quantumLen = 1000 ∧ State.reset.control.gang = false ∧
  (∀ n, State.reset.control.semaphores.getD n 0 = 0) ∧ State.reset.control.bootStage = 0 ∧ State.reset.epoch = 0 ∧
  (∀ i : Fin 8, State.reset.watches[i].word0 = 0) ∧ Ctl.reset.vl = 2048 ∧ Ctl.reset.rnd = 0 ∧ Ctl.reset.fflags = 0

/-- R389 and log 5: memory and the scratchpads stay in canonical form and QUANTUM.LEN stays in its range, whatever a step
does. -/
def Obligations.InvariantKept : Prop :=
  ∀ s s' : State, s.Inv → step s = .next s' → s'.Inv
end

