-- ==== Sys2Proof/Laws/Memory.lean ====
section
/-! SUPPORT. Memory keeps its canonical form, a read finds what was written, and a write leaves every other byte as it
was. -/

namespace Sys2Proof.Machine

/-- Every listed address of a memory lies at or above a bound. -/
def Mem.above (n : Nat) : Mem → Bool
  | [] => true
  | (k, _) :: _ => decide (n ≤ k)

theorem Mem.wf_cons (k : Nat) (b : Byte) (m : Mem) :
    Mem.wf ((k, b) :: m) = (b != 0 && Mem.above (k + 1) m && Mem.wf m) := by
  cases m with
  | nil => simp [Mem.wf, Mem.above]
  | cons e m => rfl

theorem Mem.read_below {m : Mem} {n a : Nat} (h : Mem.above n m = true) (ha : a < n) : Mem.read m a = 0 := by
  cases m with
  | nil => rfl
  | cons e m =>
    obtain ⟨k, b⟩ := e
    simp only [Mem.above, decide_eq_true_eq] at h
    rw [Mem.read, if_neg (by omega), if_pos (by omega)]

theorem Mem.above_mono {m : Mem} {n n' : Nat} (h : Mem.above n m = true) (hn : n' ≤ n) : Mem.above n' m = true := by
  cases m with
  | nil => rfl
  | cons e m => simp only [Mem.above, decide_eq_true_eq] at h ⊢; omega

theorem Mem.above_write {m : Mem} {n a : Nat} {b : Byte} (h : Mem.above n m = true) (hm : Mem.wf m = true)
    (ha : n ≤ a) : Mem.above n (Mem.write m a b) = true := by
  cases m with
  | nil => unfold Mem.write; split <;> simp [Mem.above, ha]
  | cons e m =>
    obtain ⟨k, c⟩ := e
    rw [Mem.wf_cons] at hm
    simp only [Bool.and_eq_true] at hm
    simp only [Mem.above, decide_eq_true_eq] at h
    unfold Mem.write
    split
    · split <;> simp [Mem.above] <;> omega
    · split
      · split
        · exact Mem.above_mono hm.1.2 (by omega)
        · simpa [Mem.above] using ha
      · simpa [Mem.above] using h

/-- A write keeps the canonical form. -/
theorem Mem.wf_write {m : Mem} (a : Nat) (b : Byte) (h : Mem.wf m = true) : Mem.wf (Mem.write m a b) = true := by
  induction m with
  | nil =>
    unfold Mem.write
    split
    · rfl
    · simpa [Mem.wf] using ‹¬b = 0›
  | cons e m ih =>
    obtain ⟨k, c⟩ := e
    have hw := h
    rw [Mem.wf_cons] at hw
    simp only [Bool.and_eq_true] at hw
    unfold Mem.write
    split
    · split
      · exact h
      · rw [Mem.wf_cons]
        simp only [Bool.and_eq_true, bne_iff_ne, ne_eq]
        exact ⟨⟨‹_›, by simp [Mem.above]; omega⟩, h⟩
    · split
      · split
        · exact hw.2
        · subst_vars
          rw [Mem.wf_cons]
          simp only [Bool.and_eq_true, bne_iff_ne, ne_eq]
          exact ⟨⟨‹_›, hw.1.2⟩, hw.2⟩
      · rw [Mem.wf_cons]
        simp only [Bool.and_eq_true]
        exact ⟨⟨hw.1.1, Mem.above_write hw.1.2 hw.2 (by omega)⟩, ih hw.2⟩

/-- Writing bytes keeps the canonical form. -/
theorem Mem.wf_writeBytes {m : Mem} (a : Nat) (bs : List Byte) (h : Mem.wf m = true) :
    Mem.wf (Mem.writeBytes m a bs) = true := by
  induction bs generalizing m a with
  | nil => exact h
  | cons b bs ih => exact ih (a + 1) (Mem.wf_write a b h)

/-- Writing a number keeps the canonical form. -/
theorem Mem.wf_writeNat {m : Mem} (a n x : Nat) (h : Mem.wf m = true) : Mem.wf (Mem.writeNat m a n x) = true :=
  Mem.wf_writeBytes a _ h

/-- A read after a write: the byte written, and every other byte as before. -/
theorem Mem.read_write {m : Mem} (a : Nat) (b : Byte) (c : Nat) (h : Mem.wf m = true) :
    Mem.read (Mem.write m a b) c = if a = c then b else Mem.read m c := by
  induction m with
  | nil =>
    unfold Mem.write
    split
    · subst_vars; simp [Mem.read]
    · simp [Mem.read]
  | cons e m ih =>
    obtain ⟨k, d⟩ := e
    have hw := h
    rw [Mem.wf_cons] at hw
    simp only [Bool.and_eq_true] at hw
    unfold Mem.write
    split
    · split
      · subst_vars
        by_cases hc : a = c
        · subst hc; rw [if_pos rfl, Mem.read, if_neg (by omega), if_pos (by omega)]
        · rw [if_neg hc]
      · rw [Mem.read]
        split
        · rfl
        · split
          · rw [Mem.read, if_neg (by omega), if_pos (by omega)]
          · rfl
    · split
      · subst_vars
        split
        · subst_vars
          by_cases hc : k = c
          · subst hc; rw [if_pos rfl, Mem.read_below hw.1.2 (by omega)]
          · rw [if_neg hc, Mem.read, if_neg hc]
            split
            · exact Mem.read_below hw.1.2 (by omega)
            · rfl
        · rw [Mem.read, Mem.read]
          by_cases hc : k = c
          · simp [hc]
          · simp [hc]
      · rw [Mem.read, Mem.read, ih hw.2]
        by_cases hc : k = c
        · subst hc; rw [if_pos rfl, if_neg (by omega), if_pos rfl]
        · rw [if_neg hc, if_neg hc]
          by_cases hl : c < k
          · rw [if_pos hl, if_pos hl, if_neg (by omega)]
          · rw [if_neg hl, if_neg hl]

/-- A write of bytes leaves every byte outside them as it was. -/
theorem Mem.read_writeBytes_other {m : Mem} (a : Nat) (bs : List Byte) (c : Nat) (h : Mem.wf m = true)
    (hc : c < a ∨ a + bs.length ≤ c) : Mem.read (Mem.writeBytes m a bs) c = Mem.read m c := by
  induction bs generalizing m a with
  | nil => rfl
  | cons b bs ih =>
    rw [List.length_cons] at hc
    rw [Mem.writeBytes, ih (a + 1) (Mem.wf_write a b h) (by omega), Mem.read_write a b c h, if_neg (by omega)]

/-- A read finds the byte written. -/
theorem Mem.read_writeBytes {m : Mem} (a : Nat) (bs : List Byte) (i : Nat) (h : Mem.wf m = true)
    (hi : i < bs.length) : Mem.read (Mem.writeBytes m a bs) (a + i) = bs[i] := by
  induction bs generalizing m a i with
  | nil => exact absurd hi (by simp)
  | cons b bs ih =>
    rw [Mem.writeBytes]
    cases i with
    | zero =>
      show Mem.read (Mem.writeBytes (Mem.write m a b) (a + 1) bs) a = b
      rw [Mem.read_writeBytes_other (a + 1) bs a (Mem.wf_write a b h) (by omega), Mem.read_write a b a h, if_pos rfl]
    | succ i =>
      rw [show a + (i + 1) = a + 1 + i by omega, ih (a + 1) i (Mem.wf_write a b h) (by simpa using hi)]
      simp

theorem Mem.readBytes_length (m : Mem) (a n : Nat) : (Mem.readBytes m a n).length = n := by
  induction n generalizing a with
  | zero => rfl
  | succ n ih => simp [Mem.readBytes, ih]

theorem Mem.readBytes_get (m : Mem) (a n i : Nat) (h : i < n) :
    (Mem.readBytes m a n)[i]'(by rw [Mem.readBytes_length]; exact h) = Mem.read m (a + i) := by
  induction n generalizing a i with
  | zero => exact absurd h (by omega)
  | succ n ih =>
    cases i with
    | zero => simp [Mem.readBytes]
    | succ i => simp only [Mem.readBytes, List.getElem_cons_succ]; rw [ih (a + 1) i (by omega)]; congr 1; omega

/-- Bytes read back where bytes were written. -/
theorem Mem.readBytes_writeBytes {m : Mem} (a : Nat) (bs : List Byte) (h : Mem.wf m = true) :
    Mem.readBytes (Mem.writeBytes m a bs) a bs.length = bs := by
  apply List.ext_getElem
  · exact Mem.readBytes_length _ _ _
  · intro i h₁ h₂
    rw [Mem.readBytes_get _ _ _ i h₂, Mem.read_writeBytes a bs i h h₂]

theorem leBytes_length (n x : Nat) : (leBytes n x).length = n := by
  induction n generalizing x with
  | zero => rfl
  | succ n ih => simp [leBytes, ih]

theorem leNat_leBytes (n x : Nat) : leNat (leBytes n x) = x % 2 ^ (8 * n) := by
  induction n generalizing x with
  | zero => simp [leBytes, leNat]; omega
  | succ n ih =>
    rw [leBytes, leNat, ih, BitVec.toNat_ofNat, show 8 * (n + 1) = 8 + 8 * n by omega, Nat.pow_add,
      Nat.mod_mul (x := x)]

/-- A number read back where it was written: its low bytes. -/
theorem Mem.readNat_writeNat {m : Mem} (a n x : Nat) (h : Mem.wf m = true) :
    Mem.readNat (Mem.writeNat m a n x) a n = x % 2 ^ (8 * n) := by
  have := Mem.readBytes_writeBytes a (leBytes n x) h
  rw [leBytes_length] at this
  rw [Mem.readNat, Mem.writeNat, this, leNat_leBytes]

end Sys2Proof.Machine
end

