-- ==== Sys2Proof/Laws/Tab.lean ====
section
/-! SUPPORT. Sparse tables: what reading finds after an entry is set or erased. -/

namespace Sys2Proof.Machine

variable {α : Type}

@[simp] theorem Tab.get?_nil (n : Nat) : Tab.get? ([] : Tab α) n = none := rfl

theorem Tab.get?_cons (k : Nat) (v : α) (t : Tab α) (n : Nat) :
    Tab.get? ((k, v) :: t) n = if k = n then some v else Tab.get? t n := rfl

/-- Setting an entry changes that entry alone. -/
theorem Tab.get?_set (t : Tab α) (n : Nat) (v : α) (m : Nat) :
    Tab.get? (Tab.set t n v) m = if n = m then some v else Tab.get? t m := by
  induction t with
  | nil => rfl
  | cons e t ih =>
    obtain ⟨k, w⟩ := e
    unfold Tab.set
    split
    · rfl
    · split
      · subst_vars; simp only [Tab.get?_cons]; split <;> rfl
      · simp only [Tab.get?_cons, ih]
        split
        · subst_vars; rw [if_neg ‹_›]
        · rfl

@[simp] theorem Tab.get?_set_same (t : Tab α) (n : Nat) (v : α) : Tab.get? (Tab.set t n v) n = some v := by
  simp [Tab.get?_set]

theorem Tab.get?_set_other (t : Tab α) {n m : Nat} (v : α) (h : m ≠ n) :
    Tab.get? (Tab.set t n v) m = Tab.get? t m := by
  rw [Tab.get?_set, if_neg (Ne.symm h)]

/-- Erasing an entry removes that entry alone. -/
theorem Tab.get?_erase (t : Tab α) (n m : Nat) :
    Tab.get? (Tab.erase t n) m = if n = m then none else Tab.get? t m := by
  induction t with
  | nil => simp [Tab.erase]
  | cons e t ih =>
    obtain ⟨k, w⟩ := e
    rw [Tab.erase] at ih ⊢
    by_cases h : k = n
    · subst h
      rw [List.filter_cons_of_neg (by simp), ih, Tab.get?_cons]
      split <;> rfl
    · rw [List.filter_cons_of_pos (by simpa using h), Tab.get?_cons, Tab.get?_cons, ih]
      split
      · subst_vars; rw [if_neg (Ne.symm h)]
      · rfl

theorem Tab.getD_set (t : Tab α) (n : Nat) (v : α) (m : Nat) (d : α) :
    Tab.getD (Tab.set t n v) m d = if n = m then v else Tab.getD t m d := by
  unfold Tab.getD; rw [Tab.get?_set]; split <;> rfl

end Sys2Proof.Machine
end

