-- ==== Sys2Proof/Laws/State.lean ====
section
/-! SUPPORT. One lemma per field per update of the state and of a task, and what the tables of the state read after an
update. -/

namespace Sys2Proof.Machine

/-! ### State.setCore -/

@[simp] theorem State.setCore_focus (s : State) (k : Nat) (x : Core) : (s.setCore k x).focus = s.focus := rfl
@[simp] theorem State.setCore_ctxs (s : State) (k : Nat) (x : Core) : (s.setCore k x).ctxs = s.ctxs := rfl
@[simp] theorem State.setCore_banks (s : State) (k : Nat) (x : Core) : (s.setCore k x).banks = s.banks := rfl
@[simp] theorem State.setCore_clusters (s : State) (k : Nat) (x : Core) : (s.setCore k x).clusters = s.clusters := rfl
@[simp] theorem State.setCore_mem (s : State) (k : Nat) (x : Core) : (s.setCore k x).mem = s.mem := rfl
@[simp] theorem State.setCore_spad (s : State) (k : Nat) (x : Core) : (s.setCore k x).spad = s.spad := rfl
@[simp] theorem State.setCore_poison (s : State) (k : Nat) (x : Core) : (s.setCore k x).poison = s.poison := rfl
@[simp] theorem State.setCore_directory (s : State) (k : Nat) (x : Core) : (s.setCore k x).directory = s.directory := rfl
@[simp] theorem State.setCore_regions (s : State) (k : Nat) (x : Core) : (s.setCore k x).regions = s.regions := rfl
@[simp] theorem State.setCore_chains (s : State) (k : Nat) (x : Core) : (s.setCore k x).chains = s.chains := rfl
@[simp] theorem State.setCore_fabric (s : State) (k : Nat) (x : Core) : (s.setCore k x).fabric = s.fabric := rfl
@[simp] theorem State.setCore_stops (s : State) (k : Nat) (x : Core) : (s.setCore k x).stops = s.stops := rfl
@[simp] theorem State.setCore_asks (s : State) (k : Nat) (x : Core) : (s.setCore k x).asks = s.asks := rfl
@[simp] theorem State.setCore_notes (s : State) (k : Nat) (x : Core) : (s.setCore k x).notes = s.notes := rfl
@[simp] theorem State.setCore_returns (s : State) (k : Nat) (x : Core) : (s.setCore k x).returns = s.returns := rfl
@[simp] theorem State.setCore_borrows (s : State) (k : Nat) (x : Core) : (s.setCore k x).borrows = s.borrows := rfl
@[simp] theorem State.setCore_handovers (s : State) (k : Nat) (x : Core) : (s.setCore k x).handovers = s.handovers := rfl
@[simp] theorem State.setCore_kills (s : State) (k : Nat) (x : Core) : (s.setCore k x).kills = s.kills := rfl
@[simp] theorem State.setCore_saved (s : State) (k : Nat) (x : Core) : (s.setCore k x).saved = s.saved := rfl
@[simp] theorem State.setCore_invals (s : State) (k : Nat) (x : Core) : (s.setCore k x).invals = s.invals := rfl
@[simp] theorem State.setCore_launches (s : State) (k : Nat) (x : Core) : (s.setCore k x).launches = s.launches := rfl
@[simp] theorem State.setCore_queues (s : State) (k : Nat) (x : Core) : (s.setCore k x).queues = s.queues := rfl
@[simp] theorem State.setCore_wsImage (s : State) (k : Nat) (x : Core) : (s.setCore k x).wsImage = s.wsImage := rfl
@[simp] theorem State.setCore_refreshBank (s : State) (k : Nat) (x : Core) : (s.setCore k x).refreshBank = s.refreshBank := rfl
@[simp] theorem State.setCore_stalls (s : State) (k : Nat) (x : Core) : (s.setCore k x).stalls = s.stalls := rfl
@[simp] theorem State.setCore_transfers (s : State) (k : Nat) (x : Core) : (s.setCore k x).transfers = s.transfers := rfl
@[simp] theorem State.setCore_sent (s : State) (k : Nat) (x : Core) : (s.setCore k x).sent = s.sent := rfl
@[simp] theorem State.setCore_owed (s : State) (k : Nat) (x : Core) : (s.setCore k x).owed = s.owed := rfl
@[simp] theorem State.setCore_posted (s : State) (k : Nat) (x : Core) : (s.setCore k x).posted = s.posted := rfl
@[simp] theorem State.setCore_inbound (s : State) (k : Nat) (x : Core) : (s.setCore k x).inbound = s.inbound := rfl
@[simp] theorem State.setCore_linked (s : State) (k : Nat) (x : Core) : (s.setCore k x).linked = s.linked := rfl
@[simp] theorem State.setCore_msix (s : State) (k : Nat) (x : Core) : (s.setCore k x).msix = s.msix := rfl
@[simp] theorem State.setCore_notices (s : State) (k : Nat) (x : Core) : (s.setCore k x).notices = s.notices := rfl
@[simp] theorem State.setCore_noCredit (s : State) (k : Nat) (x : Core) : (s.setCore k x).noCredit = s.noCredit := rfl
@[simp] theorem State.setCore_watches (s : State) (k : Nat) (x : Core) : (s.setCore k x).watches = s.watches := rfl
@[simp] theorem State.setCore_hits (s : State) (k : Nat) (x : Core) : (s.setCore k x).hits = s.hits := rfl
@[simp] theorem State.setCore_relays (s : State) (k : Nat) (x : Core) : (s.setCore k x).relays = s.relays := rfl
@[simp] theorem State.setCore_channels (s : State) (k : Nat) (x : Core) : (s.setCore k x).channels = s.channels := rfl
@[simp] theorem State.setCore_control (s : State) (k : Nat) (x : Core) : (s.setCore k x).control = s.control := rfl
@[simp] theorem State.setCore_base (s : State) (k : Nat) (x : Core) : (s.setCore k x).base = s.base := rfl
@[simp] theorem State.setCore_cfg (s : State) (k : Nat) (x : Core) : (s.setCore k x).cfg = s.cfg := rfl
@[simp] theorem State.setCore_stime (s : State) (k : Nat) (x : Core) : (s.setCore k x).stime = s.stime := rfl
@[simp] theorem State.setCore_slew (s : State) (k : Nat) (x : Core) : (s.setCore k x).slew = s.slew := rfl
@[simp] theorem State.setCore_slewPart (s : State) (k : Nat) (x : Core) : (s.setCore k x).slewPart = s.slewPart := rfl
@[simp] theorem State.setCore_epoch (s : State) (k : Nat) (x : Core) : (s.setCore k x).epoch = s.epoch := rfl
@[simp] theorem State.setCore_cursor (s : State) (k : Nat) (x : Core) : (s.setCore k x).cursor = s.cursor := rfl
@[simp] theorem State.setCore_nextId (s : State) (k : Nat) (x : Core) : (s.setCore k x).nextId = s.nextId := rfl
@[simp] theorem State.setCore_free (s : State) (k : Nat) (x : Core) : (s.setCore k x).free = s.free := rfl
@[simp] theorem State.setCore_sched (s : State) (k : Nat) (x : Core) : (s.setCore k x).sched = s.sched := rfl

/-! ### State.setCluster -/

@[simp] theorem State.setCluster_focus (s : State) (n : Nat) (x : Cluster) : (s.setCluster n x).focus = s.focus := rfl
@[simp] theorem State.setCluster_ctxs (s : State) (n : Nat) (x : Cluster) : (s.setCluster n x).ctxs = s.ctxs := rfl
@[simp] theorem State.setCluster_banks (s : State) (n : Nat) (x : Cluster) : (s.setCluster n x).banks = s.banks := rfl
@[simp] theorem State.setCluster_cores (s : State) (n : Nat) (x : Cluster) : (s.setCluster n x).cores = s.cores := rfl
@[simp] theorem State.setCluster_mem (s : State) (n : Nat) (x : Cluster) : (s.setCluster n x).mem = s.mem := rfl
@[simp] theorem State.setCluster_spad (s : State) (n : Nat) (x : Cluster) : (s.setCluster n x).spad = s.spad := rfl
@[simp] theorem State.setCluster_poison (s : State) (n : Nat) (x : Cluster) : (s.setCluster n x).poison = s.poison := rfl
@[simp] theorem State.setCluster_directory (s : State) (n : Nat) (x : Cluster) : (s.setCluster n x).directory = s.directory := rfl
@[simp] theorem State.setCluster_regions (s : State) (n : Nat) (x : Cluster) : (s.setCluster n x).regions = s.regions := rfl
@[simp] theorem State.setCluster_chains (s : State) (n : Nat) (x : Cluster) : (s.setCluster n x).chains = s.chains := rfl
@[simp] theorem State.setCluster_fabric (s : State) (n : Nat) (x : Cluster) : (s.setCluster n x).fabric = s.fabric := rfl
@[simp] theorem State.setCluster_stops (s : State) (n : Nat) (x : Cluster) : (s.setCluster n x).stops = s.stops := rfl
@[simp] theorem State.setCluster_asks (s : State) (n : Nat) (x : Cluster) : (s.setCluster n x).asks = s.asks := rfl
@[simp] theorem State.setCluster_notes (s : State) (n : Nat) (x : Cluster) : (s.setCluster n x).notes = s.notes := rfl
@[simp] theorem State.setCluster_returns (s : State) (n : Nat) (x : Cluster) : (s.setCluster n x).returns = s.returns := rfl
@[simp] theorem State.setCluster_borrows (s : State) (n : Nat) (x : Cluster) : (s.setCluster n x).borrows = s.borrows := rfl
@[simp] theorem State.setCluster_handovers (s : State) (n : Nat) (x : Cluster) : (s.setCluster n x).handovers = s.handovers := rfl
@[simp] theorem State.setCluster_kills (s : State) (n : Nat) (x : Cluster) : (s.setCluster n x).kills = s.kills := rfl
@[simp] theorem State.setCluster_saved (s : State) (n : Nat) (x : Cluster) : (s.setCluster n x).saved = s.saved := rfl
@[simp] theorem State.setCluster_invals (s : State) (n : Nat) (x : Cluster) : (s.setCluster n x).invals = s.invals := rfl
@[simp] theorem State.setCluster_launches (s : State) (n : Nat) (x : Cluster) : (s.setCluster n x).launches = s.launches := rfl
@[simp] theorem State.setCluster_queues (s : State) (n : Nat) (x : Cluster) : (s.setCluster n x).queues = s.queues := rfl
@[simp] theorem State.setCluster_wsImage (s : State) (n : Nat) (x : Cluster) : (s.setCluster n x).wsImage = s.wsImage := rfl
@[simp] theorem State.setCluster_refreshBank (s : State) (n : Nat) (x : Cluster) : (s.setCluster n x).refreshBank = s.refreshBank := rfl
@[simp] theorem State.setCluster_stalls (s : State) (n : Nat) (x : Cluster) : (s.setCluster n x).stalls = s.stalls := rfl
@[simp] theorem State.setCluster_transfers (s : State) (n : Nat) (x : Cluster) : (s.setCluster n x).transfers = s.transfers := rfl
@[simp] theorem State.setCluster_sent (s : State) (n : Nat) (x : Cluster) : (s.setCluster n x).sent = s.sent := rfl
@[simp] theorem State.setCluster_owed (s : State) (n : Nat) (x : Cluster) : (s.setCluster n x).owed = s.owed := rfl
@[simp] theorem State.setCluster_posted (s : State) (n : Nat) (x : Cluster) : (s.setCluster n x).posted = s.posted := rfl
@[simp] theorem State.setCluster_inbound (s : State) (n : Nat) (x : Cluster) : (s.setCluster n x).inbound = s.inbound := rfl
@[simp] theorem State.setCluster_linked (s : State) (n : Nat) (x : Cluster) : (s.setCluster n x).linked = s.linked := rfl
@[simp] theorem State.setCluster_msix (s : State) (n : Nat) (x : Cluster) : (s.setCluster n x).msix = s.msix := rfl
@[simp] theorem State.setCluster_notices (s : State) (n : Nat) (x : Cluster) : (s.setCluster n x).notices = s.notices := rfl
@[simp] theorem State.setCluster_noCredit (s : State) (n : Nat) (x : Cluster) : (s.setCluster n x).noCredit = s.noCredit := rfl
@[simp] theorem State.setCluster_watches (s : State) (n : Nat) (x : Cluster) : (s.setCluster n x).watches = s.watches := rfl
@[simp] theorem State.setCluster_hits (s : State) (n : Nat) (x : Cluster) : (s.setCluster n x).hits = s.hits := rfl
@[simp] theorem State.setCluster_relays (s : State) (n : Nat) (x : Cluster) : (s.setCluster n x).relays = s.relays := rfl
@[simp] theorem State.setCluster_channels (s : State) (n : Nat) (x : Cluster) : (s.setCluster n x).channels = s.channels := rfl
@[simp] theorem State.setCluster_control (s : State) (n : Nat) (x : Cluster) : (s.setCluster n x).control = s.control := rfl
@[simp] theorem State.setCluster_base (s : State) (n : Nat) (x : Cluster) : (s.setCluster n x).base = s.base := rfl
@[simp] theorem State.setCluster_cfg (s : State) (n : Nat) (x : Cluster) : (s.setCluster n x).cfg = s.cfg := rfl
@[simp] theorem State.setCluster_stime (s : State) (n : Nat) (x : Cluster) : (s.setCluster n x).stime = s.stime := rfl
@[simp] theorem State.setCluster_slew (s : State) (n : Nat) (x : Cluster) : (s.setCluster n x).slew = s.slew := rfl
@[simp] theorem State.setCluster_slewPart (s : State) (n : Nat) (x : Cluster) : (s.setCluster n x).slewPart = s.slewPart := rfl
@[simp] theorem State.setCluster_epoch (s : State) (n : Nat) (x : Cluster) : (s.setCluster n x).epoch = s.epoch := rfl
@[simp] theorem State.setCluster_cursor (s : State) (n : Nat) (x : Cluster) : (s.setCluster n x).cursor = s.cursor := rfl
@[simp] theorem State.setCluster_nextId (s : State) (n : Nat) (x : Cluster) : (s.setCluster n x).nextId = s.nextId := rfl
@[simp] theorem State.setCluster_free (s : State) (n : Nat) (x : Cluster) : (s.setCluster n x).free = s.free := rfl
@[simp] theorem State.setCluster_sched (s : State) (n : Nat) (x : Cluster) : (s.setCluster n x).sched = s.sched := rfl

/-! ### State.setQueue -/

@[simp] theorem State.setQueue_focus (s : State) (q : Nat) (x : Queue) : (s.setQueue q x).focus = s.focus := rfl
@[simp] theorem State.setQueue_ctxs (s : State) (q : Nat) (x : Queue) : (s.setQueue q x).ctxs = s.ctxs := rfl
@[simp] theorem State.setQueue_banks (s : State) (q : Nat) (x : Queue) : (s.setQueue q x).banks = s.banks := rfl
@[simp] theorem State.setQueue_cores (s : State) (q : Nat) (x : Queue) : (s.setQueue q x).cores = s.cores := rfl
@[simp] theorem State.setQueue_clusters (s : State) (q : Nat) (x : Queue) : (s.setQueue q x).clusters = s.clusters := rfl
@[simp] theorem State.setQueue_mem (s : State) (q : Nat) (x : Queue) : (s.setQueue q x).mem = s.mem := rfl
@[simp] theorem State.setQueue_spad (s : State) (q : Nat) (x : Queue) : (s.setQueue q x).spad = s.spad := rfl
@[simp] theorem State.setQueue_poison (s : State) (q : Nat) (x : Queue) : (s.setQueue q x).poison = s.poison := rfl
@[simp] theorem State.setQueue_directory (s : State) (q : Nat) (x : Queue) : (s.setQueue q x).directory = s.directory := rfl
@[simp] theorem State.setQueue_regions (s : State) (q : Nat) (x : Queue) : (s.setQueue q x).regions = s.regions := rfl
@[simp] theorem State.setQueue_chains (s : State) (q : Nat) (x : Queue) : (s.setQueue q x).chains = s.chains := rfl
@[simp] theorem State.setQueue_fabric (s : State) (q : Nat) (x : Queue) : (s.setQueue q x).fabric = s.fabric := rfl
@[simp] theorem State.setQueue_stops (s : State) (q : Nat) (x : Queue) : (s.setQueue q x).stops = s.stops := rfl
@[simp] theorem State.setQueue_asks (s : State) (q : Nat) (x : Queue) : (s.setQueue q x).asks = s.asks := rfl
@[simp] theorem State.setQueue_notes (s : State) (q : Nat) (x : Queue) : (s.setQueue q x).notes = s.notes := rfl
@[simp] theorem State.setQueue_returns (s : State) (q : Nat) (x : Queue) : (s.setQueue q x).returns = s.returns := rfl
@[simp] theorem State.setQueue_borrows (s : State) (q : Nat) (x : Queue) : (s.setQueue q x).borrows = s.borrows := rfl
@[simp] theorem State.setQueue_handovers (s : State) (q : Nat) (x : Queue) : (s.setQueue q x).handovers = s.handovers := rfl
@[simp] theorem State.setQueue_kills (s : State) (q : Nat) (x : Queue) : (s.setQueue q x).kills = s.kills := rfl
@[simp] theorem State.setQueue_saved (s : State) (q : Nat) (x : Queue) : (s.setQueue q x).saved = s.saved := rfl
@[simp] theorem State.setQueue_invals (s : State) (q : Nat) (x : Queue) : (s.setQueue q x).invals = s.invals := rfl
@[simp] theorem State.setQueue_launches (s : State) (q : Nat) (x : Queue) : (s.setQueue q x).launches = s.launches := rfl
@[simp] theorem State.setQueue_wsImage (s : State) (q : Nat) (x : Queue) : (s.setQueue q x).wsImage = s.wsImage := rfl
@[simp] theorem State.setQueue_refreshBank (s : State) (q : Nat) (x : Queue) : (s.setQueue q x).refreshBank = s.refreshBank := rfl
@[simp] theorem State.setQueue_stalls (s : State) (q : Nat) (x : Queue) : (s.setQueue q x).stalls = s.stalls := rfl
@[simp] theorem State.setQueue_transfers (s : State) (q : Nat) (x : Queue) : (s.setQueue q x).transfers = s.transfers := rfl
@[simp] theorem State.setQueue_sent (s : State) (q : Nat) (x : Queue) : (s.setQueue q x).sent = s.sent := rfl
@[simp] theorem State.setQueue_owed (s : State) (q : Nat) (x : Queue) : (s.setQueue q x).owed = s.owed := rfl
@[simp] theorem State.setQueue_posted (s : State) (q : Nat) (x : Queue) : (s.setQueue q x).posted = s.posted := rfl
@[simp] theorem State.setQueue_inbound (s : State) (q : Nat) (x : Queue) : (s.setQueue q x).inbound = s.inbound := rfl
@[simp] theorem State.setQueue_linked (s : State) (q : Nat) (x : Queue) : (s.setQueue q x).linked = s.linked := rfl
@[simp] theorem State.setQueue_msix (s : State) (q : Nat) (x : Queue) : (s.setQueue q x).msix = s.msix := rfl
@[simp] theorem State.setQueue_notices (s : State) (q : Nat) (x : Queue) : (s.setQueue q x).notices = s.notices := rfl
@[simp] theorem State.setQueue_noCredit (s : State) (q : Nat) (x : Queue) : (s.setQueue q x).noCredit = s.noCredit := rfl
@[simp] theorem State.setQueue_watches (s : State) (q : Nat) (x : Queue) : (s.setQueue q x).watches = s.watches := rfl
@[simp] theorem State.setQueue_hits (s : State) (q : Nat) (x : Queue) : (s.setQueue q x).hits = s.hits := rfl
@[simp] theorem State.setQueue_relays (s : State) (q : Nat) (x : Queue) : (s.setQueue q x).relays = s.relays := rfl
@[simp] theorem State.setQueue_channels (s : State) (q : Nat) (x : Queue) : (s.setQueue q x).channels = s.channels := rfl
@[simp] theorem State.setQueue_control (s : State) (q : Nat) (x : Queue) : (s.setQueue q x).control = s.control := rfl
@[simp] theorem State.setQueue_base (s : State) (q : Nat) (x : Queue) : (s.setQueue q x).base = s.base := rfl
@[simp] theorem State.setQueue_cfg (s : State) (q : Nat) (x : Queue) : (s.setQueue q x).cfg = s.cfg := rfl
@[simp] theorem State.setQueue_stime (s : State) (q : Nat) (x : Queue) : (s.setQueue q x).stime = s.stime := rfl
@[simp] theorem State.setQueue_slew (s : State) (q : Nat) (x : Queue) : (s.setQueue q x).slew = s.slew := rfl
@[simp] theorem State.setQueue_slewPart (s : State) (q : Nat) (x : Queue) : (s.setQueue q x).slewPart = s.slewPart := rfl
@[simp] theorem State.setQueue_epoch (s : State) (q : Nat) (x : Queue) : (s.setQueue q x).epoch = s.epoch := rfl
@[simp] theorem State.setQueue_cursor (s : State) (q : Nat) (x : Queue) : (s.setQueue q x).cursor = s.cursor := rfl
@[simp] theorem State.setQueue_nextId (s : State) (q : Nat) (x : Queue) : (s.setQueue q x).nextId = s.nextId := rfl
@[simp] theorem State.setQueue_free (s : State) (q : Nat) (x : Queue) : (s.setQueue q x).free = s.free := rfl
@[simp] theorem State.setQueue_sched (s : State) (q : Nat) (x : Queue) : (s.setQueue q x).sched = s.sched := rfl

/-! ### State.setChannel -/

@[simp] theorem State.setChannel_focus (s : State) (i : Nat) (x : Channel) : (s.setChannel i x).focus = s.focus := rfl
@[simp] theorem State.setChannel_ctxs (s : State) (i : Nat) (x : Channel) : (s.setChannel i x).ctxs = s.ctxs := rfl
@[simp] theorem State.setChannel_banks (s : State) (i : Nat) (x : Channel) : (s.setChannel i x).banks = s.banks := rfl
@[simp] theorem State.setChannel_cores (s : State) (i : Nat) (x : Channel) : (s.setChannel i x).cores = s.cores := rfl
@[simp] theorem State.setChannel_clusters (s : State) (i : Nat) (x : Channel) : (s.setChannel i x).clusters = s.clusters := rfl
@[simp] theorem State.setChannel_mem (s : State) (i : Nat) (x : Channel) : (s.setChannel i x).mem = s.mem := rfl
@[simp] theorem State.setChannel_spad (s : State) (i : Nat) (x : Channel) : (s.setChannel i x).spad = s.spad := rfl
@[simp] theorem State.setChannel_poison (s : State) (i : Nat) (x : Channel) : (s.setChannel i x).poison = s.poison := rfl
@[simp] theorem State.setChannel_directory (s : State) (i : Nat) (x : Channel) : (s.setChannel i x).directory = s.directory := rfl
@[simp] theorem State.setChannel_regions (s : State) (i : Nat) (x : Channel) : (s.setChannel i x).regions = s.regions := rfl
@[simp] theorem State.setChannel_chains (s : State) (i : Nat) (x : Channel) : (s.setChannel i x).chains = s.chains := rfl
@[simp] theorem State.setChannel_fabric (s : State) (i : Nat) (x : Channel) : (s.setChannel i x).fabric = s.fabric := rfl
@[simp] theorem State.setChannel_stops (s : State) (i : Nat) (x : Channel) : (s.setChannel i x).stops = s.stops := rfl
@[simp] theorem State.setChannel_asks (s : State) (i : Nat) (x : Channel) : (s.setChannel i x).asks = s.asks := rfl
@[simp] theorem State.setChannel_notes (s : State) (i : Nat) (x : Channel) : (s.setChannel i x).notes = s.notes := rfl
@[simp] theorem State.setChannel_returns (s : State) (i : Nat) (x : Channel) : (s.setChannel i x).returns = s.returns := rfl
@[simp] theorem State.setChannel_borrows (s : State) (i : Nat) (x : Channel) : (s.setChannel i x).borrows = s.borrows := rfl
@[simp] theorem State.setChannel_handovers (s : State) (i : Nat) (x : Channel) : (s.setChannel i x).handovers = s.handovers := rfl
@[simp] theorem State.setChannel_kills (s : State) (i : Nat) (x : Channel) : (s.setChannel i x).kills = s.kills := rfl
@[simp] theorem State.setChannel_saved (s : State) (i : Nat) (x : Channel) : (s.setChannel i x).saved = s.saved := rfl
@[simp] theorem State.setChannel_invals (s : State) (i : Nat) (x : Channel) : (s.setChannel i x).invals = s.invals := rfl
@[simp] theorem State.setChannel_launches (s : State) (i : Nat) (x : Channel) : (s.setChannel i x).launches = s.launches := rfl
@[simp] theorem State.setChannel_queues (s : State) (i : Nat) (x : Channel) : (s.setChannel i x).queues = s.queues := rfl
@[simp] theorem State.setChannel_wsImage (s : State) (i : Nat) (x : Channel) : (s.setChannel i x).wsImage = s.wsImage := rfl
@[simp] theorem State.setChannel_refreshBank (s : State) (i : Nat) (x : Channel) : (s.setChannel i x).refreshBank = s.refreshBank := rfl
@[simp] theorem State.setChannel_stalls (s : State) (i : Nat) (x : Channel) : (s.setChannel i x).stalls = s.stalls := rfl
@[simp] theorem State.setChannel_transfers (s : State) (i : Nat) (x : Channel) : (s.setChannel i x).transfers = s.transfers := rfl
@[simp] theorem State.setChannel_sent (s : State) (i : Nat) (x : Channel) : (s.setChannel i x).sent = s.sent := rfl
@[simp] theorem State.setChannel_owed (s : State) (i : Nat) (x : Channel) : (s.setChannel i x).owed = s.owed := rfl
@[simp] theorem State.setChannel_posted (s : State) (i : Nat) (x : Channel) : (s.setChannel i x).posted = s.posted := rfl
@[simp] theorem State.setChannel_inbound (s : State) (i : Nat) (x : Channel) : (s.setChannel i x).inbound = s.inbound := rfl
@[simp] theorem State.setChannel_linked (s : State) (i : Nat) (x : Channel) : (s.setChannel i x).linked = s.linked := rfl
@[simp] theorem State.setChannel_msix (s : State) (i : Nat) (x : Channel) : (s.setChannel i x).msix = s.msix := rfl
@[simp] theorem State.setChannel_notices (s : State) (i : Nat) (x : Channel) : (s.setChannel i x).notices = s.notices := rfl
@[simp] theorem State.setChannel_noCredit (s : State) (i : Nat) (x : Channel) : (s.setChannel i x).noCredit = s.noCredit := rfl
@[simp] theorem State.setChannel_watches (s : State) (i : Nat) (x : Channel) : (s.setChannel i x).watches = s.watches := rfl
@[simp] theorem State.setChannel_hits (s : State) (i : Nat) (x : Channel) : (s.setChannel i x).hits = s.hits := rfl
@[simp] theorem State.setChannel_relays (s : State) (i : Nat) (x : Channel) : (s.setChannel i x).relays = s.relays := rfl
@[simp] theorem State.setChannel_control (s : State) (i : Nat) (x : Channel) : (s.setChannel i x).control = s.control := rfl
@[simp] theorem State.setChannel_base (s : State) (i : Nat) (x : Channel) : (s.setChannel i x).base = s.base := rfl
@[simp] theorem State.setChannel_cfg (s : State) (i : Nat) (x : Channel) : (s.setChannel i x).cfg = s.cfg := rfl
@[simp] theorem State.setChannel_stime (s : State) (i : Nat) (x : Channel) : (s.setChannel i x).stime = s.stime := rfl
@[simp] theorem State.setChannel_slew (s : State) (i : Nat) (x : Channel) : (s.setChannel i x).slew = s.slew := rfl
@[simp] theorem State.setChannel_slewPart (s : State) (i : Nat) (x : Channel) : (s.setChannel i x).slewPart = s.slewPart := rfl
@[simp] theorem State.setChannel_epoch (s : State) (i : Nat) (x : Channel) : (s.setChannel i x).epoch = s.epoch := rfl
@[simp] theorem State.setChannel_cursor (s : State) (i : Nat) (x : Channel) : (s.setChannel i x).cursor = s.cursor := rfl
@[simp] theorem State.setChannel_nextId (s : State) (i : Nat) (x : Channel) : (s.setChannel i x).nextId = s.nextId := rfl
@[simp] theorem State.setChannel_free (s : State) (i : Nat) (x : Channel) : (s.setChannel i x).free = s.free := rfl
@[simp] theorem State.setChannel_sched (s : State) (i : Nat) (x : Channel) : (s.setChannel i x).sched = s.sched := rfl

/-! ### State.setBank -/

@[simp] theorem State.setBank_focus (s : State) (k b : Nat) (x : Bank) : (s.setBank k b x).focus = s.focus := rfl
@[simp] theorem State.setBank_ctxs (s : State) (k b : Nat) (x : Bank) : (s.setBank k b x).ctxs = s.ctxs := rfl
@[simp] theorem State.setBank_cores (s : State) (k b : Nat) (x : Bank) : (s.setBank k b x).cores = s.cores := rfl
@[simp] theorem State.setBank_clusters (s : State) (k b : Nat) (x : Bank) : (s.setBank k b x).clusters = s.clusters := rfl
@[simp] theorem State.setBank_mem (s : State) (k b : Nat) (x : Bank) : (s.setBank k b x).mem = s.mem := rfl
@[simp] theorem State.setBank_spad (s : State) (k b : Nat) (x : Bank) : (s.setBank k b x).spad = s.spad := rfl
@[simp] theorem State.setBank_poison (s : State) (k b : Nat) (x : Bank) : (s.setBank k b x).poison = s.poison := rfl
@[simp] theorem State.setBank_directory (s : State) (k b : Nat) (x : Bank) : (s.setBank k b x).directory = s.directory := rfl
@[simp] theorem State.setBank_regions (s : State) (k b : Nat) (x : Bank) : (s.setBank k b x).regions = s.regions := rfl
@[simp] theorem State.setBank_chains (s : State) (k b : Nat) (x : Bank) : (s.setBank k b x).chains = s.chains := rfl
@[simp] theorem State.setBank_fabric (s : State) (k b : Nat) (x : Bank) : (s.setBank k b x).fabric = s.fabric := rfl
@[simp] theorem State.setBank_stops (s : State) (k b : Nat) (x : Bank) : (s.setBank k b x).stops = s.stops := rfl
@[simp] theorem State.setBank_asks (s : State) (k b : Nat) (x : Bank) : (s.setBank k b x).asks = s.asks := rfl
@[simp] theorem State.setBank_notes (s : State) (k b : Nat) (x : Bank) : (s.setBank k b x).notes = s.notes := rfl
@[simp] theorem State.setBank_returns (s : State) (k b : Nat) (x : Bank) : (s.setBank k b x).returns = s.returns := rfl
@[simp] theorem State.setBank_borrows (s : State) (k b : Nat) (x : Bank) : (s.setBank k b x).borrows = s.borrows := rfl
@[simp] theorem State.setBank_handovers (s : State) (k b : Nat) (x : Bank) : (s.setBank k b x).handovers = s.handovers := rfl
@[simp] theorem State.setBank_kills (s : State) (k b : Nat) (x : Bank) : (s.setBank k b x).kills = s.kills := rfl
@[simp] theorem State.setBank_saved (s : State) (k b : Nat) (x : Bank) : (s.setBank k b x).saved = s.saved := rfl
@[simp] theorem State.setBank_invals (s : State) (k b : Nat) (x : Bank) : (s.setBank k b x).invals = s.invals := rfl
@[simp] theorem State.setBank_launches (s : State) (k b : Nat) (x : Bank) : (s.setBank k b x).launches = s.launches := rfl
@[simp] theorem State.setBank_queues (s : State) (k b : Nat) (x : Bank) : (s.setBank k b x).queues = s.queues := rfl
@[simp] theorem State.setBank_wsImage (s : State) (k b : Nat) (x : Bank) : (s.setBank k b x).wsImage = s.wsImage := rfl
@[simp] theorem State.setBank_refreshBank (s : State) (k b : Nat) (x : Bank) : (s.setBank k b x).refreshBank = s.refreshBank := rfl
@[simp] theorem State.setBank_stalls (s : State) (k b : Nat) (x : Bank) : (s.setBank k b x).stalls = s.stalls := rfl
@[simp] theorem State.setBank_transfers (s : State) (k b : Nat) (x : Bank) : (s.setBank k b x).transfers = s.transfers := rfl
@[simp] theorem State.setBank_sent (s : State) (k b : Nat) (x : Bank) : (s.setBank k b x).sent = s.sent := rfl
@[simp] theorem State.setBank_owed (s : State) (k b : Nat) (x : Bank) : (s.setBank k b x).owed = s.owed := rfl
@[simp] theorem State.setBank_posted (s : State) (k b : Nat) (x : Bank) : (s.setBank k b x).posted = s.posted := rfl
@[simp] theorem State.setBank_inbound (s : State) (k b : Nat) (x : Bank) : (s.setBank k b x).inbound = s.inbound := rfl
@[simp] theorem State.setBank_linked (s : State) (k b : Nat) (x : Bank) : (s.setBank k b x).linked = s.linked := rfl
@[simp] theorem State.setBank_msix (s : State) (k b : Nat) (x : Bank) : (s.setBank k b x).msix = s.msix := rfl
@[simp] theorem State.setBank_notices (s : State) (k b : Nat) (x : Bank) : (s.setBank k b x).notices = s.notices := rfl
@[simp] theorem State.setBank_noCredit (s : State) (k b : Nat) (x : Bank) : (s.setBank k b x).noCredit = s.noCredit := rfl
@[simp] theorem State.setBank_watches (s : State) (k b : Nat) (x : Bank) : (s.setBank k b x).watches = s.watches := rfl
@[simp] theorem State.setBank_hits (s : State) (k b : Nat) (x : Bank) : (s.setBank k b x).hits = s.hits := rfl
@[simp] theorem State.setBank_relays (s : State) (k b : Nat) (x : Bank) : (s.setBank k b x).relays = s.relays := rfl
@[simp] theorem State.setBank_channels (s : State) (k b : Nat) (x : Bank) : (s.setBank k b x).channels = s.channels := rfl
@[simp] theorem State.setBank_control (s : State) (k b : Nat) (x : Bank) : (s.setBank k b x).control = s.control := rfl
@[simp] theorem State.setBank_base (s : State) (k b : Nat) (x : Bank) : (s.setBank k b x).base = s.base := rfl
@[simp] theorem State.setBank_cfg (s : State) (k b : Nat) (x : Bank) : (s.setBank k b x).cfg = s.cfg := rfl
@[simp] theorem State.setBank_stime (s : State) (k b : Nat) (x : Bank) : (s.setBank k b x).stime = s.stime := rfl
@[simp] theorem State.setBank_slew (s : State) (k b : Nat) (x : Bank) : (s.setBank k b x).slew = s.slew := rfl
@[simp] theorem State.setBank_slewPart (s : State) (k b : Nat) (x : Bank) : (s.setBank k b x).slewPart = s.slewPart := rfl
@[simp] theorem State.setBank_epoch (s : State) (k b : Nat) (x : Bank) : (s.setBank k b x).epoch = s.epoch := rfl
@[simp] theorem State.setBank_cursor (s : State) (k b : Nat) (x : Bank) : (s.setBank k b x).cursor = s.cursor := rfl
@[simp] theorem State.setBank_nextId (s : State) (k b : Nat) (x : Bank) : (s.setBank k b x).nextId = s.nextId := rfl
@[simp] theorem State.setBank_free (s : State) (k b : Nat) (x : Bank) : (s.setBank k b x).free = s.free := rfl
@[simp] theorem State.setBank_sched (s : State) (k b : Nat) (x : Bank) : (s.setBank k b x).sched = s.sched := rfl

/-! ### State.setTask -/

@[simp] theorem State.setTask_focus (s : State) (i : Nat) (t : Task) : (s.setTask i t).focus = s.focus := rfl
@[simp] theorem State.setTask_banks (s : State) (i : Nat) (t : Task) : (s.setTask i t).banks = s.banks := rfl
@[simp] theorem State.setTask_cores (s : State) (i : Nat) (t : Task) : (s.setTask i t).cores = s.cores := rfl
@[simp] theorem State.setTask_clusters (s : State) (i : Nat) (t : Task) : (s.setTask i t).clusters = s.clusters := rfl
@[simp] theorem State.setTask_mem (s : State) (i : Nat) (t : Task) : (s.setTask i t).mem = s.mem := rfl
@[simp] theorem State.setTask_spad (s : State) (i : Nat) (t : Task) : (s.setTask i t).spad = s.spad := rfl
@[simp] theorem State.setTask_poison (s : State) (i : Nat) (t : Task) : (s.setTask i t).poison = s.poison := rfl
@[simp] theorem State.setTask_directory (s : State) (i : Nat) (t : Task) : (s.setTask i t).directory = s.directory := rfl
@[simp] theorem State.setTask_regions (s : State) (i : Nat) (t : Task) : (s.setTask i t).regions = s.regions := rfl
@[simp] theorem State.setTask_chains (s : State) (i : Nat) (t : Task) : (s.setTask i t).chains = s.chains := rfl
@[simp] theorem State.setTask_fabric (s : State) (i : Nat) (t : Task) : (s.setTask i t).fabric = s.fabric := rfl
@[simp] theorem State.setTask_stops (s : State) (i : Nat) (t : Task) : (s.setTask i t).stops = s.stops := rfl
@[simp] theorem State.setTask_asks (s : State) (i : Nat) (t : Task) : (s.setTask i t).asks = s.asks := rfl
@[simp] theorem State.setTask_notes (s : State) (i : Nat) (t : Task) : (s.setTask i t).notes = s.notes := rfl
@[simp] theorem State.setTask_returns (s : State) (i : Nat) (t : Task) : (s.setTask i t).returns = s.returns := rfl
@[simp] theorem State.setTask_borrows (s : State) (i : Nat) (t : Task) : (s.setTask i t).borrows = s.borrows := rfl
@[simp] theorem State.setTask_handovers (s : State) (i : Nat) (t : Task) : (s.setTask i t).handovers = s.handovers := rfl
@[simp] theorem State.setTask_kills (s : State) (i : Nat) (t : Task) : (s.setTask i t).kills = s.kills := rfl
@[simp] theorem State.setTask_saved (s : State) (i : Nat) (t : Task) : (s.setTask i t).saved = s.saved := rfl
@[simp] theorem State.setTask_invals (s : State) (i : Nat) (t : Task) : (s.setTask i t).invals = s.invals := rfl
@[simp] theorem State.setTask_launches (s : State) (i : Nat) (t : Task) : (s.setTask i t).launches = s.launches := rfl
@[simp] theorem State.setTask_queues (s : State) (i : Nat) (t : Task) : (s.setTask i t).queues = s.queues := rfl
@[simp] theorem State.setTask_wsImage (s : State) (i : Nat) (t : Task) : (s.setTask i t).wsImage = s.wsImage := rfl
@[simp] theorem State.setTask_refreshBank (s : State) (i : Nat) (t : Task) : (s.setTask i t).refreshBank = s.refreshBank := rfl
@[simp] theorem State.setTask_stalls (s : State) (i : Nat) (t : Task) : (s.setTask i t).stalls = s.stalls := rfl
@[simp] theorem State.setTask_transfers (s : State) (i : Nat) (t : Task) : (s.setTask i t).transfers = s.transfers := rfl
@[simp] theorem State.setTask_sent (s : State) (i : Nat) (t : Task) : (s.setTask i t).sent = s.sent := rfl
@[simp] theorem State.setTask_owed (s : State) (i : Nat) (t : Task) : (s.setTask i t).owed = s.owed := rfl
@[simp] theorem State.setTask_posted (s : State) (i : Nat) (t : Task) : (s.setTask i t).posted = s.posted := rfl
@[simp] theorem State.setTask_inbound (s : State) (i : Nat) (t : Task) : (s.setTask i t).inbound = s.inbound := rfl
@[simp] theorem State.setTask_linked (s : State) (i : Nat) (t : Task) : (s.setTask i t).linked = s.linked := rfl
@[simp] theorem State.setTask_msix (s : State) (i : Nat) (t : Task) : (s.setTask i t).msix = s.msix := rfl
@[simp] theorem State.setTask_notices (s : State) (i : Nat) (t : Task) : (s.setTask i t).notices = s.notices := rfl
@[simp] theorem State.setTask_noCredit (s : State) (i : Nat) (t : Task) : (s.setTask i t).noCredit = s.noCredit := rfl
@[simp] theorem State.setTask_watches (s : State) (i : Nat) (t : Task) : (s.setTask i t).watches = s.watches := rfl
@[simp] theorem State.setTask_hits (s : State) (i : Nat) (t : Task) : (s.setTask i t).hits = s.hits := rfl
@[simp] theorem State.setTask_relays (s : State) (i : Nat) (t : Task) : (s.setTask i t).relays = s.relays := rfl
@[simp] theorem State.setTask_channels (s : State) (i : Nat) (t : Task) : (s.setTask i t).channels = s.channels := rfl
@[simp] theorem State.setTask_control (s : State) (i : Nat) (t : Task) : (s.setTask i t).control = s.control := rfl
@[simp] theorem State.setTask_base (s : State) (i : Nat) (t : Task) : (s.setTask i t).base = s.base := rfl
@[simp] theorem State.setTask_cfg (s : State) (i : Nat) (t : Task) : (s.setTask i t).cfg = s.cfg := rfl
@[simp] theorem State.setTask_stime (s : State) (i : Nat) (t : Task) : (s.setTask i t).stime = s.stime := rfl
@[simp] theorem State.setTask_slew (s : State) (i : Nat) (t : Task) : (s.setTask i t).slew = s.slew := rfl
@[simp] theorem State.setTask_slewPart (s : State) (i : Nat) (t : Task) : (s.setTask i t).slewPart = s.slewPart := rfl
@[simp] theorem State.setTask_epoch (s : State) (i : Nat) (t : Task) : (s.setTask i t).epoch = s.epoch := rfl
@[simp] theorem State.setTask_cursor (s : State) (i : Nat) (t : Task) : (s.setTask i t).cursor = s.cursor := rfl
@[simp] theorem State.setTask_nextId (s : State) (i : Nat) (t : Task) : (s.setTask i t).nextId = s.nextId := rfl
@[simp] theorem State.setTask_free (s : State) (i : Nat) (t : Task) : (s.setTask i t).free = s.free := rfl
@[simp] theorem State.setTask_sched (s : State) (i : Nat) (t : Task) : (s.setTask i t).sched = s.sched := rfl

/-! ### State.writePa -/

@[simp] theorem State.writePa_focus (s : State) (a n x : Nat) : (s.writePa a n x).focus = s.focus := rfl
@[simp] theorem State.writePa_ctxs (s : State) (a n x : Nat) : (s.writePa a n x).ctxs = s.ctxs := rfl
@[simp] theorem State.writePa_banks (s : State) (a n x : Nat) : (s.writePa a n x).banks = s.banks := rfl
@[simp] theorem State.writePa_cores (s : State) (a n x : Nat) : (s.writePa a n x).cores = s.cores := rfl
@[simp] theorem State.writePa_clusters (s : State) (a n x : Nat) : (s.writePa a n x).clusters = s.clusters := rfl
@[simp] theorem State.writePa_spad (s : State) (a n x : Nat) : (s.writePa a n x).spad = s.spad := rfl
@[simp] theorem State.writePa_poison (s : State) (a n x : Nat) : (s.writePa a n x).poison = s.poison := rfl
@[simp] theorem State.writePa_directory (s : State) (a n x : Nat) : (s.writePa a n x).directory = s.directory := rfl
@[simp] theorem State.writePa_regions (s : State) (a n x : Nat) : (s.writePa a n x).regions = s.regions := rfl
@[simp] theorem State.writePa_chains (s : State) (a n x : Nat) : (s.writePa a n x).chains = s.chains := rfl
@[simp] theorem State.writePa_fabric (s : State) (a n x : Nat) : (s.writePa a n x).fabric = s.fabric := rfl
@[simp] theorem State.writePa_stops (s : State) (a n x : Nat) : (s.writePa a n x).stops = s.stops := rfl
@[simp] theorem State.writePa_asks (s : State) (a n x : Nat) : (s.writePa a n x).asks = s.asks := rfl
@[simp] theorem State.writePa_notes (s : State) (a n x : Nat) : (s.writePa a n x).notes = s.notes := rfl
@[simp] theorem State.writePa_returns (s : State) (a n x : Nat) : (s.writePa a n x).returns = s.returns := rfl
@[simp] theorem State.writePa_borrows (s : State) (a n x : Nat) : (s.writePa a n x).borrows = s.borrows := rfl
@[simp] theorem State.writePa_handovers (s : State) (a n x : Nat) : (s.writePa a n x).handovers = s.handovers := rfl
@[simp] theorem State.writePa_kills (s : State) (a n x : Nat) : (s.writePa a n x).kills = s.kills := rfl
@[simp] theorem State.writePa_saved (s : State) (a n x : Nat) : (s.writePa a n x).saved = s.saved := rfl
@[simp] theorem State.writePa_invals (s : State) (a n x : Nat) : (s.writePa a n x).invals = s.invals := rfl
@[simp] theorem State.writePa_launches (s : State) (a n x : Nat) : (s.writePa a n x).launches = s.launches := rfl
@[simp] theorem State.writePa_queues (s : State) (a n x : Nat) : (s.writePa a n x).queues = s.queues := rfl
@[simp] theorem State.writePa_wsImage (s : State) (a n x : Nat) : (s.writePa a n x).wsImage = s.wsImage := rfl
@[simp] theorem State.writePa_refreshBank (s : State) (a n x : Nat) : (s.writePa a n x).refreshBank = s.refreshBank := rfl
@[simp] theorem State.writePa_stalls (s : State) (a n x : Nat) : (s.writePa a n x).stalls = s.stalls := rfl
@[simp] theorem State.writePa_transfers (s : State) (a n x : Nat) : (s.writePa a n x).transfers = s.transfers := rfl
@[simp] theorem State.writePa_sent (s : State) (a n x : Nat) : (s.writePa a n x).sent = s.sent := rfl
@[simp] theorem State.writePa_owed (s : State) (a n x : Nat) : (s.writePa a n x).owed = s.owed := rfl
@[simp] theorem State.writePa_posted (s : State) (a n x : Nat) : (s.writePa a n x).posted = s.posted := rfl
@[simp] theorem State.writePa_inbound (s : State) (a n x : Nat) : (s.writePa a n x).inbound = s.inbound := rfl
@[simp] theorem State.writePa_linked (s : State) (a n x : Nat) : (s.writePa a n x).linked = s.linked := rfl
@[simp] theorem State.writePa_msix (s : State) (a n x : Nat) : (s.writePa a n x).msix = s.msix := rfl
@[simp] theorem State.writePa_notices (s : State) (a n x : Nat) : (s.writePa a n x).notices = s.notices := rfl
@[simp] theorem State.writePa_noCredit (s : State) (a n x : Nat) : (s.writePa a n x).noCredit = s.noCredit := rfl
@[simp] theorem State.writePa_watches (s : State) (a n x : Nat) : (s.writePa a n x).watches = s.watches := rfl
@[simp] theorem State.writePa_hits (s : State) (a n x : Nat) : (s.writePa a n x).hits = s.hits := rfl
@[simp] theorem State.writePa_relays (s : State) (a n x : Nat) : (s.writePa a n x).relays = s.relays := rfl
@[simp] theorem State.writePa_channels (s : State) (a n x : Nat) : (s.writePa a n x).channels = s.channels := rfl
@[simp] theorem State.writePa_control (s : State) (a n x : Nat) : (s.writePa a n x).control = s.control := rfl
@[simp] theorem State.writePa_base (s : State) (a n x : Nat) : (s.writePa a n x).base = s.base := rfl
@[simp] theorem State.writePa_cfg (s : State) (a n x : Nat) : (s.writePa a n x).cfg = s.cfg := rfl
@[simp] theorem State.writePa_stime (s : State) (a n x : Nat) : (s.writePa a n x).stime = s.stime := rfl
@[simp] theorem State.writePa_slew (s : State) (a n x : Nat) : (s.writePa a n x).slew = s.slew := rfl
@[simp] theorem State.writePa_slewPart (s : State) (a n x : Nat) : (s.writePa a n x).slewPart = s.slewPart := rfl
@[simp] theorem State.writePa_epoch (s : State) (a n x : Nat) : (s.writePa a n x).epoch = s.epoch := rfl
@[simp] theorem State.writePa_cursor (s : State) (a n x : Nat) : (s.writePa a n x).cursor = s.cursor := rfl
@[simp] theorem State.writePa_nextId (s : State) (a n x : Nat) : (s.writePa a n x).nextId = s.nextId := rfl
@[simp] theorem State.writePa_free (s : State) (a n x : Nat) : (s.writePa a n x).free = s.free := rfl
@[simp] theorem State.writePa_sched (s : State) (a n x : Nat) : (s.writePa a n x).sched = s.sched := rfl

/-! ### State.pokeBytes -/

@[simp] theorem State.pokeBytes_focus (s : State) (a : Nat) (bs : List Byte) : (s.pokeBytes a bs).focus = s.focus := rfl
@[simp] theorem State.pokeBytes_ctxs (s : State) (a : Nat) (bs : List Byte) : (s.pokeBytes a bs).ctxs = s.ctxs := rfl
@[simp] theorem State.pokeBytes_banks (s : State) (a : Nat) (bs : List Byte) : (s.pokeBytes a bs).banks = s.banks := rfl
@[simp] theorem State.pokeBytes_cores (s : State) (a : Nat) (bs : List Byte) : (s.pokeBytes a bs).cores = s.cores := rfl
@[simp] theorem State.pokeBytes_clusters (s : State) (a : Nat) (bs : List Byte) : (s.pokeBytes a bs).clusters = s.clusters := rfl
@[simp] theorem State.pokeBytes_spad (s : State) (a : Nat) (bs : List Byte) : (s.pokeBytes a bs).spad = s.spad := rfl
@[simp] theorem State.pokeBytes_poison (s : State) (a : Nat) (bs : List Byte) : (s.pokeBytes a bs).poison = s.poison := rfl
@[simp] theorem State.pokeBytes_directory (s : State) (a : Nat) (bs : List Byte) : (s.pokeBytes a bs).directory = s.directory := rfl
@[simp] theorem State.pokeBytes_regions (s : State) (a : Nat) (bs : List Byte) : (s.pokeBytes a bs).regions = s.regions := rfl
@[simp] theorem State.pokeBytes_chains (s : State) (a : Nat) (bs : List Byte) : (s.pokeBytes a bs).chains = s.chains := rfl
@[simp] theorem State.pokeBytes_fabric (s : State) (a : Nat) (bs : List Byte) : (s.pokeBytes a bs).fabric = s.fabric := rfl
@[simp] theorem State.pokeBytes_stops (s : State) (a : Nat) (bs : List Byte) : (s.pokeBytes a bs).stops = s.stops := rfl
@[simp] theorem State.pokeBytes_asks (s : State) (a : Nat) (bs : List Byte) : (s.pokeBytes a bs).asks = s.asks := rfl
@[simp] theorem State.pokeBytes_notes (s : State) (a : Nat) (bs : List Byte) : (s.pokeBytes a bs).notes = s.notes := rfl
@[simp] theorem State.pokeBytes_returns (s : State) (a : Nat) (bs : List Byte) : (s.pokeBytes a bs).returns = s.returns := rfl
@[simp] theorem State.pokeBytes_borrows (s : State) (a : Nat) (bs : List Byte) : (s.pokeBytes a bs).borrows = s.borrows := rfl
@[simp] theorem State.pokeBytes_handovers (s : State) (a : Nat) (bs : List Byte) : (s.pokeBytes a bs).handovers = s.handovers := rfl
@[simp] theorem State.pokeBytes_kills (s : State) (a : Nat) (bs : List Byte) : (s.pokeBytes a bs).kills = s.kills := rfl
@[simp] theorem State.pokeBytes_saved (s : State) (a : Nat) (bs : List Byte) : (s.pokeBytes a bs).saved = s.saved := rfl
@[simp] theorem State.pokeBytes_invals (s : State) (a : Nat) (bs : List Byte) : (s.pokeBytes a bs).invals = s.invals := rfl
@[simp] theorem State.pokeBytes_launches (s : State) (a : Nat) (bs : List Byte) : (s.pokeBytes a bs).launches = s.launches := rfl
@[simp] theorem State.pokeBytes_queues (s : State) (a : Nat) (bs : List Byte) : (s.pokeBytes a bs).queues = s.queues := rfl
@[simp] theorem State.pokeBytes_wsImage (s : State) (a : Nat) (bs : List Byte) : (s.pokeBytes a bs).wsImage = s.wsImage := rfl
@[simp] theorem State.pokeBytes_refreshBank (s : State) (a : Nat) (bs : List Byte) : (s.pokeBytes a bs).refreshBank = s.refreshBank := rfl
@[simp] theorem State.pokeBytes_stalls (s : State) (a : Nat) (bs : List Byte) : (s.pokeBytes a bs).stalls = s.stalls := rfl
@[simp] theorem State.pokeBytes_transfers (s : State) (a : Nat) (bs : List Byte) : (s.pokeBytes a bs).transfers = s.transfers := rfl
@[simp] theorem State.pokeBytes_sent (s : State) (a : Nat) (bs : List Byte) : (s.pokeBytes a bs).sent = s.sent := rfl
@[simp] theorem State.pokeBytes_owed (s : State) (a : Nat) (bs : List Byte) : (s.pokeBytes a bs).owed = s.owed := rfl
@[simp] theorem State.pokeBytes_posted (s : State) (a : Nat) (bs : List Byte) : (s.pokeBytes a bs).posted = s.posted := rfl
@[simp] theorem State.pokeBytes_inbound (s : State) (a : Nat) (bs : List Byte) : (s.pokeBytes a bs).inbound = s.inbound := rfl
@[simp] theorem State.pokeBytes_linked (s : State) (a : Nat) (bs : List Byte) : (s.pokeBytes a bs).linked = s.linked := rfl
@[simp] theorem State.pokeBytes_msix (s : State) (a : Nat) (bs : List Byte) : (s.pokeBytes a bs).msix = s.msix := rfl
@[simp] theorem State.pokeBytes_notices (s : State) (a : Nat) (bs : List Byte) : (s.pokeBytes a bs).notices = s.notices := rfl
@[simp] theorem State.pokeBytes_noCredit (s : State) (a : Nat) (bs : List Byte) : (s.pokeBytes a bs).noCredit = s.noCredit := rfl
@[simp] theorem State.pokeBytes_watches (s : State) (a : Nat) (bs : List Byte) : (s.pokeBytes a bs).watches = s.watches := rfl
@[simp] theorem State.pokeBytes_hits (s : State) (a : Nat) (bs : List Byte) : (s.pokeBytes a bs).hits = s.hits := rfl
@[simp] theorem State.pokeBytes_relays (s : State) (a : Nat) (bs : List Byte) : (s.pokeBytes a bs).relays = s.relays := rfl
@[simp] theorem State.pokeBytes_channels (s : State) (a : Nat) (bs : List Byte) : (s.pokeBytes a bs).channels = s.channels := rfl
@[simp] theorem State.pokeBytes_control (s : State) (a : Nat) (bs : List Byte) : (s.pokeBytes a bs).control = s.control := rfl
@[simp] theorem State.pokeBytes_base (s : State) (a : Nat) (bs : List Byte) : (s.pokeBytes a bs).base = s.base := rfl
@[simp] theorem State.pokeBytes_cfg (s : State) (a : Nat) (bs : List Byte) : (s.pokeBytes a bs).cfg = s.cfg := rfl
@[simp] theorem State.pokeBytes_stime (s : State) (a : Nat) (bs : List Byte) : (s.pokeBytes a bs).stime = s.stime := rfl
@[simp] theorem State.pokeBytes_slew (s : State) (a : Nat) (bs : List Byte) : (s.pokeBytes a bs).slew = s.slew := rfl
@[simp] theorem State.pokeBytes_slewPart (s : State) (a : Nat) (bs : List Byte) : (s.pokeBytes a bs).slewPart = s.slewPart := rfl
@[simp] theorem State.pokeBytes_epoch (s : State) (a : Nat) (bs : List Byte) : (s.pokeBytes a bs).epoch = s.epoch := rfl
@[simp] theorem State.pokeBytes_cursor (s : State) (a : Nat) (bs : List Byte) : (s.pokeBytes a bs).cursor = s.cursor := rfl
@[simp] theorem State.pokeBytes_nextId (s : State) (a : Nat) (bs : List Byte) : (s.pokeBytes a bs).nextId = s.nextId := rfl
@[simp] theorem State.pokeBytes_free (s : State) (a : Nat) (bs : List Byte) : (s.pokeBytes a bs).free = s.free := rfl
@[simp] theorem State.pokeBytes_sched (s : State) (a : Nat) (bs : List Byte) : (s.pokeBytes a bs).sched = s.sched := rfl

/-! ### What the tables read -/

theorem State.task?_setTask (s : State) (i : Nat) (t : Task) (j : Nat) :
    (s.setTask i t).task? j = if i = j then some t else s.task? j := Tab.get?_set _ _ _ _

@[simp] theorem State.task?_setTask_same (s : State) (i : Nat) (t : Task) : (s.setTask i t).task? i = some t :=
  Tab.get?_set_same _ _ _

theorem State.task?_setTask_other (s : State) {i j : Nat} (t : Task) (h : j ≠ i) :
    (s.setTask i t).task? j = s.task? j := Tab.get?_set_other _ _ h

theorem State.core_setCore (s : State) (k : Nat) (x : Core) (j : Nat) :
    (s.setCore k x).core j = if k = j then x else s.core j := Tab.getD_set _ _ _ _ _

@[simp] theorem State.core_setCore_same (s : State) (k : Nat) (x : Core) : (s.setCore k x).core k = x := by
  rw [State.core_setCore, if_pos rfl]

theorem State.cluster_setCluster (s : State) (n : Nat) (x : Cluster) (j : Nat) :
    (s.setCluster n x).cluster j = if n = j then x else s.cluster j := Tab.getD_set _ _ _ _ _

@[simp] theorem State.cluster_setCluster_same (s : State) (n : Nat) (x : Cluster) : (s.setCluster n x).cluster n = x := by
  rw [State.cluster_setCluster, if_pos rfl]

theorem State.queue_setQueue (s : State) (q : Nat) (x : Queue) (j : Nat) :
    (s.setQueue q x).queue j = if q = j then x else s.queue j := Tab.getD_set _ _ _ _ _

theorem State.channel_setChannel (s : State) (i : Nat) (x : Channel) (j : Nat) :
    (s.setChannel i x).channel j = if i = j then x else s.channel j := Tab.getD_set _ _ _ _ _

theorem State.bankOf_setBank (s : State) (k b : Nat) (x : Bank) (k' b' : Nat) :
    (s.setBank k b x).bankOf k' b' = if k * 4 + b = k' * 4 + b' then x else s.bankOf k' b' := Tab.getD_set _ _ _ _ _

@[simp] theorem State.bankOf_setBank_same (s : State) (k b : Nat) (x : Bank) : (s.setBank k b x).bankOf k b = x := by
  rw [State.bankOf_setBank, if_pos rfl]

@[simp] theorem State.task?_setCore (s : State) (k : Nat) (x : Core) (j : Nat) : (s.setCore k x).task? j = s.task? j := rfl
@[simp] theorem State.cluster_setCore (s : State) (k : Nat) (x : Core) (j : Nat) : (s.setCore k x).cluster j = s.cluster j := rfl
@[simp] theorem State.queue_setCore (s : State) (k : Nat) (x : Core) (j : Nat) : (s.setCore k x).queue j = s.queue j := rfl
@[simp] theorem State.channel_setCore (s : State) (k : Nat) (x : Core) (j : Nat) : (s.setCore k x).channel j = s.channel j := rfl
@[simp] theorem State.bankOf_setCore (s : State) (k : Nat) (x : Core) (j b' : Nat) : (s.setCore k x).bankOf j b' = s.bankOf j b' := rfl
@[simp] theorem State.readPa_setCore (s : State) (k : Nat) (x : Core) (p m : Nat) : (s.setCore k x).readPa p m = s.readPa p m := rfl
@[simp] theorem State.task?_setCluster (s : State) (n : Nat) (x : Cluster) (j : Nat) : (s.setCluster n x).task? j = s.task? j := rfl
@[simp] theorem State.core_setCluster (s : State) (n : Nat) (x : Cluster) (j : Nat) : (s.setCluster n x).core j = s.core j := rfl
@[simp] theorem State.queue_setCluster (s : State) (n : Nat) (x : Cluster) (j : Nat) : (s.setCluster n x).queue j = s.queue j := rfl
@[simp] theorem State.channel_setCluster (s : State) (n : Nat) (x : Cluster) (j : Nat) : (s.setCluster n x).channel j = s.channel j := rfl
@[simp] theorem State.bankOf_setCluster (s : State) (n : Nat) (x : Cluster) (j b' : Nat) : (s.setCluster n x).bankOf j b' = s.bankOf j b' := rfl
@[simp] theorem State.readPa_setCluster (s : State) (n : Nat) (x : Cluster) (p m : Nat) : (s.setCluster n x).readPa p m = s.readPa p m := rfl
@[simp] theorem State.task?_setQueue (s : State) (q : Nat) (x : Queue) (j : Nat) : (s.setQueue q x).task? j = s.task? j := rfl
@[simp] theorem State.core_setQueue (s : State) (q : Nat) (x : Queue) (j : Nat) : (s.setQueue q x).core j = s.core j := rfl
@[simp] theorem State.cluster_setQueue (s : State) (q : Nat) (x : Queue) (j : Nat) : (s.setQueue q x).cluster j = s.cluster j := rfl
@[simp] theorem State.channel_setQueue (s : State) (q : Nat) (x : Queue) (j : Nat) : (s.setQueue q x).channel j = s.channel j := rfl
@[simp] theorem State.bankOf_setQueue (s : State) (q : Nat) (x : Queue) (j b' : Nat) : (s.setQueue q x).bankOf j b' = s.bankOf j b' := rfl
@[simp] theorem State.readPa_setQueue (s : State) (q : Nat) (x : Queue) (p m : Nat) : (s.setQueue q x).readPa p m = s.readPa p m := rfl
@[simp] theorem State.task?_setChannel (s : State) (i : Nat) (x : Channel) (j : Nat) : (s.setChannel i x).task? j = s.task? j := rfl
@[simp] theorem State.core_setChannel (s : State) (i : Nat) (x : Channel) (j : Nat) : (s.setChannel i x).core j = s.core j := rfl
@[simp] theorem State.cluster_setChannel (s : State) (i : Nat) (x : Channel) (j : Nat) : (s.setChannel i x).cluster j = s.cluster j := rfl
@[simp] theorem State.queue_setChannel (s : State) (i : Nat) (x : Channel) (j : Nat) : (s.setChannel i x).queue j = s.queue j := rfl
@[simp] theorem State.bankOf_setChannel (s : State) (i : Nat) (x : Channel) (j b' : Nat) : (s.setChannel i x).bankOf j b' = s.bankOf j b' := rfl
@[simp] theorem State.readPa_setChannel (s : State) (i : Nat) (x : Channel) (p m : Nat) : (s.setChannel i x).readPa p m = s.readPa p m := rfl
@[simp] theorem State.task?_setBank (s : State) (k b : Nat) (x : Bank) (j : Nat) : (s.setBank k b x).task? j = s.task? j := rfl
@[simp] theorem State.core_setBank (s : State) (k b : Nat) (x : Bank) (j : Nat) : (s.setBank k b x).core j = s.core j := rfl
@[simp] theorem State.cluster_setBank (s : State) (k b : Nat) (x : Bank) (j : Nat) : (s.setBank k b x).cluster j = s.cluster j := rfl
@[simp] theorem State.queue_setBank (s : State) (k b : Nat) (x : Bank) (j : Nat) : (s.setBank k b x).queue j = s.queue j := rfl
@[simp] theorem State.channel_setBank (s : State) (k b : Nat) (x : Bank) (j : Nat) : (s.setBank k b x).channel j = s.channel j := rfl
@[simp] theorem State.readPa_setBank (s : State) (k b : Nat) (x : Bank) (p m : Nat) : (s.setBank k b x).readPa p m = s.readPa p m := rfl
@[simp] theorem State.core_setTask (s : State) (i : Nat) (t : Task) (j : Nat) : (s.setTask i t).core j = s.core j := rfl
@[simp] theorem State.cluster_setTask (s : State) (i : Nat) (t : Task) (j : Nat) : (s.setTask i t).cluster j = s.cluster j := rfl
@[simp] theorem State.queue_setTask (s : State) (i : Nat) (t : Task) (j : Nat) : (s.setTask i t).queue j = s.queue j := rfl
@[simp] theorem State.channel_setTask (s : State) (i : Nat) (t : Task) (j : Nat) : (s.setTask i t).channel j = s.channel j := rfl
@[simp] theorem State.bankOf_setTask (s : State) (i : Nat) (t : Task) (j b' : Nat) : (s.setTask i t).bankOf j b' = s.bankOf j b' := rfl
@[simp] theorem State.readPa_setTask (s : State) (i : Nat) (t : Task) (p m : Nat) : (s.setTask i t).readPa p m = s.readPa p m := rfl
@[simp] theorem State.task?_writePa (s : State) (a n x : Nat) (j : Nat) : (s.writePa a n x).task? j = s.task? j := rfl
@[simp] theorem State.core_writePa (s : State) (a n x : Nat) (j : Nat) : (s.writePa a n x).core j = s.core j := rfl
@[simp] theorem State.cluster_writePa (s : State) (a n x : Nat) (j : Nat) : (s.writePa a n x).cluster j = s.cluster j := rfl
@[simp] theorem State.queue_writePa (s : State) (a n x : Nat) (j : Nat) : (s.writePa a n x).queue j = s.queue j := rfl
@[simp] theorem State.channel_writePa (s : State) (a n x : Nat) (j : Nat) : (s.writePa a n x).channel j = s.channel j := rfl
@[simp] theorem State.bankOf_writePa (s : State) (a n x : Nat) (j b' : Nat) : (s.writePa a n x).bankOf j b' = s.bankOf j b' := rfl
@[simp] theorem State.task?_pokeBytes (s : State) (a : Nat) (bs : List Byte) (j : Nat) : (s.pokeBytes a bs).task? j = s.task? j := rfl
@[simp] theorem State.core_pokeBytes (s : State) (a : Nat) (bs : List Byte) (j : Nat) : (s.pokeBytes a bs).core j = s.core j := rfl
@[simp] theorem State.cluster_pokeBytes (s : State) (a : Nat) (bs : List Byte) (j : Nat) : (s.pokeBytes a bs).cluster j = s.cluster j := rfl
@[simp] theorem State.queue_pokeBytes (s : State) (a : Nat) (bs : List Byte) (j : Nat) : (s.pokeBytes a bs).queue j = s.queue j := rfl
@[simp] theorem State.channel_pokeBytes (s : State) (a : Nat) (bs : List Byte) (j : Nat) : (s.pokeBytes a bs).channel j = s.channel j := rfl
@[simp] theorem State.bankOf_pokeBytes (s : State) (a : Nat) (bs : List Byte) (j b' : Nat) : (s.pokeBytes a bs).bankOf j b' = s.bankOf j b' := rfl

/-! ### Updates of a task -/

@[simp] theorem Task.setPc_ctl (t : Task) (a : Word) : (t.setPc a).ctl = t.ctl := rfl
@[simp] theorem Task.setPc_ident (t : Task) (a : Word) : (t.setPc a).ident = t.ident := rfl
@[simp] theorem Task.setPc_purse (t : Task) (a : Word) : (t.setPc a).purse = t.purse := rfl
@[simp] theorem Task.setPc_window (t : Task) (a : Word) : (t.setPc a).window = t.window := rfl
@[simp] theorem Task.setPc_bank (t : Task) (a : Word) : (t.setPc a).bank = t.bank := rfl
@[simp] theorem Task.setPc_views (t : Task) (a : Word) : (t.setPc a).views = t.views := rfl
@[simp] theorem Task.setPc_token (t : Task) (a : Word) : (t.setPc a).token = t.token := rfl
@[simp] theorem Task.setPc_flow (t : Task) (a : Word) : (t.setPc a).flow = t.flow := rfl
@[simp] theorem Task.setPc_rank (t : Task) (a : Word) : (t.setPc a).rank = t.rank := rfl

@[simp] theorem Task.setCtl_regs (t : Task) (c : Ctl) : (t.setCtl c).regs = t.regs := rfl
@[simp] theorem Task.setCtl_ident (t : Task) (c : Ctl) : (t.setCtl c).ident = t.ident := rfl
@[simp] theorem Task.setCtl_purse (t : Task) (c : Ctl) : (t.setCtl c).purse = t.purse := rfl
@[simp] theorem Task.setCtl_window (t : Task) (c : Ctl) : (t.setCtl c).window = t.window := rfl
@[simp] theorem Task.setCtl_bank (t : Task) (c : Ctl) : (t.setCtl c).bank = t.bank := rfl
@[simp] theorem Task.setCtl_views (t : Task) (c : Ctl) : (t.setCtl c).views = t.views := rfl
@[simp] theorem Task.setCtl_token (t : Task) (c : Ctl) : (t.setCtl c).token = t.token := rfl
@[simp] theorem Task.setCtl_flow (t : Task) (c : Ctl) : (t.setCtl c).flow = t.flow := rfl
@[simp] theorem Task.setCtl_rank (t : Task) (c : Ctl) : (t.setCtl c).rank = t.rank := rfl

@[simp] theorem Task.setFlow_regs (t : Task) (f : Flow) : (t.setFlow f).regs = t.regs := rfl
@[simp] theorem Task.setFlow_ctl (t : Task) (f : Flow) : (t.setFlow f).ctl = t.ctl := rfl
@[simp] theorem Task.setFlow_ident (t : Task) (f : Flow) : (t.setFlow f).ident = t.ident := rfl
@[simp] theorem Task.setFlow_purse (t : Task) (f : Flow) : (t.setFlow f).purse = t.purse := rfl
@[simp] theorem Task.setFlow_window (t : Task) (f : Flow) : (t.setFlow f).window = t.window := rfl
@[simp] theorem Task.setFlow_bank (t : Task) (f : Flow) : (t.setFlow f).bank = t.bank := rfl
@[simp] theorem Task.setFlow_views (t : Task) (f : Flow) : (t.setFlow f).views = t.views := rfl
@[simp] theorem Task.setFlow_token (t : Task) (f : Flow) : (t.setFlow f).token = t.token := rfl
@[simp] theorem Task.setFlow_rank (t : Task) (f : Flow) : (t.setFlow f).rank = t.rank := rfl

@[simp] theorem Task.raiseFlags_regs (t : Task) (f : Flags) : (t.raiseFlags f).regs = t.regs := rfl
@[simp] theorem Task.raiseFlags_ident (t : Task) (f : Flags) : (t.raiseFlags f).ident = t.ident := rfl
@[simp] theorem Task.raiseFlags_purse (t : Task) (f : Flags) : (t.raiseFlags f).purse = t.purse := rfl
@[simp] theorem Task.raiseFlags_window (t : Task) (f : Flags) : (t.raiseFlags f).window = t.window := rfl
@[simp] theorem Task.raiseFlags_bank (t : Task) (f : Flags) : (t.raiseFlags f).bank = t.bank := rfl
@[simp] theorem Task.raiseFlags_views (t : Task) (f : Flags) : (t.raiseFlags f).views = t.views := rfl
@[simp] theorem Task.raiseFlags_token (t : Task) (f : Flags) : (t.raiseFlags f).token = t.token := rfl
@[simp] theorem Task.raiseFlags_flow (t : Task) (f : Flags) : (t.raiseFlags f).flow = t.flow := rfl
@[simp] theorem Task.raiseFlags_rank (t : Task) (f : Flags) : (t.raiseFlags f).rank = t.rank := rfl

@[simp] theorem Task.setS_ctl (t : Task) (r : SReg) (x : Word) : (t.setS r x).ctl = t.ctl := by
  unfold Task.setS; split <;> rfl
@[simp] theorem Task.setS_ident (t : Task) (r : SReg) (x : Word) : (t.setS r x).ident = t.ident := by
  unfold Task.setS; split <;> rfl
@[simp] theorem Task.setS_purse (t : Task) (r : SReg) (x : Word) : (t.setS r x).purse = t.purse := by
  unfold Task.setS; split <;> rfl
@[simp] theorem Task.setS_window (t : Task) (r : SReg) (x : Word) : (t.setS r x).window = t.window := by
  unfold Task.setS; split <;> rfl
@[simp] theorem Task.setS_bank (t : Task) (r : SReg) (x : Word) : (t.setS r x).bank = t.bank := by
  unfold Task.setS; split <;> rfl
@[simp] theorem Task.setS_views (t : Task) (r : SReg) (x : Word) : (t.setS r x).views = t.views := by
  unfold Task.setS; split <;> rfl
@[simp] theorem Task.setS_token (t : Task) (r : SReg) (x : Word) : (t.setS r x).token = t.token := by
  unfold Task.setS; split <;> rfl
@[simp] theorem Task.setS_flow (t : Task) (r : SReg) (x : Word) : (t.setS r x).flow = t.flow := by
  unfold Task.setS; split <;> rfl
@[simp] theorem Task.setS_rank (t : Task) (r : SReg) (x : Word) : (t.setS r x).rank = t.rank := by
  unfold Task.setS; split <;> rfl

@[simp] theorem Task.setP_ctl (t : Task) (r : Nat) (x : Bool) : (t.setP r x).ctl = t.ctl := by
  unfold Task.setP; split <;> rfl
@[simp] theorem Task.setP_ident (t : Task) (r : Nat) (x : Bool) : (t.setP r x).ident = t.ident := by
  unfold Task.setP; split <;> rfl
@[simp] theorem Task.setP_purse (t : Task) (r : Nat) (x : Bool) : (t.setP r x).purse = t.purse := by
  unfold Task.setP; split <;> rfl
@[simp] theorem Task.setP_window (t : Task) (r : Nat) (x : Bool) : (t.setP r x).window = t.window := by
  unfold Task.setP; split <;> rfl
@[simp] theorem Task.setP_bank (t : Task) (r : Nat) (x : Bool) : (t.setP r x).bank = t.bank := by
  unfold Task.setP; split <;> rfl
@[simp] theorem Task.setP_views (t : Task) (r : Nat) (x : Bool) : (t.setP r x).views = t.views := by
  unfold Task.setP; split <;> rfl
@[simp] theorem Task.setP_token (t : Task) (r : Nat) (x : Bool) : (t.setP r x).token = t.token := by
  unfold Task.setP; split <;> rfl
@[simp] theorem Task.setP_flow (t : Task) (r : Nat) (x : Bool) : (t.setP r x).flow = t.flow := by
  unfold Task.setP; split <;> rfl
@[simp] theorem Task.setP_rank (t : Task) (r : Nat) (x : Bool) : (t.setP r x).rank = t.rank := by
  unfold Task.setP; split <;> rfl

/-! ### Registers (R33) -/

@[simp] theorem Task.getS_zero (t : Task) : t.getS 0 = 0 := rfl

@[simp] theorem Task.setS_zero (t : Task) (x : Word) : t.setS 0 x = t := rfl

/-- A write of an s register is read back from that register alone, and s0 stays zero. -/
theorem Task.getS_setS (t : Task) (d : SReg) (x : Word) (r : SReg) :
    (t.setS d x).getS r = if r = 0 then 0 else if r = d then x else t.getS r := by
  unfold Task.getS Task.setS
  by_cases h : r = 0
  · simp [h]
  · by_cases hd : d = 0
    · subst hd; simp [h]
    · simp only [h, hd, if_false]
      show (t.regs.s.set d.val x)[r.val] = _
      rw [Vector.getElem_set]
      by_cases hr : r = d
      · subst hr; simp
      · have : ¬ d.val = r.val := fun e => hr (Fin.ext e.symm)
        simp [this, hr]

@[simp] theorem Task.setS_pc (t : Task) (d : SReg) (x : Word) : (t.setS d x).regs.pc = t.regs.pc := by
  unfold Task.setS; split <;> rfl

@[simp] theorem Task.setS_p (t : Task) (d : SReg) (x : Word) : (t.setS d x).regs.p = t.regs.p := by
  unfold Task.setS; split <;> rfl

@[simp] theorem Task.getP_setS (t : Task) (d : SReg) (x : Word) (n : Nat) : (t.setS d x).getP n = t.getP n := by
  unfold Task.getP; rw [Task.setS_p]

@[simp] theorem Task.getP_zero (t : Task) : t.getP 0 = true := rfl

@[simp] theorem Task.setP_zero (t : Task) (b : Bool) : t.setP 0 b = t := rfl

/-- A write of a predicate is read back from that predicate alone, and p0 stays true. -/
theorem Task.getP_setP (t : Task) (d : PReg) (b : Bool) (r : PReg) :
    (t.setP d b).getP r = (r.val == 0 || (if r = d then b else t.getP r)) := by
  by_cases hr : r = 0
  · subst hr; rfl
  · have h0 : ¬ r.val = 0 := fun e => hr (Fin.ext e)
    by_cases hd : d = 0
    · subst hd
      simp [hr, h0]
    · have h1 : ¬ d.val = 0 := fun e => hd (Fin.ext e)
      have hrv := r.isLt
      have hdv := d.isLt
      unfold Task.getP Task.setP
      rw [if_neg h1]
      by_cases he : r = d
      · subst he
        cases b <;> simp [hrv]
      · have hne : ¬ d.val = r.val := fun e => he (Fin.ext e.symm)
        have hs : ¬ r.val = d.val := fun e => he (Fin.ext e)
        cases b <;> simp [he, hs, hrv]

@[simp] theorem Task.setP_pc (t : Task) (n : Nat) (b : Bool) : (t.setP n b).regs.pc = t.regs.pc := by
  unfold Task.setP; split <;> rfl

@[simp] theorem Task.setP_s (t : Task) (n : Nat) (b : Bool) : (t.setP n b).regs.s = t.regs.s := by
  unfold Task.setP; split <;> rfl

@[simp] theorem Task.getS_setP (t : Task) (n : Nat) (b : Bool) (r : SReg) : (t.setP n b).getS r = t.getS r := by
  unfold Task.getS; rw [Task.setP_s]

end Sys2Proof.Machine
end

