-- ==== Sys2Proof/Laws/Issue.lean ====
section
/-! SUPPORT. What issue and retirement do, once for every instruction: a context that is running issues its instruction's
body, a false guard steps over it, and a retirement changes the context in focus and what issue changes of its core. -/

namespace Sys2Proof.Machine

/-! ### Issue -/

theorem Flow.busy_idle {f : Flow} (h : f.inflight = []) : f.busy = false := by simp [Flow.busy, h]

theorem Task.lookahead_idle {t : Task} (tr : Traits) (h : t.flow.inflight = []) : t.lookahead tr = none := by
  simp [Task.lookahead, h]

theorem Task.clearVdone_fresh {t : Task} (tr : Traits) (h : t.flow.resumed = false) : t.clearVdone tr = t := by
  simp [Task.clearVdone, h]

/-- A context whose results are all there waits for none. -/
theorem Core.awaits_settled {c : Core} {ctx : Nat} (h : c.settled ctx) (rs : List Res) : c.awaits ctx rs = false := by
  simp only [Core.awaits, List.any_eq_false, Bool.and_eq_true, beq_iff_eq, decide_eq_true_eq, not_and]
  intro e he hlt
  have := h e he hlt.1
  omega

/-- An array that is not occupied, nor reserved for another context, is there. -/
theorem Core.arrayFree {c : Core} {ctx : Nat} (ha : c.arrayUntil ≤ c.cycle) (hv : c.reserved = none ∨ c.reserved = some ctx) :
    c.arrayBusy ctx = false := by
  rcases hv with hv | hv <;> simp [Core.arrayBusy, hv, Nat.not_lt.mpr ha]

/-- An idle context waits for the array or the divider alone. -/
theorem Task.waits_idle {t : Task} (c : Core) (ctx : Nat) (tr : Traits) (h : t.flow.inflight = []) (hr : c.settled ctx)
    (ha : tr.array = 0 ∨ (c.arrayUntil ≤ c.cycle ∧ (c.reserved = none ∨ c.reserved = some ctx)))
    (hd : tr.divides = false ∨ c.dividerUntil ≤ c.cycle) : t.waits c ctx tr = false := by
  unfold Task.waits
  rw [Flow.busy_idle h, Core.awaits_settled hr]
  have h1 : (tr.array != 0 && c.arrayBusy ctx) = false := by
    rcases ha with ha | ⟨ha, hv⟩
    · simp [ha]
    · simp [Core.arrayFree ha hv]
  have h2 : (tr.divides && decide (c.cycle < c.dividerUntil)) = false := by
    rcases hd with hd | hd
    · simp [hd]
    · simp [Nat.not_lt.mpr hd]
  rw [h1, h2]; simp

/-- Nothing refuses an instruction that names no bank, in an idle context. -/
theorem State.issueCause_plain {s : State} (k : Nat) {t : Task} (tr : Traits) (h : t.flow.inflight = [])
    (hb : tr.bank t = false) (hs : tr.streams t = []) (hm : tr.modeFault t = false) : s.issueCause k t tr = none := by
  unfold State.issueCause
  cases t.bank with
  | none => simp [hb, Task.lookahead_idle tr h]
  | some b => simp [hs, hm, Task.lookahead_idle tr h]

/-- Nor one that names a bank, where the context has it, its streams are bound and its mode is right. -/
theorem State.issueCause_bank {s : State} (k : Nat) {t : Task} (tr : Traits) {b : Nat} (h : t.flow.inflight = [])
    (hb : t.bank = some b) (hs : ∀ q ∈ tr.streams t, (s.bankOf k b).bound (.q q) = true) (hm : tr.modeFault t = false) :
    s.issueCause k t tr = none := by
  unfold State.issueCause
  simp only [hb, hm, Task.lookahead_idle tr h]
  rw [if_neg]
  · simp
  · simp only [List.any_eq_true, Bool.not_eq_true', not_exists, not_and]
    intro q hq
    simp [hs q hq]

/-- A running context issues the body of its instruction. -/
theorem issue_running {s : State} {t : Task} {tr : Traits} (body : State → Task → Out) (h : Running s t)
    (hg : t.getP tr.guard = true) (hw : t.waits s.hereCore (ctxNum s.focus) tr = false)
    (hc : s.issueCause s.here t tr = none) : issue tr body s = body s t := by
  have hc' : s.issueCause (ctxCore s.focus) t tr = none := hc
  have hw' : t.waits (s.core (ctxCore s.focus)) (ctxNum s.focus) tr = false := hw
  unfold issue
  simp only [h.here, h.free, h.plan, hg, hw', h.told, Bool.and_false, Bool.or_false, Task.clearVdone_fresh tr h.fresh, hc',
    Core.awaits_settled h.settled]
  rfl

/-- A running context whose instruction is refused at issue raises the cause. -/
theorem issue_cause {s : State} {t : Task} {tr : Traits} (body : State → Task → Out) (h : Running s t) {x : Trap}
    (hg : t.getP tr.guard = true) (hw : t.waits s.hereCore (ctxNum s.focus) tr = false)
    (hc : s.issueCause s.here t tr = some x) : issue tr body s = .next (s.raise s.focus t x) := by
  have hc' : s.issueCause (ctxCore s.focus) t tr = some x := hc
  have hw' : t.waits (s.core (ctxCore s.focus)) (ctxNum s.focus) tr = false := hw
  unfold issue
  simp only [h.here, h.free, h.plan, hg, hw', h.told, Bool.and_false, Bool.or_false, Task.clearVdone_fresh tr h.fresh, hc',
    Core.awaits_settled h.settled]
  rfl

/-- A false guard steps over the instruction (R30, R50). -/
theorem issue_suppressed {s : State} {t : Task} {tr : Traits} (body : State → Task → Out) (h : Running s t)
    (hg : t.getP tr.guard = false) : issue tr body s = .next (s.stepOver tr t) := by
  unfold issue
  simp only [h.here, h.free, h.plan, hg, Flow.busy_idle h.idle, Core.awaits_settled h.settled, Task.clearVdone_fresh tr h.fresh]
  simp

/-! ### Counting changes only the counters -/

theorem Core.kept_rfl (c : Core) : c.kept c := rfl

theorem Core.kept_count (c : Core) (ctx code n : Nat) : c.kept (c.count ctx code n) := by
  unfold Core.count; split <;> rfl

theorem Core.kept_trans {a b c : Core} (h : a.kept b) (g : b.kept c) : a.kept c := by
  unfold Core.kept at *
  rw [← h, ← g]

theorem Core.kept_issued (c : Core) (ctx : Nat) (pc : Word) (tr : Traits) (before : Bool) : c.kept (c.issued ctx pc tr before) := by
  have key : ∀ d : Core, c.kept d →
      c.kept (if before then d else if tr.event = 0 then d.count ctx 2 1 else (d.count ctx 2 1).count ctx tr.event 1) := by
    intro d hd
    split
    · exact hd
    split
    · exact Core.kept_trans hd (Core.kept_count _ _ _ _)
    · exact Core.kept_trans (Core.kept_trans hd (Core.kept_count _ _ _ _)) (Core.kept_count _ _ _ _)
  exact key _ rfl

theorem State.Apart.refl (s : State) : s.Apart s := ⟨fun _ _ => rfl, fun _ => rfl⟩

/-- Setting the core in focus to one that keeps what it held, and the task in focus, leaves the rest apart. -/
theorem State.apart_set (s : State) (c : Core) (t : Task) (h : s.hereCore.kept c) :
    s.Apart ((s.setCore s.here c).setTask s.focus t) where
  others i hi := by rw [State.task?_setTask_other _ _ hi]; rfl
  cores k := by
    rw [State.core_setTask, State.core_setCore]
    split
    · subst_vars; exact h
    · rfl

/-! ### Retirement -/

/-- What a retirement leaves: the context one instruction further with the registers of u, and the rest as it was. -/
theorem State.retireAt_only {s : State} {t : Task} (h : Running s t) (tr : Traits) (u : Task) (next : Word)
    (hf : u.flow = t.flow) : Only s (s.retireAt tr u next) (u.setPc next) where
  toApart := State.apart_set s _ _ (Core.kept_issued _ _ _ _ _)
  task := by
    refine ⟨_, State.task?_setTask_same _ _ _, rfl, ?_⟩
    have : u.flow.inflight = [] := by rw [hf]; exact h.idle
    simp [Task.counted, Flow.retired, Task.setPc, this]
  bytes := ⟨fun _ => rfl, fun _ => rfl⟩
  rest := rfl

theorem State.retire_only {s : State} {t : Task} (h : Running s t) (tr : Traits) (u : Task) (hf : u.flow = t.flow) :
    Only s (s.retire tr u) (u.setPc (u.regs.pc + BitVec.ofNat 64 tr.bytes)) :=
  State.retireAt_only h tr u _ hf

/-- An instruction on scalar registers: where it issues, its context holds what f makes of it. -/
theorem scalarOp_only {s : State} {t : Task} {tr : Traits} (f : Task → Task) (h : Running s t)
    (hg : t.getP tr.guard = true) (hb : tr.bank t = false) (ha : tr.array = 0)
    (hd : tr.divides = false ∨ s.dividerFree) (hs : tr.streams t = []) (hm : tr.modeFault t = false)
    (hf : (f t).flow = t.flow) :
    Leads (scalarOp tr f s) (Only s · ((f t).setPc ((f t).regs.pc + BitVec.ofNat 64 tr.bytes))) := by
  refine ⟨_, ?_, State.retire_only h tr (f t) hf⟩
  unfold scalarOp
  rw [issue_running _ h hg (Task.waits_idle _ _ _ h.idle h.settled (.inl ha) (hd.imp id id)) (State.issueCause_plain _ _ h.idle hb hs hm)]

/-- The same for an instruction whose meaning is such an operation, in the words of a statement: it leads to the task u
whose pc has moved on by n. -/
theorem scalar_leads {s : State} {t u : Task} {o : Out} {n : Word} (tr : Traits) (f : Task → Task) (h : Running s t)
    (ho : o = scalarOp tr f s) (hg : t.getP tr.guard = true) (hu : f t = u) (hn : BitVec.ofNat 64 tr.bytes = n)
    (hb : tr.bank t = false) (ha : tr.array = 0) (hd : tr.divides = false ∨ s.dividerFree) (hs : tr.streams t = [])
    (hm : tr.modeFault t = false) (hp : u.regs.pc = t.regs.pc := by simp) (hf : u.flow = t.flow := by simp) :
    Leads o (Only s · (u.setPc (t.regs.pc + n))) := by
  subst hu hn ho
  have := scalarOp_only f h hg hb ha hd hs hm hf
  rwa [hp] at this

/-- A suppressed instruction changes nothing but the pc. -/
theorem issue_suppressed_only {s : State} {t : Task} {tr : Traits} (body : State → Task → Out) (h : Running s t)
    (hg : t.getP tr.guard = false) :
    Leads (issue tr body s) (Only s · (t.setPc (t.regs.pc + BitVec.ofNat 64 tr.bytes))) :=
  ⟨_, issue_suppressed body h hg, State.retire_only h _ t rfl⟩

end Sys2Proof.Machine
end

