-- ==== Sys2Proof/Laws/Access.lean ====
section
/-! SUPPORT. What an access leaves: a read changes no byte, a write changes the bytes of its place, and of the rest of the
machine only what accesses record changes. -/

namespace Sys2Proof.Machine

/-! ### Records -/

theorem Cluster.kept_rfl (c : Cluster) : c.kept c := rfl

theorem Cluster.kept_trans {a b c : Cluster} (h : a.kept b) (g : b.kept c) : a.kept c := by
  unfold Cluster.kept at *
  rw [← h, ← g]

/-- Only the records of accesses differ. -/
structure State.OnlyRecords (s s' : State) : Prop extends State.Recorded s s' where
  rest : { s' with
    clusters := s.clusters, directory := s.directory, hits := s.hits, launches := s.launches } = s

theorem State.OnlyRecords.refl (s : State) : s.OnlyRecords s := ⟨⟨fun _ => rfl, fun _ => rfl⟩, rfl⟩

theorem State.OnlyRecords.trans {a b c : State} (h : a.OnlyRecords b) (g : b.OnlyRecords c) : a.OnlyRecords c := by
  refine ⟨⟨fun k => Cluster.kept_trans (h.slices k) (g.slices k), fun l => (g.launches l).trans (h.launches l)⟩, ?_⟩
  have h1 := h.rest
  have h2 := g.rest
  rw [← h1, ← h2]

theorem State.onlyRecords_setCluster (s : State) (n : Nat) (x : Cluster) (h : (s.cluster n).kept x) :
    s.OnlyRecords (s.setCluster n x) := by
  refine ⟨⟨fun k => ?_, fun _ => rfl⟩, rfl⟩
  rw [State.cluster_setCluster]
  split
  · subst_vars; exact h
  · rfl

theorem State.onlyRecords_countSlice (s : State) (n code k : Nat) : s.OnlyRecords (s.countSlice n code k) := by
  unfold State.countSlice
  dsimp only
  split
  · exact .refl s
  · exact State.onlyRecords_setCluster s n _ rfl

theorem State.onlyRecords_countL2 (s : State) (pa home : Nat) : s.OnlyRecords (s.countL2 pa home) := by
  unfold State.countL2
  split
  · split <;> exact s.onlyRecords_countSlice ..
  · exact s.onlyRecords_countSlice ..

theorem State.onlyRecords_directory (s : State) (d : Tab Holder) : s.OnlyRecords { s with directory := d } :=
  ⟨⟨fun _ => rfl, fun _ => rfl⟩, rfl⟩

theorem State.onlyRecords_dropLines (s : State) (n : Nat) (ls : List Nat) : s.OnlyRecords (s.dropLines n ls) := by
  exact .trans (b := s.setCluster n { s.cluster n with lastWrites := (s.cluster n).lastWrites.filter fun e => !ls.contains e.1 })
    (s.onlyRecords_setCluster n _ rfl) (State.onlyRecords_directory _ _)

theorem State.onlyRecords_fitSlice (s : State) (n more line : Nat) : s.OnlyRecords (s.fitSlice n more line) := by
  unfold State.fitSlice
  dsimp only
  split
  · exact .refl s
  · exact s.onlyRecords_dropLines _ _

theorem State.onlyRecords_putLine (s : State) (line : Nat) (h : Holder) : s.OnlyRecords (s.putLine line h) :=
  .trans (s.onlyRecords_fitSlice _ _ _) (State.onlyRecords_directory _ _)

theorem State.onlyRecords_holdLine (s : State) (w : Who) (va pa home : Nat) : s.OnlyRecords (s.holdLine w va pa home) := by
  unfold State.holdLine
  dsimp only
  split
  · split
    · exact .refl s
    · exact .trans (.trans (s.onlyRecords_dropLines _ _) (State.onlyRecords_putLine _ _ _)) (State.onlyRecords_countSlice _ _ _ _)
  · exact s.onlyRecords_putLine _ _

theorem State.onlyRecords_noteWrite (s : State) (w : Who) (pa len home : Nat) :
    s.OnlyRecords (s.noteWrite w pa len home) := by
  unfold State.noteWrite
  dsimp only
  split
  · exact s.onlyRecords_setCluster _ _ rfl
  · exact .refl s

theorem Launch.core_exportRange (l : Launch) (a b c d : Nat) : (l.exportRange a b c d).core = l.core := by
  unfold Launch.exportRange
  dsimp only
  split <;> rfl

theorem State.onlyRecords_setLaunch (s : State) (n : Nat) {l m : Launch} (h : s.launches.get? n = some l)
    (hm : m.core = l.core) : s.OnlyRecords { s with launches := s.launches.set n m } := by
  refine ⟨⟨fun _ => rfl, fun k => ?_⟩, rfl⟩
  dsimp only
  rw [Tab.get?_set]
  split
  · subst_vars; simp [h, hm]
  · rfl

theorem State.onlyRecords_noteExport (s : State) (w : Who) (pa : Nat) : s.OnlyRecords (s.noteExport w pa) := by
  unfold State.noteExport
  split
  · split
    · exact s.onlyRecords_setLaunch _ ‹_› (Launch.core_exportRange ..)
    · exact s.onlyRecords_setLaunch _ ‹_› (Launch.core_exportRange ..)
    · exact s.onlyRecords_setLaunch _ ‹_› (Launch.core_exportRange ..)
    · exact .refl s
  · exact .refl s

theorem State.onlyRecords_noteWatch (s : State) (w : Who) (acc va len : Nat) : s.OnlyRecords (s.noteWatch w acc va len) := by
  unfold State.noteWatch
  split
  · exact ⟨⟨fun _ => rfl, fun _ => rfl⟩, rfl⟩
  · exact .refl s

theorem Tab.get?_map {α β : Type} (f : α → β) (t : Tab α) (n : Nat) :
    Tab.get? (t.map fun e => (e.1, f e.2)) n = (Tab.get? t n).map f := by
  induction t with
  | nil => rfl
  | cons e t ih =>
    obtain ⟨k, v⟩ := e
    simp only [List.map_cons, Tab.get?_cons, ih]
    split <;> rfl

theorem State.onlyRecords_fireMonitors (s : State) (line : Nat) : s.OnlyRecords (s.fireMonitors line) := by
  refine ⟨⟨fun k => ?_, fun _ => rfl⟩, rfl⟩
  unfold State.fireMonitors State.cluster Tab.getD
  dsimp only
  rw [Tab.get?_map]
  cases Tab.get? s.clusters k <;> rfl

theorem State.onlyRecords_noted (s : State) (w : Who) (acc va len pa home : Nat) (more : Bool) :
    s.OnlyRecords (s.noted w acc va len pa home more) := by
  unfold State.noted
  dsimp only
  refine .trans ?_ (State.onlyRecords_noteWatch _ _ _ _ _)
  have h1 : s.OnlyRecords (if ((linkOf pa).isNone || (s.imageLine pa).isSome) && !more then
      (s.countL2 pa home).holdLine w va pa home else s) := by
    split
    · exact .trans (s.onlyRecords_countL2 _ _) (State.onlyRecords_holdLine _ _ _ _ _)
    · exact .refl s
  split
  · refine .trans h1 (.trans ?_ (.trans (State.onlyRecords_noteExport _ _ _) (State.onlyRecords_fireMonitors _ _)))
    generalize (if ((linkOf pa).isNone || (s.imageLine pa).isSome) && !more then
      (s.countL2 pa home).holdLine w va pa home else s) = m
    split
    · exact State.onlyRecords_noteWrite ..
    · exact .refl _
  · exact h1

theorem State.onlyRecords_noteTranslation (s : State) (slice asid va : Nat) :
    s.OnlyRecords (s.noteTranslation slice asid va) := by
  unfold State.noteTranslation
  split
  · exact s.onlyRecords_countSlice ..
  split
  · exact s.onlyRecords_countSlice ..
  · refine .trans (s.onlyRecords_setCluster _ _ ?_) (State.onlyRecords_countSlice _ _ _ _)
    split <;> rfl

theorem State.onlyRecords_after (s : State) (w : Who) (acc va len : Nat) (p : Place) (more : Bool) :
    s.OnlyRecords (s.after w acc va len p more) := by
  unfold State.after
  split
  · exact s.onlyRecords_noted ..
  · exact .trans (s.onlyRecords_noteExport _ _) (State.onlyRecords_noteWatch _ _ _ _ _)
  · exact .refl s

/-! ### Reads and writes -/

/-- An address outside every view is never a private line. -/
theorem State.locate_noView {s : State} {w : Who} {acc va len : Nat} {scalar whole : Bool} {p : Place}
    (h : s.locate w acc va len scalar whole = .ok p) (hv : viewAt w va = none) (c g l : Nat) : p ≠ .arena c g l := by
  rintro rfl
  unfold State.locate at h
  dsimp only at h
  split at h
  · exact absurd h (by simp)
  split at h
  · split at h
    · split at h
      · simp at h
      · split at h <;> simp at h
    · simp at h
  split at h
  · rename_i v hv'
    split at hv' <;> simp [hv] at hv'
  split at h
  · simp at h
  unfold State.leafChecks at h
  dsimp only at h
  have key : ∀ a b c' d e f g', s.homeChecks a b c' d e f g' ≠ .ok (.arena c g l) := by
    intro a b c' d e f g'
    unfold State.homeChecks
    split <;> (try simp)
    split <;> (try simp)
    split <;> (try simp)
    split <;> (try simp)
    split <;> simp
  split at h
  · simp at h
  split at h
  · simp at h
  split at h
  · exact key _ _ _ _ _ _ _ h
  split at h
  · split at h
    · simp at h
    · split at h <;> simp at h
  · split at h
    · split at h
      · simp at h
      · split at h
        · simp at h
        · split at h
          · simp at h
          · exact key _ _ _ _ _ _ _ h
    · exact key _ _ _ _ _ _ _ h

/-- At a place outside every view an access leaves its translation at the slice, and nothing else, before it is performed. -/
theorem State.ready_records (s : State) (w : Who) {p : Place} (va : Nat) (more : Bool) (hp : ∀ c g l, p ≠ .arena c g l) :
    s.OnlyRecords (s.ready w p va more) := by
  have key : s.OnlyRecords (if more then s else s.noteTranslation (nearSlice w.die va) w.asid va) := by
    split
    · exact .refl s
    · exact s.onlyRecords_noteTranslation _ _ _
  cases p with
  | spad k => exact .refl s
  | mem pa home => exact key
  | io port pa => exact key
  | arena c g l => exact absurd rfl (hp c g l)

theorem State.mem_records {s s' : State} (h : s.OnlyRecords s') : s'.mem = s.mem := by
  have := congrArg State.mem h.rest
  exact this

theorem State.spad_records {s s' : State} (h : s.OnlyRecords s') : s'.spad = s.spad := by
  have := congrArg State.spad h.rest
  exact this

/-- What a place outside every view holds is not among the records. -/
theorem State.readAt_records {s s' : State} (h : s.OnlyRecords s') {p : Place} (va len : Nat) (hp : ∀ c g l, p ≠ .arena c g l) :
    s'.readAt p va len = s.readAt p va len := by
  cases p with
  | spad k => simp [State.readAt, State.spad_records h]
  | mem pa home => simp [State.readAt, State.readPa, State.mem_records h]
  | io port pa => rfl
  | arena c g l => exact absurd rfl (hp c g l)

/-- A read outside every view answers what the place holds, and leaves its records. -/
theorem State.load_noView {s : State} {w : Who} {acc va len : Nat} {p : Place} (more : Bool)
    (h : s.locate w acc va len false false = .ok p) (hv : viewAt w va = none) :
    s.load w acc va len more = .ok (s.readAt p va len, (s.ready w p va more).after w acc va len p more) := by
  unfold State.load
  rw [h]
  simp [State.readAt_records (s.ready_records w va more (State.locate_noView h hv)) va len (State.locate_noView h hv)]

/-- A write outside every view stores at its place, and leaves its records. -/
theorem State.store_noView {s : State} {w : Who} {acc va len x : Nat} {scalar whole : Bool} {p : Place} (more : Bool)
    (h : s.locate w acc va len scalar whole = .ok p) :
    s.store w acc va len x scalar whole more =
      .ok (((s.ready w p va more).writeAt p va len x whole).after w acc va len p more) := by
  unfold State.store
  rw [h]

theorem State.modify_noView {s : State} {w : Who} {acc va len : Nat} {f : Nat → Nat} {p : Place}
    (h : s.locate w acc va len false false = .ok p) (hv : viewAt w va = none) :
    s.modify w acc va len f =
      .ok (s.readAt p va len, ((s.ready w p va).writeAt p va len (f (s.readAt p va len)) false).after w acc va len p) := by
  unfold State.modify
  rw [h]
  simp [State.readAt_records (s.ready_records w va false (State.locate_noView h hv)) va len (State.locate_noView h hv)]

theorem leBytes_get (n x i : Nat) (h : i < n) : (leBytes n x)[i]? = some (BitVec.ofNat 8 (x / 2 ^ (8 * i))) := by
  induction n generalizing x i with
  | zero => omega
  | succ n ih =>
    cases i with
    | zero => simp [leBytes]
    | succ i =>
      have : x / 256 / 2 ^ (8 * i) = x / 2 ^ (8 * (i + 1)) := by
        rw [Nat.div_div_eq_div_mul, show (256 : Nat) = 2 ^ 8 from rfl, ← Nat.pow_add]
        congr 2
        omega
      simp only [leBytes, List.getElem?_cons_succ]
      rw [ih _ _ (by omega), this]

/-- Writing a number puts its bytes in place, the lowest first, and keeps every other byte. -/
theorem Mem.holds_writeNat {m : Mem} (a n x : Nat) (h : m.wf = true) : m.holds (m.writeNat a n x) a n x := by
  intro i
  unfold Mem.writeNat
  split
  · rename_i hi
    have hl : i - a < (leBytes n x).length := by rw [leBytes_length]; omega
    have h1 := Mem.read_writeBytes (m := m) a (leBytes n x) (i - a) h hl
    have h2 := leBytes_get n x (i - a) (by omega)
    rw [show a + (i - a) = i by omega] at h1
    rw [h1]
    rw [List.getElem?_eq_getElem hl] at h2
    exact Option.some.inj h2
  · rename_i hi
    refine Mem.read_writeBytes_other a _ i h ?_
    rw [leBytes_length]
    omega

/-- A store at a place outside every view, made in a state that differs in its records alone. -/
theorem State.stored_writeAt {s r : State} {p : Place} (va len x : Nat) (hi : s.Inv) (h : s.OnlyRecords r)
    (hp : ∀ c g l, p ≠ .arena c g l) : s.stored (r.writeAt p va len x false) p len x := by
  have hm := State.mem_records h
  have hs := State.spad_records h
  have hq : r.posted = s.posted := by have := congrArg State.posted h.rest; exact this
  cases p with
  | spad k =>
    refine ⟨?_, fun a => ?_, hq⟩
    · show s.spad.holds (r.spad.writeNat k len x) k len x
      rw [hs]; exact Mem.holds_writeNat k len x hi.spad
    · show Mem.read r.mem a = _
      rw [hm]
  | mem pa home =>
    refine ⟨?_, fun a => ?_, hq⟩
    · show s.mem.holds (r.mem.writeNat pa len x) pa len x
      rw [hm]; exact Mem.holds_writeNat pa len x hi.mem
    · show Mem.read r.spad a = _
      rw [hs]
  | io port pa =>
    refine ⟨⟨fun a => ?_, fun a => ?_⟩, ?_⟩
    · show Mem.read r.mem a = _
      rw [hm]
    · show Mem.read r.spad a = _
      rw [hs]
    · show r.posted ++ _ = _
      rw [hq]
  | arena c g l => exact absurd rfl (hp c g l)

/-- What a store leaves apart from the bytes it writes: records alone. -/
structure State.StoreRest (s n : State) : Prop extends State.Recorded s n where
  ctxs : n.ctxs = s.ctxs
  focus : n.focus = s.focus
  cores : ∀ k, (s.core k).kept (n.core k)
  rest : { n with
    cores := s.cores, clusters := s.clusters, directory := s.directory, hits := s.hits, launches := s.launches,
    mem := s.mem, spad := s.spad, posted := s.posted } = s

/-- A store at a place outside every view changes memory, the scratchpads and the ports' writes alone. -/
theorem State.storeRest_writeAt {s r : State} (h : s.OnlyRecords r) {p : Place} (va len x : Nat)
    (hp : ∀ c g l, p ≠ .arena c g l) : s.StoreRest (r.writeAt p va len x false) := by
  have e0 : ∀ k, r.core k = s.core k := fun k => by
    have e : r.cores = s.cores := by have := congrArg State.cores h.rest; exact this
    unfold State.core; rw [e]
  have hr : { r with
      cores := s.cores, clusters := s.clusters, directory := s.directory, hits := s.hits, launches := s.launches,
      mem := s.mem, spad := s.spad, posted := s.posted } = s := by
    have := congrArg (fun z : State => { z with cores := s.cores, mem := s.mem, spad := s.spad, posted := s.posted }) h.rest
    exact this
  have hc : r.ctxs = s.ctxs := by have := congrArg State.ctxs h.rest; exact this
  have hf : r.focus = s.focus := by have := congrArg State.focus h.rest; exact this
  cases p with
  | arena c g l => exact absurd rfl (hp c g l)
  | spad k => exact ⟨⟨h.slices, h.launches⟩, hc, hf, fun k => by show (s.core k).kept (r.core k); rw [e0]; rfl, hr⟩
  | mem pa home => exact ⟨⟨h.slices, h.launches⟩, hc, hf, fun k => by show (s.core k).kept (r.core k); rw [e0]; rfl, hr⟩
  | io port pa => exact ⟨⟨h.slices, h.launches⟩, hc, hf, fun k => by show (s.core k).kept (r.core k); rw [e0]; rfl, hr⟩

/-- Records added to those. -/
theorem State.StoreRest.records {s m n : State} (h : s.StoreRest m) (g : m.OnlyRecords n) : s.StoreRest n := by
  have e0 : ∀ k, n.core k = m.core k := fun k => by
    have e : n.cores = m.cores := by have := congrArg State.cores g.rest; exact this
    unfold State.core; rw [e]
  refine ⟨⟨fun k => Cluster.kept_trans (h.slices k) (g.slices k), fun l => (g.launches l).trans (h.launches l)⟩, ?_, ?_, fun k => ?_, ?_⟩
  · have e : n.ctxs = m.ctxs := by have := congrArg State.ctxs g.rest; exact this
    rw [e, h.ctxs]
  · have e : n.focus = m.focus := by have := congrArg State.focus g.rest; exact this
    rw [e, h.focus]
  · rw [e0]; exact h.cores k
  · refine Eq.trans ?_ h.rest
    have := congrArg (fun z : State =>
      { z with
        cores := s.cores, clusters := s.clusters, directory := s.directory, hits := s.hits, launches := s.launches,
        mem := s.mem, spad := s.spad, posted := s.posted }) g.rest
    exact this

/-- And counts of the context's core. -/
theorem State.StoreRest.core {s m : State} (h : s.StoreRest m) (k : Nat) {c : Core} (hc : (m.core k).kept c) :
    s.StoreRest (m.setCore k c) := by
  refine ⟨⟨h.slices, h.launches⟩, h.ctxs, h.focus, fun j => ?_, h.rest⟩
  rw [State.core_setCore]
  split
  · subst_vars; exact Core.kept_trans (h.cores _) hc
  · exact h.cores j

/-! ### Instructions that access -/

theorem State.posted_records {s s' : State} (h : s.OnlyRecords s') : s'.posted = s.posted := by
  have := congrArg State.posted h.rest
  exact this

theorem State.ctxs_records {s s' : State} (h : s.OnlyRecords s') : s'.ctxs = s.ctxs := by
  have := congrArg State.ctxs h.rest
  exact this

theorem State.cores_records {s s' : State} (h : s.OnlyRecords s') : s'.cores = s.cores := by
  have := congrArg State.cores h.rest
  exact this

theorem State.focus_records {s s' : State} (h : s.OnlyRecords s') : s'.focus = s.focus := by
  have := congrArg State.focus h.rest
  exact this

/-- Counting events of a context changes the counters of its core alone. -/
theorem State.countEvent_eq (s : State) (i code n : Nat) :
    ∃ c, (s.core (ctxCore i)).kept c ∧
      (s.countEvent i code n = s ∨ s.countEvent i code n = s.setCore (ctxCore i) c) := by
  unfold State.countEvent
  split
  · exact ⟨_, Core.kept_rfl _, .inl rfl⟩
  · exact ⟨_, Core.kept_count _ _ _ _, .inr rfl⟩

theorem State.countLine_eq (s : State) (i : Nat) (w : Who) (va : Nat) (hit : Bool) :
    ∃ c, (s.core (ctxCore i)).kept c ∧ (s.countLine i w va hit = s ∨ s.countLine i w va hit = s.setCore (ctxCore i) c) := by
  unfold State.countLine
  split
  · exact ⟨_, Core.kept_rfl _, .inl rfl⟩
  · split
    · exact s.countEvent_eq i 12 1
    · split
      · exact ⟨_, Core.kept_rfl _, .inl rfl⟩
      · exact s.countEvent_eq i _ 1

theorem State.countAtomic_eq (s : State) (i va : Nat) :
    ∃ c, (s.core (ctxCore i)).kept c ∧ (s.countAtomic i va = s ∨ s.countAtomic i va = s.setCore (ctxCore i) c) := by
  unfold State.countAtomic
  split
  · exact s.countEvent_eq i 12 1
  · exact ⟨_, Core.kept_rfl _, .inl rfl⟩

/-- A retirement after other work: what the work leaves, and the context one instruction further. -/
theorem State.retire_apart {s m : State} {t : Task} (h : Running s t) (tr : Traits) (u : Task) (next : Word)
    (hm : m.ctxs = s.ctxs) (hf : m.focus = s.focus) (hc : ∀ k, (s.core k).kept (m.core k)) (hu : u.flow = t.flow) :
    s.Apart (m.retireAt tr u next) ∧ (m.retireAt tr u next).holds s.focus (u.setPc next) := by
  refine ⟨⟨fun i hi => ?_, fun k => ?_⟩, ?_⟩
  · show Tab.get? (Tab.set m.ctxs m.focus _) i = Tab.get? s.ctxs i
    rw [hm, hf, Tab.get?_set_other _ _ hi]
  · show (s.core k).kept (Tab.getD (Tab.set m.cores _ _) k Core.reset)
    rw [Tab.getD_set]
    split
    · subst_vars; exact Core.kept_trans (hc _) (Core.kept_issued _ _ _ _ _)
    · exact hc k
  · rw [← hf]
    refine ⟨_, State.task?_setTask_same _ _ _, rfl, ?_⟩
    have : u.flow.inflight = [] := by rw [hu]; exact h.idle
    simp [Task.counted, Flow.retired, Task.setPc, this]

/-- What counting at the context's core adds to what an access records. -/
theorem State.counted_records {s m n : State} (h : s.OnlyRecords m) {k : Nat} {c : Core} (hc : (m.core k).kept c)
    (hq : n = m ∨ n = m.setCore k c) :
    n.ctxs = s.ctxs ∧ n.focus = s.focus ∧ (∀ k, (s.core k).kept (n.core k)) ∧ s.Recorded n ∧
      { n with
        cores := s.cores, clusters := s.clusters, directory := s.directory, hits := s.hits,
        launches := s.launches } = s := by
  have hm1 := State.ctxs_records h
  have hm2 := State.focus_records h
  have e0 : ∀ k, m.core k = s.core k := fun k => by unfold State.core; rw [State.cores_records h]
  have hr := h.rest
  rcases hq with e | e <;> rw [e]
  · refine ⟨hm1, hm2, fun k => by rw [e0]; rfl, h.toRecorded, ?_⟩
    rw [← hr]
  · refine ⟨hm1, hm2, fun j => ?_, ⟨h.slices, h.launches⟩, ?_⟩
    · rw [State.core_setCore]
      split
      · subst_vars; rw [e0] at hc; exact hc
      · rw [e0]; rfl
    · rw [← hr]; rfl

/-- A retirement after a read. -/
theorem State.retire_reads {s n : State} {t : Task} (h : Running s t) (tr : Traits) (u : Task) (next : Word)
    (hu : u.flow = t.flow) (hctx : n.ctxs = s.ctxs) (hfoc : n.focus = s.focus)
    (hcor : ∀ k, (s.core k).kept (n.core k)) (hrec : s.Recorded n)
    (hrest : { n with
      cores := s.cores, clusters := s.clusters, directory := s.directory, hits := s.hits, launches := s.launches } = s) :
    Reads s (n.retireAt tr u next) (u.setPc next) := by
  obtain ⟨h1, h2⟩ := State.retire_apart h tr u next hctx hfoc hcor hu
  have e1 : n.mem = s.mem := by have e := congrArg State.mem hrest; exact e
  have e2 : n.spad = s.spad := by have e := congrArg State.spad hrest; exact e
  exact
    { toApart := h1, task := h2, slices := hrec.slices, launches := hrec.launches
      bytes := ⟨fun a => congrArg (fun m => Mem.read m a) e1, fun a => congrArg (fun m => Mem.read m a) e2⟩
      rest := by have e := congrArg (fun x : State => { x with ctxs := s.ctxs }) hrest; exact e }

/-- A retirement after a store. -/
theorem State.retire_stores {s n : State} {t : Task} (h : Running s t) (tr : Traits) (u : Task) (next : Word)
    {p : Place} {len x : Nat} (hu : u.flow = t.flow) (hn : s.StoreRest n) (hst : s.stored n p len x) :
    Stores s (n.retireAt tr u next) (u.setPc next) p len x := by
  obtain ⟨h1, h2⟩ := State.retire_apart h tr u next hn.ctxs hn.focus hn.cores hu
  exact
    { toApart := h1, task := h2, slices := hn.slices, launches := hn.launches, bytes := hst
      rest := by have e := congrArg (fun x : State => { x with ctxs := s.ctxs }) hn.rest; exact e }

/-- Records and counts change no byte. -/
theorem State.stored_keeps {s m n : State} {p : Place} {len x : Nat} (h : s.stored m p len x) (h1 : n.mem = m.mem)
    (h2 : n.spad = m.spad) (h3 : n.posted = m.posted) : s.stored n p len x := by
  unfold State.stored State.sameBytes at *
  rw [h1, h2, h3]
  exact h

/-- A store outside every view, with its records and a count at the context's core. -/
theorem State.stored_counted {s r n : State} {p : Place} {w : Who} {acc va len x k : Nat} {more : Bool} {c : Core} (hi : s.Inv)
    (h : s.OnlyRecords r) (hp : ∀ c g l, p ≠ .arena c g l)
    (hc : (((r.writeAt p va len x false).after w acc va len p more).core k).kept c)
    (hq : n = (r.writeAt p va len x false).after w acc va len p more ∨
      n = ((r.writeAt p va len x false).after w acc va len p more).setCore k c) : s.StoreRest n ∧ s.stored n p len x := by
  have g := (r.writeAt p va len x false).onlyRecords_after w acc va len p more
  have hs := State.stored_writeAt va len x hi h hp
  have hr := (State.storeRest_writeAt h va len x hp).records g
  have h1 := State.mem_records g
  have h2 := State.spad_records g
  have h3 := State.posted_records g
  rcases hq with e | e <;> subst e
  · exact ⟨hr, State.stored_keeps hs h1 h2 h3⟩
  · exact ⟨hr.core k hc, State.stored_keeps hs h1 h2 h3⟩

/-- A scalar load that issues with no window and outside every view: s[d] is what its place holds. -/
theorem loadOp_reads {s : State} {t : Task} {tr : Traits} {d : SReg} {len : Nat} {signed acq : Bool} {ea : Task → Word}
    {p : Place} (h : Running s t) (hg : t.getP tr.guard = true) (hb : tr.bank t = false) (ha : tr.array = 0)
    (hd : tr.divides = false) (hs : tr.streams t = []) (hm : tr.modeFault t = false)
    (he : eaCause (ea t) len = none) (hv : viewAt (s.who t) (ea t).toNat = none)
    (hp : s.locate (s.who t) 0 (ea t).toNat len false false = .ok p) :
    Leads (loadOp tr d len signed acq 0 ea s)
      (Reads s · ((t.setS d (extend signed (8 * len) (s.readAt p (ea t).toNat len))).setPc
        (t.regs.pc + BitVec.ofNat 64 tr.bytes))) := by
  let hit := s.hitsL1 (s.who t) 0 (ea t).toNat len
  have hl : s.load (taskWho s.focus t) 0 (ea t).toNat len (s.hitsL1 (taskWho s.focus t) 0 (ea t).toNat len) = _ :=
    State.load_noView hit hp hv
  obtain ⟨c, hc, hq⟩ := State.countLine_eq ((s.ready (s.who t) p (ea t).toNat hit).after (s.who t) 0 (ea t).toNat len p hit)
    s.focus (s.who t) (ea t).toNat hit
  obtain ⟨hctx, hfoc, hcor, hrec, hrest⟩ :=
    State.counted_records (.trans (s.ready_records (s.who t) (ea t).toNat hit (State.locate_noView hp hv))
      (State.onlyRecords_after _ (s.who t) 0 (ea t).toNat len p hit)) hc hq
  unfold loadOp
  rw [issue_running _ h hg (Task.waits_idle _ _ _ h.idle h.settled (.inl ha) (.inl hd))
    (State.issueCause_plain _ _ h.idle hb hs hm)]
  rw [he]
  unfold State.longOp State.perform
  simp only [Flow.busy_idle h.idle, h.told, Bool.and_false, hl]
  refine ⟨_, rfl, ?_⟩
  have hn : nextPc (t.setS d (extend signed (8 * len) (s.readAt p (ea t).toNat len)))
      (tr.completed (.load d len signed acq (ea t))) = t.regs.pc + BitVec.ofNat 64 tr.bytes := by
    unfold nextPc; simp [Traits.completed]
  unfold State.retire
  rw [hn]
  exact State.retire_reads h _ _ _ (by simp) hctx hfoc hcor hrec hrest

/-- A scalar store that issues with no window and outside every view: its place holds the low bytes of s[d]. -/
theorem storeOp_stores {s : State} {t : Task} {tr : Traits} {d : SReg} {len : Nat} {rel : Bool} {ea : Task → Word}
    {p : Place} (hi : s.Inv) (h : Running s t) (hg : t.getP tr.guard = true) (hb : tr.bank t = false) (ha : tr.array = 0)
    (hd : tr.divides = false) (hs : tr.streams t = []) (hm : tr.modeFault t = false)
    (he : eaCause (ea t) len = none) (hv : viewAt (s.who t) (ea t).toNat = none)
    (hp : s.locate (s.who t) 1 (ea t).toNat len true false = .ok p) :
    Leads (storeOp tr d len rel 0 ea s)
      (Stores s · (t.setPc (t.regs.pc + BitVec.ofNat 64 tr.bytes)) p len ((t.getS d).toNat % 2 ^ (8 * len))) := by
  let hit := s.hitsL1 (s.who t) 1 (ea t).toNat len
  have hl : s.store (taskWho s.focus t) 1 (ea t).toNat len ((t.getS d).toNat % 2 ^ (8 * len)) true false
      (s.hitsL1 (taskWho s.focus t) 1 (ea t).toNat len) = _ := State.store_noView hit hp
  have hr := s.ready_records (s.who t) (ea t).toNat hit (State.locate_noView hp hv)
  obtain ⟨c, hc, hq⟩ := State.countLine_eq
    (((s.ready (s.who t) p (ea t).toNat hit).writeAt p (ea t).toNat len ((t.getS d).toNat % 2 ^ (8 * len)) false).after
      (s.who t) 1 (ea t).toNat len p hit) s.focus (s.who t) (ea t).toNat hit
  obtain ⟨hrest, hst⟩ := State.stored_counted hi hr (State.locate_noView hp hv) hc hq
  unfold storeOp
  rw [issue_running _ h hg (Task.waits_idle _ _ _ h.idle h.settled (.inl ha) (.inl hd))
    (State.issueCause_plain _ _ h.idle hb hs hm)]
  rw [he]
  unfold State.longOp State.perform
  simp only [Flow.busy_idle h.idle, h.told, Bool.and_false, hl]
  refine ⟨_, rfl, ?_⟩
  exact State.retire_stores h _ t _ rfl hrest hst

/-- A running context has no access that an earlier one of it keeps back. -/
theorem State.mustWait_idle {s : State} (i : Nat) {t : Task} (h : Running s t) (x : LLWork) : s.mustWait i t x = false := by
  simp [State.mustWait, h.idle, h.told]

/-- Nor has it an access that a task it starts would have to wait for. -/
theorem State.accessOpen_idle {s : State} {t : Task} (h : Running s t) : s.accessOpen t = false := by
  simp [State.accessOpen, h.idle, h.told]

/-- An atomic outside every view, with nothing in flight: the old value to s[d], the new one to its place. -/
theorem amoOp_stores {s : State} {t : Task} {tr : Traits} {op : AmoOp} {len : Nat} {rel : Bool} {d a b : SReg} {p : Place}
    (hi : s.Inv) (h : Running s t) (hg : t.getP tr.guard = true) (hb : tr.bank t = false) (ha : tr.array = 0)
    (hd : tr.divides = false) (hs : tr.streams t = []) (hm : tr.modeFault t = false)
    (he : eaCause (t.getS a) len = none) (hv : viewAt (s.who t) (t.getS a).toNat = none)
    (hp : s.locate (s.who t) 2 (t.getS a).toNat len false false = .ok p) :
    let m := s.readAt p (t.getS a).toNat len
    let x := amoValue op (8 * len) ((t.getS b).toNat % 2 ^ (8 * len)) ((t.getS d).toNat % 2 ^ (8 * len)) m
    Leads (amoOp tr op len rel d a b s)
      (Stores s · ((t.setS d (amoOld op (8 * len) m)).setPc (t.regs.pc + BitVec.ofNat 64 tr.bytes)) p len x) := by
  intro m x
  have hl : s.modify (taskWho s.focus t) 2 (t.getS a).toNat len
      (amoValue op (8 * len) ((t.getS b).toNat % 2 ^ (8 * len)) ((t.getS d).toNat % 2 ^ (8 * len))) = _ :=
    State.modify_noView hp hv
  have hr := s.ready_records (s.who t) (t.getS a).toNat false (State.locate_noView hp hv)
  have hf : (((s.ready (s.who t) p (t.getS a).toNat).writeAt p (t.getS a).toNat len x false).after (s.who t) 2
      (t.getS a).toNat len p).focus = s.focus :=
    ((State.storeRest_writeAt hr (t.getS a).toNat len x (State.locate_noView hp hv)).records
      (State.onlyRecords_after _ (s.who t) 2 (t.getS a).toNat len p false)).focus
  obtain ⟨c, hc, hq⟩ := State.countAtomic_eq
    (((s.ready (s.who t) p (t.getS a).toNat).writeAt p (t.getS a).toNat len x false).after
      (s.who t) 2 (t.getS a).toNat len p) s.focus (t.getS a).toNat
  obtain ⟨hrest, hst⟩ := State.stored_counted hi hr (State.locate_noView hp hv) hc hq
  have hn : nextPc (t.setS d (amoOld op (8 * len) m)) tr = t.regs.pc + BitVec.ofNat 64 tr.bytes := by
    unfold nextPc; simp
  unfold amoOp
  rw [issue_running _ h hg (Task.waits_idle _ _ _ h.idle h.settled (.inl ha) (.inl hd))
    (State.issueCause_plain _ _ h.idle hb hs hm)]
  simp only [he, State.mustWait_idle s.focus h, hl]
  refine ⟨_, rfl, ?_⟩
  unfold State.retire
  rw [hn]
  have hf' : (((s.ready (taskWho s.focus t) p (t.getS a).toNat).writeAt p (t.getS a).toNat len x false).after
      (taskWho s.focus t) 2 (t.getS a).toNat len p).focus = s.focus := hf
  rw [hf']
  exact State.retire_stores h tr (t.setS d (amoOld op (8 * len) m)) _ (by simp) hrest hst

end Sys2Proof.Machine
end

