-- ==== Sys2Proof/Laws/Device.lean ====
section
/-! SUPPORT. What the device itself can do: a write of it is dropped, waits, or is performed and seen by the monitors on its line; a unit of
weight returns at once or behind the records of its queue; a mint is granted or refused. -/

namespace Sys2Proof.Machine

/-- The state after the bytes have been written: poison of a whole line is gone, and monitors on the line and its last write follow. -/
def State.devicePerformed (s : State) (pa : Nat) (bs : List Byte) : State :=
  let s := if pa % 64 == 0 && bs.length == 64 then { s with poison := s.poison.filter (· != pa / 64) } else s
  ((s.pokeBytes pa bs).fireMonitors (pa / 64)).forgetWrite (pa / 64)

/-- Everything a write of the device can do: its line is an image's, it waits, it is dropped, or it is performed (R292, R320, R434, R443). -/
theorem State.deviceBytes_cases (s : State) (pa : Nat) (bs : List Byte) :
    ((s.imageLine pa).isSome = true ∧ s.deviceBytes pa bs = s) ∨
    ((s.imageLine pa).isSome = false ∧ s.heldBack pa = true ∧
      s.deviceBytes pa bs = { s with owed := s.owed ++ [.bytes pa bs] }) ∨
    ((s.imageLine pa).isSome = false ∧ s.heldBack pa = false ∧
      s.dropsWrite pa (pa % 64 == 0 && bs.length == 64) = true ∧ s.deviceBytes pa bs = s) ∨
    ((s.imageLine pa).isSome = false ∧ s.heldBack pa = false ∧
      s.dropsWrite pa (pa % 64 == 0 && bs.length == 64) = false ∧ s.deviceBytes pa bs = s.devicePerformed pa bs) := by
  unfold State.deviceBytes State.devicePerformed
  cases hi : (s.imageLine pa).isSome
  · cases hh : s.heldBack pa
    · cases hd : s.dropsWrite pa (pa % 64 == 0 && bs.length == 64)
      · exact .inr (.inr (.inr ⟨rfl, rfl, rfl, by simp only [hd, ↓reduceIte, Bool.false_eq_true]⟩))
      · exact .inr (.inr (.inl ⟨rfl, rfl, rfl, by simp only [hd, ↓reduceIte, Bool.false_eq_true]⟩))
    · exact .inr (.inl ⟨rfl, rfl, by simp only [↓reduceIte, Bool.false_eq_true]⟩)
  · exact .inl ⟨rfl, by simp only [↓reduceIte]⟩

/-- A record that has waited carries the STIME at which it is written, and nothing else of it changes (R369). -/
theorem Record.stamped_bytes (r : Record) (m n : Nat) : stamped (r.bytes m) n = r.bytes n := rfl

/-- Everything a record for a fault ring can do: its queue cannot have one, it waits, or it is written, with the time of the write, and counts
as an event. -/
theorem State.ringRecord_cases (s : State) (q : Nat) (bs : List Byte) :
    s.ringRecord q bs = s ∨ s.ringRecord q bs = { s with owed := s.owed ++ [.record q bs] } ∨
    s.ringRecord q bs = ((s.deviceBytes (s.ringSlot q 48 33 (s.queueField q 40 4)) (stamped bs s.stime)).deviceWrite
      (s.queueDesc q + 40) 4 (s.queueField q 40 4 + 1)).queueEvent q := by
  unfold State.ringRecord
  dsimp only
  repeat' split
  · exact .inl rfl
  · exact .inr (.inl rfl)
  · exact .inl rfl
  · exact .inr (.inl rfl)
  · exact .inr (.inr rfl)

/-- Weight that returns after the records of a queue: at once where none waits, else behind them (R218, R406). -/
theorem State.returnAfter_cases (s : State) (q : Nat) (src : Origin) (asid : Nat) (hoist : Word) (amount : Nat) :
    ((∀ bs, Owed.record q bs ∉ s.owed) ∧ s.returnAfter q src asid hoist amount = s.sendReturn src asid hoist amount false) ∨
    ((∃ bs, Owed.record q bs ∈ s.owed) ∧
      s.returnAfter q src asid hoist amount = { s with owed := s.owed ++ [.unit q src asid hoist amount] }) := by
  by_cases h : ∃ bs, Owed.record q bs ∈ s.owed
  · obtain ⟨bs, hb⟩ := h
    refine .inr ⟨⟨bs, hb⟩, if_pos (List.any_eq_true.mpr ⟨_, hb, ?_⟩)⟩
    exact beq_self_eq_true q
  · refine .inl ⟨fun bs hb => h ⟨bs, hb⟩, if_neg fun ha => ?_⟩
    obtain ⟨x, hx, he⟩ := List.any_eq_true.mp ha
    match x, hx, he with
    | .record p bs, hx, he => exact h ⟨bs, by rwa [← eq_of_beq he]⟩

/-- Everything a mint can do (R263): no record of address space 0 or of an unmapped page is stepped, a record that is closed or at its bound is
asked and refuses, and any other grants. -/
theorem State.mint_cases (s : State) (asid : Nat) (hoist : Word) :
    (asid = 0 ∧ s.mint asid hoist = (s, false)) ∨
    (asid ≠ 0 ∧ s.recordPa 0 asid hoist = none ∧
      s.mint asid hoist = (s.noteTranslation (nearSlice 0 hoist.toNat) asid hoist.toNat, false)) ∨
    (asid ≠ 0 ∧ ∃ pa, s.recordPa 0 asid hoist = some pa ∧
      let n := s.noteRecord frontOrigin asid hoist
      ((n.recOpen pa = false ∨ 2 ^ 63 < n.recMinted pa + grantSize) ∧ s.mint asid hoist = (n, false)) ∨
      (n.recOpen pa = true ∧ n.recMinted pa + grantSize ≤ 2 ^ 63 ∧
        s.mint asid hoist =
          ((n.deviceWrite pa 8 (n.recOutstanding pa + grantSize)).deviceWrite (pa + 8) 8 (n.recMinted pa + grantSize), true))) := by
  by_cases h0 : asid = 0
  · exact .inl ⟨h0, if_pos h0⟩
  · rcases hp : s.recordPa 0 asid hoist with _ | pa
    · exact .inr (.inl ⟨h0, rfl, by simp [State.mint, h0, hp]⟩)
    · refine .inr (.inr ⟨h0, pa, rfl, ?_⟩)
      unfold State.mint
      rw [if_neg h0, hp]
      by_cases ho : (s.noteRecord frontOrigin asid hoist).recOpen pa = true
      · by_cases hm : 2 ^ 63 < (s.noteRecord frontOrigin asid hoist).recMinted pa + grantSize
        · exact .inl ⟨.inr hm, if_pos (by rw [decide_eq_true hm, Bool.or_true])⟩
        · exact .inr ⟨ho, Nat.le_of_not_lt hm, if_neg (by rw [ho, decide_eq_false hm]; decide)⟩
      · have hf := Bool.eq_false_iff.mpr ho
        exact .inl ⟨.inl hf, if_pos (by rw [hf]; rfl)⟩

end Sys2Proof.Machine
end

