-- ==== Sys2Proof/Laws/Exec.lean ====
section
/-! SUPPORT. Which meaning exec runs for each instruction, as equations to rewrite with. -/

namespace Sys2Proof.Machine

theorem exec_add (d a b : SReg) (g : PReg) (s : State) : exec (.add d a b g) s = execAdd d a b g s := rfl
theorem exec_sub (d a b : SReg) (g : PReg) (s : State) : exec (.sub d a b g) s = execSub d a b g s := rfl
theorem exec_mul (d a b : SReg) (g : PReg) (s : State) : exec (.mul d a b g) s = execMul d a b g s := rfl
theorem exec_mulh (d a b : SReg) (g : PReg) (s : State) : exec (.mulh d a b g) s = execMulh d a b g s := rfl
theorem exec_mulhn (d a b : SReg) (g : PReg) (s : State) : exec (.mulhn d a b g) s = execMulhn d a b g s := rfl
theorem exec_div (d a b : SReg) (g : PReg) (s : State) : exec (.div d a b g) s = execDiv d a b g s := rfl
theorem exec_divn (d a b : SReg) (g : PReg) (s : State) : exec (.divn d a b g) s = execDivn d a b g s := rfl
theorem exec_rem (d a b : SReg) (g : PReg) (s : State) : exec (.rem d a b g) s = execRem d a b g s := rfl
theorem exec_remn (d a b : SReg) (g : PReg) (s : State) : exec (.remn d a b g) s = execRemn d a b g s := rfl
theorem exec_and (d a b : SReg) (g : PReg) (s : State) : exec (.and d a b g) s = execAnd d a b g s := rfl
theorem exec_or (d a b : SReg) (g : PReg) (s : State) : exec (.or d a b g) s = execOr d a b g s := rfl
theorem exec_xor (d a b : SReg) (g : PReg) (s : State) : exec (.xor d a b g) s = execXor d a b g s := rfl
theorem exec_shl (d a b : SReg) (g : PReg) (s : State) : exec (.shl d a b g) s = execShl d a b g s := rfl
theorem exec_shr (d a b : SReg) (g : PReg) (s : State) : exec (.shr d a b g) s = execShr d a b g s := rfl
theorem exec_sha (d a b : SReg) (g : PReg) (s : State) : exec (.sha d a b g) s = execSha d a b g s := rfl
theorem exec_rot (d a b : SReg) (g : PReg) (s : State) : exec (.rot d a b g) s = execRot d a b g s := rfl
theorem exec_min (d a b : SReg) (g : PReg) (s : State) : exec (.min d a b g) s = execMin d a b g s := rfl
theorem exec_max (d a b : SReg) (g : PReg) (s : State) : exec (.max d a b g) s = execMax d a b g s := rfl
theorem exec_minn (d a b : SReg) (g : PReg) (s : State) : exec (.minn d a b g) s = execMinn d a b g s := rfl
theorem exec_maxn (d a b : SReg) (g : PReg) (s : State) : exec (.maxn d a b g) s = execMaxn d a b g s := rfl
theorem exec_lea (d a b : SReg) (sh : Fin 4) (g : PReg) (s : State) :
    exec (.lea d a b sh g) s = execLea d a b sh g s := rfl
theorem exec_clz (d a : SReg) (g : PReg) (s : State) : exec (.clz d a g) s = execClz d a g s := rfl
theorem exec_ctz (d a : SReg) (g : PReg) (s : State) : exec (.ctz d a g) s = execCtz d a g s := rfl
theorem exec_popc (d a : SReg) (g : PReg) (s : State) : exec (.popc d a g) s = execPopc d a g s := rfl
theorem exec_brev (d a : SReg) (g : PReg) (s : State) : exec (.brev d a g) s = execBrev d a g s := rfl
theorem exec_bext (d a b : SReg) (g : PReg) (s : State) : exec (.bext d a b g) s = execBext d a b g s := rfl
theorem exec_bins (d a b : SReg) (g : PReg) (s : State) : exec (.bins d a b g) s = execBins d a b g s := rfl
theorem exec_addi (d a : SReg) (imm : BitVec 11) (g : PReg) (s : State) :
    exec (.addi d a imm g) s = execAddi d a imm g s := rfl
theorem exec_andi (d a : SReg) (imm : BitVec 11) (g : PReg) (s : State) :
    exec (.andi d a imm g) s = execAndi d a imm g s := rfl
theorem exec_ori (d a : SReg) (imm : BitVec 11) (g : PReg) (s : State) :
    exec (.ori d a imm g) s = execOri d a imm g s := rfl
theorem exec_xori (d a : SReg) (imm : BitVec 11) (g : PReg) (s : State) :
    exec (.xori d a imm g) s = execXori d a imm g s := rfl
theorem exec_shli (d a : SReg) (amount : Fin 64) (g : PReg) (s : State) :
    exec (.shli d a amount g) s = execShli d a amount g s := rfl
theorem exec_shri (d a : SReg) (amount : Fin 64) (g : PReg) (s : State) :
    exec (.shri d a amount g) s = execShri d a amount g s := rfl
theorem exec_shai (d a : SReg) (amount : Fin 64) (g : PReg) (s : State) :
    exec (.shai d a amount g) s = execShai d a amount g s := rfl
theorem exec_roti (d a : SReg) (amount : Fin 64) (g : PReg) (s : State) :
    exec (.roti d a amount g) s = execRoti d a amount g s := rfl
theorem exec_lih (d : SReg) (imm : BitVec 17) (g : PReg) (s : State) : exec (.lih d imm g) s = execLih d imm g s := rfl
theorem exec_addpc (d : SReg) (imm : BitVec 17) (g : PReg) (s : State) :
    exec (.addpc d imm g) s = execAddpc d imm g s := rfl
theorem exec_cmp (cc : Cc) (pd : PReg) (a b : SReg) (g : PReg) (s : State) :
    exec (.cmp cc pd a b g) s = execCmp cc pd a b g s := rfl
theorem exec_cmpi (cc : Cc) (pd : PReg) (a : SReg) (imm : BitVec 11) (g : PReg) (s : State) :
    exec (.cmpi cc pd a imm g) s = execCmpi cc pd a imm g s := rfl
theorem exec_plog (pd pa pb : PReg) (tt : BitVec 4) (g : PReg) (s : State) :
    exec (.plog pd pa pb tt g) s = execPlog pd pa pb tt g s := rfl
theorem exec_sel (d a b : SReg) (pc : PReg) (s : State) : exec (.sel d a b pc) s = execSel d a b pc s := rfl
theorem exec_ldD (d a : SReg) (off : BitVec 8) (la : Fin 16) (ord : SmOrd) (s : State) :
    exec (.ldD d a off la ord) s = execLdD d a off la ord s := rfl
theorem exec_ldW (d a : SReg) (off : BitVec 8) (la : Fin 16) (ord : SmOrd) (s : State) :
    exec (.ldW d a off la ord) s = execLdW d a off la ord s := rfl
theorem exec_ldWn (d a : SReg) (off : BitVec 8) (la : Fin 16) (ord : SmOrd) (s : State) :
    exec (.ldWn d a off la ord) s = execLdWn d a off la ord s := rfl
theorem exec_stD (d a : SReg) (off : BitVec 8) (la : Fin 16) (ord : SmOrd) (s : State) :
    exec (.stD d a off la ord) s = execStD d a off la ord s := rfl
theorem exec_stW (d a : SReg) (off : BitVec 8) (la : Fin 16) (ord : SmOrd) (s : State) :
    exec (.stW d a off la ord) s = execStW d a off la ord s := rfl
theorem exec_ldxB (d a b : SReg) (g : PReg) (s : State) : exec (.ldxB d a b g) s = execLdxB d a b g s := rfl
theorem exec_ldxBn (d a b : SReg) (g : PReg) (s : State) : exec (.ldxBn d a b g) s = execLdxBn d a b g s := rfl
theorem exec_ldxH (d a b : SReg) (g : PReg) (s : State) : exec (.ldxH d a b g) s = execLdxH d a b g s := rfl
theorem exec_ldxHn (d a b : SReg) (g : PReg) (s : State) : exec (.ldxHn d a b g) s = execLdxHn d a b g s := rfl
theorem exec_ldxW (d a b : SReg) (g : PReg) (s : State) : exec (.ldxW d a b g) s = execLdxW d a b g s := rfl
theorem exec_ldxWn (d a b : SReg) (g : PReg) (s : State) : exec (.ldxWn d a b g) s = execLdxWn d a b g s := rfl
theorem exec_ldxD (d a b : SReg) (g : PReg) (s : State) : exec (.ldxD d a b g) s = execLdxD d a b g s := rfl
theorem exec_amoAddD (d a b : SReg) (g : PReg) (s : State) : exec (.amoAddD d a b g) s = execAmoAddD d a b g s := rfl
theorem exec_amoAndD (d a b : SReg) (g : PReg) (s : State) : exec (.amoAndD d a b g) s = execAmoAndD d a b g s := rfl
theorem exec_amoOrD (d a b : SReg) (g : PReg) (s : State) : exec (.amoOrD d a b g) s = execAmoOrD d a b g s := rfl
theorem exec_amoXorD (d a b : SReg) (g : PReg) (s : State) : exec (.amoXorD d a b g) s = execAmoXorD d a b g s := rfl
theorem exec_amoMinD (d a b : SReg) (g : PReg) (s : State) : exec (.amoMinD d a b g) s = execAmoMinD d a b g s := rfl
theorem exec_amoMaxD (d a b : SReg) (g : PReg) (s : State) : exec (.amoMaxD d a b g) s = execAmoMaxD d a b g s := rfl
theorem exec_amoMinnD (d a b : SReg) (g : PReg) (s : State) :
    exec (.amoMinnD d a b g) s = execAmoMinnD d a b g s := rfl
theorem exec_amoMaxnD (d a b : SReg) (g : PReg) (s : State) :
    exec (.amoMaxnD d a b g) s = execAmoMaxnD d a b g s := rfl
theorem exec_amoSwpD (d a b : SReg) (g : PReg) (s : State) : exec (.amoSwpD d a b g) s = execAmoSwpD d a b g s := rfl
theorem exec_amoCasD (d a b : SReg) (g : PReg) (s : State) : exec (.amoCasD d a b g) s = execAmoCasD d a b g s := rfl
theorem exec_amoFaddF64 (d a b : SReg) (g : PReg) (s : State) :
    exec (.amoFaddF64 d a b g) s = execAmoFaddF64 d a b g s := rfl
theorem exec_amoTrigD (d a b : SReg) (g : PReg) (s : State) :
    exec (.amoTrigD d a b g) s = execAmoTrigD d a b g s := rfl
theorem exec_amoAddW (d a b : SReg) (g : PReg) (s : State) : exec (.amoAddW d a b g) s = execAmoAddW d a b g s := rfl
theorem exec_amoAndW (d a b : SReg) (g : PReg) (s : State) : exec (.amoAndW d a b g) s = execAmoAndW d a b g s := rfl
theorem exec_amoOrW (d a b : SReg) (g : PReg) (s : State) : exec (.amoOrW d a b g) s = execAmoOrW d a b g s := rfl
theorem exec_amoXorW (d a b : SReg) (g : PReg) (s : State) : exec (.amoXorW d a b g) s = execAmoXorW d a b g s := rfl
theorem exec_amoMinW (d a b : SReg) (g : PReg) (s : State) : exec (.amoMinW d a b g) s = execAmoMinW d a b g s := rfl
theorem exec_amoMaxW (d a b : SReg) (g : PReg) (s : State) : exec (.amoMaxW d a b g) s = execAmoMaxW d a b g s := rfl
theorem exec_amoMinnW (d a b : SReg) (g : PReg) (s : State) :
    exec (.amoMinnW d a b g) s = execAmoMinnW d a b g s := rfl
theorem exec_amoMaxnW (d a b : SReg) (g : PReg) (s : State) :
    exec (.amoMaxnW d a b g) s = execAmoMaxnW d a b g s := rfl
theorem exec_amoSwpW (d a b : SReg) (g : PReg) (s : State) : exec (.amoSwpW d a b g) s = execAmoSwpW d a b g s := rfl
theorem exec_amoCasW (d a b : SReg) (g : PReg) (s : State) : exec (.amoCasW d a b g) s = execAmoCasW d a b g s := rfl
theorem exec_amoFaddF32 (d a b : SReg) (g : PReg) (s : State) :
    exec (.amoFaddF32 d a b g) s = execAmoFaddF32 d a b g s := rfl
theorem exec_br (g : PReg) (inv : Bool) (off : BitVec 22) (s : State) :
    exec (.br g inv off) s = execBr g inv off s := rfl
theorem exec_j (off : BitVec 22) (s : State) : exec (.j off) s = execJ off s := rfl
theorem exec_jal (off : BitVec 22) (s : State) : exec (.jal off) s = execJal off s := rfl
theorem exec_jr (a : SReg) (g : PReg) (s : State) : exec (.jr a g) s = execJr a g s := rfl
theorem exec_jalr (d a : SReg) (g : PReg) (s : State) : exec (.jalr d a g) s = execJalr d a g s := rfl
theorem exec_vadd (ty : Ty) (d a b : VReg) (k : KReg) (s : State) :
    exec (.vadd ty d a b k) s = execVadd ty d a b k s := rfl
theorem exec_vsub (ty : Ty) (d a b : VReg) (k : KReg) (s : State) :
    exec (.vsub ty d a b k) s = execVsub ty d a b k s := rfl
theorem exec_vmul (ty : Ty) (d a b : VReg) (k : KReg) (s : State) :
    exec (.vmul ty d a b k) s = execVmul ty d a b k s := rfl
theorem exec_vmulh (ty : Ty) (d a b : VReg) (k : KReg) (s : State) :
    exec (.vmulh ty d a b k) s = execVmulh ty d a b k s := rfl
theorem exec_vmin (ty : Ty) (d a b : VReg) (k : KReg) (s : State) :
    exec (.vmin ty d a b k) s = execVmin ty d a b k s := rfl
theorem exec_vmax (ty : Ty) (d a b : VReg) (k : KReg) (s : State) :
    exec (.vmax ty d a b k) s = execVmax ty d a b k s := rfl
theorem exec_vand (ty : Ty) (d a b : VReg) (k : KReg) (s : State) :
    exec (.vand ty d a b k) s = execVand ty d a b k s := rfl
theorem exec_vor (ty : Ty) (d a b : VReg) (k : KReg) (s : State) :
    exec (.vor ty d a b k) s = execVor ty d a b k s := rfl
theorem exec_vxor (ty : Ty) (d a b : VReg) (k : KReg) (s : State) :
    exec (.vxor ty d a b k) s = execVxor ty d a b k s := rfl
theorem exec_vandn (ty : Ty) (d a b : VReg) (k : KReg) (s : State) :
    exec (.vandn ty d a b k) s = execVandn ty d a b k s := rfl
theorem exec_vshl (ty : Ty) (d a b : VReg) (k : KReg) (s : State) :
    exec (.vshl ty d a b k) s = execVshl ty d a b k s := rfl
theorem exec_vshr (ty : Ty) (d a b : VReg) (k : KReg) (s : State) :
    exec (.vshr ty d a b k) s = execVshr ty d a b k s := rfl
theorem exec_vsha (ty : Ty) (d a b : VReg) (k : KReg) (s : State) :
    exec (.vsha ty d a b k) s = execVsha ty d a b k s := rfl
theorem exec_vabs (ty : Ty) (d a : VReg) (k : KReg) (s : State) : exec (.vabs ty d a k) s = execVabs ty d a k s := rfl
theorem exec_vneg (ty : Ty) (d a : VReg) (k : KReg) (s : State) : exec (.vneg ty d a k) s = execVneg ty d a k s := rfl
theorem exec_vfma (ty : Ty) (d a b : VReg) (k : KReg) (s : State) :
    exec (.vfma ty d a b k) s = execVfma ty d a b k s := rfl
theorem exec_vfms (ty : Ty) (d a b : VReg) (k : KReg) (s : State) :
    exec (.vfms ty d a b k) s = execVfms ty d a b k s := rfl
theorem exec_vfnma (ty : Ty) (d a b : VReg) (k : KReg) (s : State) :
    exec (.vfnma ty d a b k) s = execVfnma ty d a b k s := rfl
theorem exec_vrcp (ty : Ty) (d a : VReg) (k : KReg) (s : State) : exec (.vrcp ty d a k) s = execVrcp ty d a k s := rfl
theorem exec_vrsq (ty : Ty) (d a : VReg) (k : KReg) (s : State) : exec (.vrsq ty d a k) s = execVrsq ty d a k s := rfl
theorem exec_vcmp (cc : Cc) (ty : Ty) (kd : KReg) (a b : VReg) (k : KReg) (s : State) :
    exec (.vcmp cc ty kd a b k) s = execVcmp cc ty kd a b k s := rfl
theorem exec_vsel (ty : Ty) (d a b : VReg) (k : KReg) (s : State) :
    exec (.vsel ty d a b k) s = execVsel ty d a b k s := rfl
theorem exec_viota (ty : Ty) (d : VReg) (k : KReg) (s : State) : exec (.viota ty d k) s = execViota ty d k s := rfl
theorem exec_vcompress (ty : Ty) (d a : VReg) (k : KReg) (s : State) :
    exec (.vcompress ty d a k) s = execVcompress ty d a k s := rfl
theorem exec_vexpand (ty : Ty) (d a : VReg) (k : KReg) (s : State) :
    exec (.vexpand ty d a k) s = execVexpand ty d a k s := rfl
theorem exec_vperm (ty : Ty) (d a b : VReg) (k : KReg) (s : State) :
    exec (.vperm ty d a b k) s = execVperm ty d a b k s := rfl
theorem exec_vcvt (dt st : Ty) (d a : VReg) (k : KReg) (s : State) :
    exec (.vcvt dt st d a k) s = execVcvt dt st d a k s := rfl
theorem exec_vscl (ty : Ty) (d a b : VReg) (k : KReg) (s : State) :
    exec (.vscl ty d a b k) s = execVscl ty d a b k s := rfl
theorem exec_vqnt (ty : Ty) (d a b : VReg) (k : KReg) (s : State) :
    exec (.vqnt ty d a b k) s = execVqnt ty d a b k s := rfl
theorem exec_vexpmax (ty : Ty) (d a : VReg) (k : KReg) (s : State) :
    exec (.vexpmax ty d a k) s = execVexpmax ty d a k s := rfl
theorem exec_vbin (ty : Ty) (d a b : VReg) (k : KReg) (s : State) :
    exec (.vbin ty d a b k) s = execVbin ty d a b k s := rfl
theorem exec_vred (op : RedOp) (ty : Ty) (d a : VReg) (k : KReg) (s : State) :
    exec (.vred op ty d a k) s = execVred op ty d a k s := rfl
theorem exec_vscan (op : RedOp) (ty : Ty) (d a : VReg) (k : KReg) (s : State) :
    exec (.vscan op ty d a k) s = execVscan op ty d a k s := rfl
theorem exec_kand (d a b : KReg) (s : State) : exec (.kand d a b) s = execKand d a b s := rfl
theorem exec_kor (d a b : KReg) (s : State) : exec (.kor d a b) s = execKor d a b s := rfl
theorem exec_kxor (d a b : KReg) (s : State) : exec (.kxor d a b) s = execKxor d a b s := rfl
theorem exec_kandn (d a b : KReg) (s : State) : exec (.kandn d a b) s = execKandn d a b s := rfl
theorem exec_kmov (d a : KReg) (s : State) : exec (.kmov d a) s = execKmov d a s := rfl
theorem exec_vld (ty : Ty) (d : VReg) (a : SReg) (k : KReg) (la : Fin 16) (s : State) :
    exec (.vld ty d a k la) s = execVld ty d a k la s := rfl
theorem exec_vldInc (ty : Ty) (d : VReg) (a : SReg) (k : KReg) (la : Fin 16) (s : State) :
    exec (.vldInc ty d a k la) s = execVldInc ty d a k la s := rfl
theorem exec_vldRep (ty : Ty) (d : VReg) (a : SReg) (k : KReg) (la : Fin 16) (s : State) :
    exec (.vldRep ty d a k la) s = execVldRep ty d a k la s := rfl
theorem exec_vst (ty : Ty) (d : VReg) (a : SReg) (k : KReg) (la : Fin 16) (s : State) :
    exec (.vst ty d a k la) s = execVst ty d a k la s := rfl
theorem exec_vstInc (ty : Ty) (d : VReg) (a : SReg) (k : KReg) (la : Fin 16) (s : State) :
    exec (.vstInc ty d a k la) s = execVstInc ty d a k la s := rfl
theorem exec_vbcast (ty : Ty) (d : VReg) (a : SReg) (k : KReg) (s : State) :
    exec (.vbcast ty d a k) s = execVbcast ty d a k s := rfl
theorem exec_vsetl (ty : Ty) (d a : SReg) (s : State) : exec (.vsetl ty d a) s = execVsetl ty d a s := rfl
theorem exec_vpopk (ty : Ty) (d : SReg) (k : KReg) (s : State) : exec (.vpopk ty d k) s = execVpopk ty d k s := rfl
theorem exec_vfirstk (ty : Ty) (d : SReg) (k : KReg) (s : State) :
    exec (.vfirstk ty d k) s = execVfirstk ty d k s := rfl
theorem exec_mma (fmt : Fmt) (td va vb : VReg) (la : Fin 16) (s : State) :
    exec (.mma fmt td va vb la) s = execMma fmt td va vb la s := rfl
theorem exec_mmas (fmt : Fmt) (td va vb : VReg) (la : Fin 16) (s : State) :
    exec (.mmas fmt td va vb la) s = execMmas fmt td va vb la s := rfl
theorem exec_mmaq (fmt : Fmt) (td va vb : VReg) (la : Fin 16) (s : State) :
    exec (.mmaq fmt td va vb la) s = execMmaq fmt td va vb la s := rfl
theorem exec_tld (fmt : Fmt) (td : VReg) (a : SReg) (la : Fin 16) (s : State) :
    exec (.tld fmt td a la) s = execTld fmt td a la s := rfl
theorem exec_tst (fmt : Fmt) (td : VReg) (a : SReg) (la : Fin 16) (s : State) :
    exec (.tst fmt td a la) s = execTst fmt td a la s := rfl
theorem exec_tzero (td : VReg) (s : State) : exec (.tzero td) s = execTzero td s := rfl
theorem exec_ttrn (td ta : VReg) (s : State) : exec (.ttrn td ta) s = execTtrn td ta s := rfl
theorem exec_modeM (n1 : Fin 32) (s : State) : exec (.modeM n1) s = execModeM n1 s := rfl
theorem exec_modeV (s : State) : exec (.modeV) s = execModeV s := rfl
theorem exec_tcvt (fmt : Fmt) (td ta : VReg) (s : State) : exec (.tcvt fmt td ta) s = execTcvt fmt td ta s := rfl
theorem exec_spawn (a b : SReg) (bank : Bool) (s : State) : exec (.spawn a b bank) s = execSpawn a b bank s := rfl
theorem exec_spawnc (a b : SReg) (bank : Bool) (s : State) : exec (.spawnc a b bank) s = execSpawnc a b bank s := rfl
theorem exec_callat (a b : SReg) (bank : Bool) (s : State) : exec (.callat a b bank) s = execCallat a b bank s := rfl
theorem exec_sendm (a b : SReg) (s : State) : exec (.sendm a b) s = execSendm a b s := rfl
theorem exec_reply (a b : SReg) (s : State) : exec (.reply a b) s = execReply a b s := rfl
theorem exec_halt (s : State) : exec (.halt) s = execHalt s := rfl
theorem exec_haltRetain (a : SReg) (s : State) : exec (.haltRetain a) s = execHaltRetain a s := rfl
theorem exec_join (s : State) : exec (.join) s = execJoin s := rfl
theorem exec_kill (a : SReg) (s : State) : exec (.kill a) s = execKill a s := rfl
theorem exec_hoistOpen (a : SReg) (s : State) : exec (.hoistOpen a) s = execHoistOpen a s := rfl
theorem exec_waitq (a : SReg) (s : State) : exec (.waitq a) s = execWaitq a s := rfl
theorem exec_pborrow (s : State) : exec (.pborrow) s = execPborrow s := rfl
theorem exec_viewDecl (vid : Fin 8) (a b : SReg) (op : ViewOp) (s : State) :
    exec (.viewDecl vid a b op) s = execViewDecl vid a b op s := rfl
theorem exec_viewDrop (vid : Fin 8) (s : State) : exec (.viewDrop vid) s = execViewDrop vid s := rfl
theorem exec_barInit (a b : SReg) (s : State) : exec (.barInit a b) s = execBarInit a b s := rfl
theorem exec_barArv (a : SReg) (s : State) : exec (.barArv a) s = execBarArv a s := rfl
theorem exec_barWait (a : SReg) (s : State) : exec (.barWait a) s = execBarWait a s := rfl
theorem exec_sigAdd (a b : SReg) (s : State) : exec (.sigAdd a b) s = execSigAdd a b s := rfl
theorem exec_sigWait (cc : Cc) (a b : SReg) (s : State) : exec (.sigWait cc a b) s = execSigWait cc a b s := rfl
theorem exec_acopy (a : SReg) (s : State) : exec (.acopy a) s = execAcopy a s := rfl
theorem exec_acopyNb (b a : SReg) (s : State) : exec (.acopyNb b a) s = execAcopyNb b a s := rfl
theorem exec_abind (q : QReg) (a : SReg) (s : State) : exec (.abind q a) s = execAbind q a s := rfl
theorem exec_apf (a b : SReg) (c : Fin 3) (s : State) : exec (.apf a b c) s = execApf a b c s := rfl
theorem exec_fenceAcq (sc : Scope) (s : State) : exec (.fenceAcq sc) s = execFenceAcq sc s := rfl
theorem exec_fenceRel (sc : Scope) (s : State) : exec (.fenceRel sc) s = execFenceRel sc s := rfl
theorem exec_fenceSc (sc : Scope) (s : State) : exec (.fenceSc sc) s = execFenceSc sc s := rfl
theorem exec_handover (a b : SReg) (s : State) : exec (.handover a b) s = execHandover a b s := rfl
theorem exec_xinv (a b : SReg) (s : State) : exec (.xinv a b) s = execXinv a b s := rfl
theorem exec_mfc (a : SReg) (creg : BitVec 8) (s : State) : exec (.mfc a creg) s = execMfc a creg s := rfl
theorem exec_mtc (a : SReg) (creg : BitVec 8) (s : State) : exec (.mtc a creg) s = execMtc a creg s := rfl
theorem exec_trap (n : BitVec 8) (s : State) : exec (.trap n) s = execTrap n s := rfl
theorem exec_eret (s : State) : exec (.eret) s = execEret s := rfl
theorem exec_yield (s : State) : exec (.yield) s = execYield s := rfl
theorem exec_brk (n : BitVec 8) (s : State) : exec (.brk n) s = execBrk n s := rfl
theorem exec_nop (s : State) : exec (.nop) s = execNop s := rfl
theorem exec_movi (d : SReg) (imm : BitVec 32) (g : GReg) (s : State) :
    exec (.movi d imm g) s = execMovi d imm g s := rfl
theorem exec_addiLong (d a : SReg) (imm : BitVec 32) (g : GReg) (s : State) :
    exec (.addiLong d a imm g) s = execAddiLong d a imm g s := rfl
theorem exec_andiLong (d a : SReg) (imm : BitVec 32) (g : GReg) (s : State) :
    exec (.andiLong d a imm g) s = execAndiLong d a imm g s := rfl
theorem exec_oriLong (d a : SReg) (imm : BitVec 32) (g : GReg) (s : State) :
    exec (.oriLong d a imm g) s = execOriLong d a imm g s := rfl
theorem exec_xoriLong (d a : SReg) (imm : BitVec 32) (g : GReg) (s : State) :
    exec (.xoriLong d a imm g) s = execXoriLong d a imm g s := rfl
theorem exec_cmpiLong (cc : Cc) (pd : PReg) (a : SReg) (imm : BitVec 32) (g : GReg) (s : State) :
    exec (.cmpiLong cc pd a imm g) s = execCmpiLong cc pd a imm g s := rfl
theorem exec_ldLong (size : MemSize) (d a : SReg) (off : BitVec 19) (la : Fin 16) (sc : Scope) (ord : MemOrd) (g : GReg) (s : State) :
    exec (.ldLong size d a off la sc ord g) s = execLdLong size d a off la sc ord g s := rfl
theorem exec_stLong (size : MemSize) (d a : SReg) (off : BitVec 19) (la : Fin 16) (sc : Scope) (ord : MemOrd) (g : GReg) (s : State) :
    exec (.stLong size d a off la sc ord g) s = execStLong size d a off la sc ord g s := rfl
theorem exec_amoLong (op : AmoOp) (half : Bool) (d a b : SReg) (sc : Scope) (ord : MemOrd) (g : GReg) (s : State) :
    exec (.amoLong op half d a b sc ord g) s = execAmoLong op half d a b sc ord g s := rfl
theorem exec_amoNtf (op : AmoOp) (half : Bool) (d a b : SReg) (sc : Scope) (ord : MemOrd) (g : GReg) (s : State) :
    exec (.amoNtf op half d a b sc ord g) s = execAmoNtf op half d a b sc ord g s := rfl
theorem exec_ldp (d : SReg) (w : Fin 4) (a : SReg) (imm : BitVec 32) (g : GReg) (s : State) :
    exec (.ldp d w a imm g) s = execLdp d w a imm g s := rfl
theorem exec_vectorOpLong (op : VOp) (ty : Ty) (d : VReg) (a b : VSrc) (k : KReg) (rc : Rc) (s : State) :
    exec (.vectorOpLong op ty d a b k rc) s = execVectorOpLong op ty d a b k rc s := rfl
theorem exec_vcvtRfb (dt st : Ty) (d : VReg) (a : VSrc) (vr : VReg) (k : KReg) (rc : Rc) (s : State) :
    exec (.vcvtRfb dt st d a vr k rc) s = execVcvtRfb dt st d a vr k rc s := rfl
theorem exec_vcvtBs (dt : Ty) (d : VReg) (a b : VSrc) (k : KReg) (s : State) :
    exec (.vcvtBs dt d a b k) s = execVcvtBs dt d a b k s := rfl
theorem exec_vmemLong (st : Bool) (am : Am) (ty : Ty) (d : VSrc) (a : SReg) (off : BitVec 14) (k : KReg) (la : Fin 16) (s : State) :
    exec (.vmemLong st am ty d a off k la) s = execVmemLong st am ty d a off k la s := rfl
theorem exec_vlds (ty : Ty) (d : VReg) (a b : SReg) (off : BitVec 14) (k : KReg) (la : Fin 16) (s : State) :
    exec (.vlds ty d a b off k la) s = execVlds ty d a b off k la s := rfl
theorem exec_vsts (ty : Ty) (d : VSrc) (a b : SReg) (off : BitVec 14) (k : KReg) (la : Fin 16) (s : State) :
    exec (.vsts ty d a b off k la) s = execVsts ty d a b off k la s := rfl
theorem exec_vldx (ty : Ty) (d : VReg) (a : SReg) (vi : VReg) (off : BitVec 14) (k : KReg) (la : Fin 16) (s : State) :
    exec (.vldx ty d a vi off k la) s = execVldx ty d a vi off k la s := rfl
theorem exec_vstx (ty : Ty) (d : VSrc) (a : SReg) (vi : VReg) (off : BitVec 14) (k : KReg) (la : Fin 16) (s : State) :
    exec (.vstx ty d a vi off k la) s = execVstx ty d a vi off k la s := rfl
theorem exec_vslideUp (ty : Ty) (d : VReg) (a : VSrc) (b : SReg) (k : KReg) (s : State) :
    exec (.vslideUp ty d a b k) s = execVslideUp ty d a b k s := rfl
theorem exec_vslideDn (ty : Ty) (d : VReg) (a : VSrc) (b : SReg) (k : KReg) (s : State) :
    exec (.vslideDn ty d a b k) s = execVslideDn ty d a b k s := rfl
theorem exec_vins (ty : Ty) (d : VReg) (a b : SReg) (s : State) : exec (.vins ty d a b) s = execVins ty d a b s := rfl
theorem exec_vext (ty : Ty) (d : SReg) (a : VSrc) (b : SReg) (s : State) :
    exec (.vext ty d a b) s = execVext ty d a b s := rfl
theorem exec_mmag (fmt : Fmt) (td va vb vl : VReg) (la : Fin 16) (s : State) :
    exec (.mmag fmt td va vb vl la) s = execMmag fmt td va vb vl la s := rfl
theorem exec_tscat (fmt : Fmt) (td : VReg) (a : SReg) (vi : VReg) (la : Fin 16) (s : State) :
    exec (.tscat fmt td a vi la) s = execTscat fmt td a vi la s := rfl
theorem exec_tldStrided (fmt : Fmt) (td : VReg) (a b : SReg) (la : Fin 16) (s : State) :
    exec (.tldStrided fmt td a b la) s = execTldStrided fmt td a b la s := rfl
theorem exec_tstStrided (fmt : Fmt) (td : VReg) (a b : SReg) (la : Fin 16) (s : State) :
    exec (.tstStrided fmt td a b la) s = execTstStrided fmt td a b la s := rfl
theorem exec_longLatencyCompletion (core ctx seq : Nat) (s : State) :
    exec (.longLatencyCompletion core ctx seq) s = execLongLatencyCompletion core ctx seq s := rfl
theorem exec_agingCycle (core : Nat) (s : State) : exec (.agingCycle core) s = execAgingCycle core s := rfl
theorem exec_yieldExpiry (core ctx : Nat) (s : State) :
    exec (.yieldExpiry core ctx) s = execYieldExpiry core ctx s := rfl
theorem exec_gridAcquire (core ctx : Nat) (s : State) :
    exec (.gridAcquire core ctx) s = execGridAcquire core ctx s := rfl
theorem exec_upcallEntry (core ctx : Nat) (s : State) :
    exec (.upcallEntry core ctx) s = execUpcallEntry core ctx s := rfl
theorem exec_copyCompletionDelivery (core ctx : Nat) (s : State) :
    exec (.copyCompletionDelivery core ctx) s = execCopyCompletionDelivery core ctx s := rfl
theorem exec_messageArrival (msg : Nat) (s : State) : exec (.messageArrival msg) s = execMessageArrival msg s := rfl
theorem exec_fabricStopAccept (msg : Nat) (s : State) :
    exec (.fabricStopAccept msg) s = execFabricStopAccept msg s := rfl
theorem exec_taskStart (core : Nat) (s : State) : exec (.taskStart core) s = execTaskStart core s := rfl
theorem exec_taskRestore (core saved : Nat) (s : State) :
    exec (.taskRestore core saved) s = execTaskRestore core saved s := rfl
theorem exec_quantumEnd (core ctx : Nat) (s : State) : exec (.quantumEnd core ctx) s = execQuantumEnd core ctx s := rfl
theorem exec_contextSave (core ctx : Nat) (s : State) :
    exec (.contextSave core ctx) s = execContextSave core ctx s := rfl
theorem exec_borrowStep (id : Nat) (s : State) : exec (.borrowStep id) s = execBorrowStep id s := rfl
theorem exec_borrowGrantArrival (id : Nat) (s : State) :
    exec (.borrowGrantArrival id) s = execBorrowGrantArrival id s := rfl
theorem exec_weightReturn (id : Nat) (s : State) : exec (.weightReturn id) s = execWeightReturn id s := rfl
theorem exec_notificationTask (id : Nat) (s : State) : exec (.notificationTask id) s = execNotificationTask id s := rfl
theorem exec_hostBarrierDoorbell (bell : Doorbell) (write : Bool) (s : State) :
    exec (.hostBarrierDoorbell bell write) s = execHostBarrierDoorbell bell write s := rfl
theorem exec_peerBarrierArrival (peer pa : Nat) (s : State) :
    exec (.peerBarrierArrival peer pa) s = execPeerBarrierArrival peer pa s := rfl
theorem exec_mergeStep (chain : Nat) (s : State) : exec (.mergeStep chain) s = execMergeStep chain s := rfl
theorem exec_engineTakeRequest (cluster : Nat) (s : State) :
    exec (.engineTakeRequest cluster) s = execEngineTakeRequest cluster s := rfl
theorem exec_engineLineTransfer (cluster req : Nat) (s : State) :
    exec (.engineLineTransfer cluster req) s = execEngineLineTransfer cluster req s := rfl
theorem exec_copyCompletion (cluster req : Nat) (s : State) :
    exec (.copyCompletion cluster req) s = execCopyCompletion cluster req s := rfl
theorem exec_engineFault (cluster req : Nat) (s : State) :
    exec (.engineFault cluster req) s = execEngineFault cluster req s := rfl
theorem exec_engineRetry (cluster req : Nat) (s : State) :
    exec (.engineRetry cluster req) s = execEngineRetry cluster req s := rfl
theorem exec_engineMonitorFire (slice mon : Nat) (s : State) :
    exec (.engineMonitorFire slice mon) s = execEngineMonitorFire slice mon s := rfl
theorem exec_translationWalk (slice asid va : Nat) (s : State) :
    exec (.translationWalk slice asid va) s = execTranslationWalk slice asid va s := rfl
theorem exec_monitorFire (slice mon : Nat) (s : State) :
    exec (.monitorFire slice mon) s = execMonitorFire slice mon s := rfl
theorem exec_lineRecall (line : Nat) (s : State) : exec (.lineRecall line) s = execLineRecall line s := rfl
theorem exec_invalidationArrival (id slice : Nat) (s : State) :
    exec (.invalidationArrival id slice) s = execInvalidationArrival id slice s := rfl
theorem exec_invalidationAck (id slice : Nat) (s : State) :
    exec (.invalidationAck id slice) s = execInvalidationAck id slice s := rfl
theorem exec_invalidationDone (id : Nat) (s : State) : exec (.invalidationDone id) s = execInvalidationDone id s := rfl
theorem exec_weightStoreRefresh (s : State) : exec (.weightStoreRefresh) s = execWeightStoreRefresh s := rfl
theorem exec_queueDoorbell (q : Nat) (s : State) : exec (.queueDoorbell q) s = execQueueDoorbell q s := rfl
theorem exec_slotIdleTimeout (q : Nat) (s : State) : exec (.slotIdleTimeout q) s = execSlotIdleTimeout q s := rfl
theorem exec_commandFetch (q : Nat) (s : State) : exec (.commandFetch q) s = execCommandFetch q s := rfl
theorem exec_cmdNop (q : Nat) (s : State) : exec (.cmdNop q) s = execCmdNop q s := rfl
theorem exec_cmdLaunch (q : Nat) (s : State) : exec (.cmdLaunch q) s = execCmdLaunch q s := rfl
theorem exec_cmdWait (q : Nat) (s : State) : exec (.cmdWait q) s = execCmdWait q s := rfl
theorem exec_waitSatisfied (q : Nat) (s : State) : exec (.waitSatisfied q) s = execWaitSatisfied q s := rfl
theorem exec_cmdSignal (q : Nat) (s : State) : exec (.cmdSignal q) s = execCmdSignal q s := rfl
theorem exec_cmdMsg (q : Nat) (s : State) : exec (.cmdMsg q) s = execCmdMsg q s := rfl
theorem exec_cmdWsload (q : Nat) (s : State) : exec (.cmdWsload q) s = execCmdWsload q s := rfl
theorem exec_wsloadComplete (q : Nat) (s : State) : exec (.wsloadComplete q) s = execWsloadComplete q s := rfl
theorem exec_cmdXinv (q : Nat) (s : State) : exec (.cmdXinv q) s = execCmdXinv q s := rfl
theorem exec_cmdResume (q : Nat) (s : State) : exec (.cmdResume q) s = execCmdResume q s := rfl
theorem exec_cmdKill (q : Nat) (s : State) : exec (.cmdKill q) s = execCmdKill q s := rfl
theorem exec_cmdUnpin (q : Nat) (s : State) : exec (.cmdUnpin q) s = execCmdUnpin q s := rfl
theorem exec_cmdDec (q : Nat) (s : State) : exec (.cmdDec q) s = execCmdDec q s := rfl
theorem exec_commandAccessRetry (q : Nat) (s : State) :
    exec (.commandAccessRetry q) s = execCommandAccessRetry q s := rfl
theorem exec_depRelease (q : Nat) (s : State) : exec (.depRelease q) s = execDepRelease q s := rfl
theorem exec_launchAcceptance (launch : Nat) (s : State) :
    exec (.launchAcceptance launch) s = execLaunchAcceptance launch s := rfl
theorem exec_launchStartReport (launch core : Nat) (s : State) :
    exec (.launchStartReport launch core) s = execLaunchStartReport launch core s := rfl
theorem exec_launchCompletion (launch : Nat) (s : State) :
    exec (.launchCompletion launch) s = execLaunchCompletion launch s := rfl
theorem exec_queueMessageDelivery (msg : Nat) (s : State) :
    exec (.queueMessageDelivery msg) s = execQueueMessageDelivery msg s := rfl
theorem exec_msixInterrupt (q : Nat) (s : State) : exec (.msixInterrupt q) s = execMsixInterrupt q s := rfl
theorem exec_retainedPartitionReclaim (core : Nat) (s : State) :
    exec (.retainedPartitionReclaim core) s = execRetainedPartitionReclaim core s := rfl
theorem exec_semaphoreRead (port : Port) (n : Nat) (s : State) :
    exec (.semaphoreRead port n) s = execSemaphoreRead port n s := rfl
theorem exec_semaphoreWrite (port : Port) (n : Nat) (value : Word) (s : State) :
    exec (.semaphoreWrite port n value) s = execSemaphoreWrite port n value s := rfl
theorem exec_memoryWindowAccess (off len : Nat) (data : Option (BitVec 4096)) (s : State) :
    exec (.memoryWindowAccess off len data) s = execMemoryWindowAccess off len data s := rfl
theorem exec_ueTransfer (msg : Nat) (s : State) : exec (.ueTransfer msg) s = execUeTransfer msg s := rfl
theorem exec_ueTransferComplete (id : Nat) (denied : Bool) (data : List Byte) (s : State) :
    exec (.ueTransferComplete id denied data) s = execUeTransferComplete id denied data s := rfl
theorem exec_ualinkTimeout (core ctx : Nat) (s : State) :
    exec (.ualinkTimeout core ctx) s = execUalinkTimeout core ctx s := rfl
theorem exec_ptpDiscipline (offset : Int) (s : State) :
    exec (.ptpDiscipline offset) s = execPtpDiscipline offset s := rfl
theorem exec_speedPublication (s : State) : exec (.speedPublication) s = execSpeedPublication s := rfl
theorem exec_measurementStart (core : Nat) (s : State) :
    exec (.measurementStart core) s = execMeasurementStart core s := rfl
theorem exec_measurementEnd (core : Nat) (curve : Curve) (s : State) :
    exec (.measurementEnd core curve) s = execMeasurementEnd core curve s := rfl
theorem exec_operatingPointControl (k : Nat) (s : State) :
    exec (.operatingPointControl k) s = execOperatingPointControl k s := rfl
theorem exec_correctedError (site : ErrSite) (s : State) :
    exec (.correctedError site) s = execCorrectedError site s := rfl
theorem exec_uncorrectableError (site : ErrSite) (s : State) :
    exec (.uncorrectableError site) s = execUncorrectableError site s := rfl
theorem exec_marginMonitorFire (core : Nat) (s : State) :
    exec (.marginMonitorFire core) s = execMarginMonitorFire core s := rfl
theorem exec_patrolScrub (part : Nat) (s : State) : exec (.patrolScrub part) s = execPatrolScrub part s := rfl
theorem exec_logOverflowRecord (core : Nat) (s : State) :
    exec (.logOverflowRecord core) s = execLogOverflowRecord core s := rfl
theorem exec_logLineFlush (core : Nat) (s : State) : exec (.logLineFlush core) s = execLogLineFlush core s := rfl
theorem exec_sample (core : Nat) (s : State) : exec (.sample core) s = execSample core s := rfl
theorem exec_dbgHalt (cluster : Nat) (s : State) : exec (.dbgHalt cluster) s = execDbgHalt cluster s := rfl
theorem exec_dbgRun (cluster : Nat) (s : State) : exec (.dbgRun cluster) s = execDbgRun cluster s := rfl
theorem exec_dbgData (cluster : Nat) (write : Option Word) (s : State) :
    exec (.dbgData cluster write) s = execDbgData cluster write s := rfl
theorem exec_dbgStatClear (cluster : Nat) (s : State) :
    exec (.dbgStatClear cluster) s = execDbgStatClear cluster s := rfl
theorem exec_watchpointWrite (cluster off : Nat) (value : Word) (s : State) :
    exec (.watchpointWrite cluster off value) s = execWatchpointWrite cluster off value s := rfl
theorem exec_breakpointMatch (core ctx : Nat) (s : State) :
    exec (.breakpointMatch core ctx) s = execBreakpointMatch core ctx s := rfl
theorem exec_watchpointHit (s : State) : exec (.watchpointHit) s = execWatchpointHit s := rfl
theorem exec_dip (cluster : Nat) (s : State) : exec (.dip cluster) s = execDip cluster s := rfl
theorem exec_dipRelay (cluster : Nat) (s : State) : exec (.dipRelay cluster) s = execDipRelay cluster s := rfl
theorem exec_containerLoad (pa asid : Nat) (s : State) :
    exec (.containerLoad pa asid) s = execContainerLoad pa asid s := rfl
theorem exec_bootRetry (s : State) : exec (.bootRetry) s = execBootRetry s := rfl
theorem exec_packageReset (s : State) : exec (.packageReset) s = execPackageReset s := rfl
theorem exec_portReset (port : Port) (s : State) : exec (.portReset port) s = execPortReset port s := rfl
theorem exec_launchAbort (launch : Nat) (s : State) : exec (.launchAbort launch) s = execLaunchAbort launch s := rfl
theorem exec_abortNotice (gang : Word) (sender : Nat) (s : State) :
    exec (.abortNotice gang sender) s = execAbortNotice gang sender s := rfl
theorem exec_registerWrite (reg : HostReg) (value : Word) (s : State) :
    exec (.registerWrite reg value) s = execRegisterWrite reg value s := rfl
theorem exec_illegalWord (w : BitVec 32) (s : State) : exec (.illegalWord w) s = execIllegalWord w s := rfl
theorem exec_ualinkPeerAccess (peer pa : Nat) (req : PeerReq) (s : State) :
    exec (.ualinkPeerAccess peer pa req) s = execUalinkPeerAccess peer pa req s := rfl
theorem exec_incomingTransfer (source : RemoteAddr) (len : Nat) (data : Option (List Byte)) (s : State) :
    exec (.incomingTransfer source len data) s = execIncomingTransfer source len data s := rfl
theorem exec_linkCreditReturn (link : Link) (s : State) :
    exec (.linkCreditReturn link) s = execLinkCreditReturn link s := rfl
theorem exec_handoverArrival (id : Nat) (s : State) : exec (.handoverArrival id) s = execHandoverArrival id s := rfl
theorem exec_killAcknowledgement (id : Nat) (s : State) :
    exec (.killAcknowledgement id) s = execKillAcknowledgement id s := rfl
theorem exec_queueEnCleared (q : Nat) (s : State) : exec (.queueEnCleared q) s = execQueueEnCleared q s := rfl

end Sys2Proof.Machine
end

