-- ==== Sys2Proof/Laws/PerInstr.lean ====
section
/-! SUPPORT. The family Words: the first word of an instruction's encoding tells how many bytes the instruction takes
(R86, R100); an event has no word. One lemma for each instruction. -/

namespace Sys2Proof.Laws

/-- A list of words is empty, or its first word tells how many there are. -/
def wordsAgree : List Nat → Prop
  | [] => True
  | w0 :: ws => lengthOf w0 = 4 * (ws.length + 1)

theorem packBits_lt (lay fs : List Nat) : packBits lay fs < 2 ^ bitsOf lay := by
  induction lay generalizing fs with
  | nil => cases fs <;> simp [packBits, bitsOf]
  | cons w ws ih =>
    cases fs with
    | nil => exact Nat.two_pow_pos _
    | cons f fs =>
      have h1 := ih fs
      have h2 : f % 2 ^ w < 2 ^ w := Nat.mod_lt _ (Nat.two_pow_pos _)
      have h3 : bitsOf (w :: ws) = w + bitsOf ws := rfl
      rw [packBits, h3, Nat.pow_add]
      have h4 : (f % 2 ^ w + 1) * 2 ^ bitsOf ws ≤ 2 ^ w * 2 ^ bitsOf ws := Nat.mul_le_mul_right _ h2
      rw [Nat.add_mul] at h4
      omega

/-- MAJ is the top field of a word of 32 bits. -/
theorem packBits_maj (maj : Nat) {lay : List Nat} (fs : List Nat) (h : bitsOf lay = 26) :
    packBits (6 :: lay) (maj :: fs) / 2 ^ 26 = maj % 64 := by
  have hlt := packBits_lt lay fs
  rw [h] at hlt
  rw [packBits, h, Nat.mul_comm, Nat.mul_add_div (by decide), Nat.div_eq_of_lt hlt]
  simp

theorem wordsAgree_short (maj : Nat) {lay : List Nat} (fs : List Nat) (h : bitsOf lay = 26) (hm : maj % 64 ≠ 0x3F) :
    wordsAgree [packBits (6 :: lay) (maj :: fs)] := by
  show lengthOf _ = 4
  unfold lengthOf isLong
  rw [packBits_maj maj fs h]
  simp [hm]

theorem wordsAgree_long (sub d a b g w1 : Nat) : wordsAgree (lw sub d a b g w1) := by
  show lengthOf _ = 8
  unfold lengthOf isLong layL
  rw [packBits_maj 0x3F _ (by rfl)]
  rfl

namespace Words

/-- What the family says of an instruction. -/
def Statement (i : Instr) : Prop := wordsAgree (encode i)

theorem add (d a b : SReg) (g : PReg) : Statement (.add d a b g) := wordsAgree_short _ _ rfl (by decide)
theorem sub (d a b : SReg) (g : PReg) : Statement (.sub d a b g) := wordsAgree_short _ _ rfl (by decide)
theorem mul (d a b : SReg) (g : PReg) : Statement (.mul d a b g) := wordsAgree_short _ _ rfl (by decide)
theorem mulh (d a b : SReg) (g : PReg) : Statement (.mulh d a b g) := wordsAgree_short _ _ rfl (by decide)
theorem mulhn (d a b : SReg) (g : PReg) : Statement (.mulhn d a b g) := wordsAgree_short _ _ rfl (by decide)
theorem div (d a b : SReg) (g : PReg) : Statement (.div d a b g) := wordsAgree_short _ _ rfl (by decide)
theorem divn (d a b : SReg) (g : PReg) : Statement (.divn d a b g) := wordsAgree_short _ _ rfl (by decide)
theorem rem (d a b : SReg) (g : PReg) : Statement (.rem d a b g) := wordsAgree_short _ _ rfl (by decide)
theorem remn (d a b : SReg) (g : PReg) : Statement (.remn d a b g) := wordsAgree_short _ _ rfl (by decide)
theorem and (d a b : SReg) (g : PReg) : Statement (.and d a b g) := wordsAgree_short _ _ rfl (by decide)
theorem or (d a b : SReg) (g : PReg) : Statement (.or d a b g) := wordsAgree_short _ _ rfl (by decide)
theorem xor (d a b : SReg) (g : PReg) : Statement (.xor d a b g) := wordsAgree_short _ _ rfl (by decide)
theorem shl (d a b : SReg) (g : PReg) : Statement (.shl d a b g) := wordsAgree_short _ _ rfl (by decide)
theorem shr (d a b : SReg) (g : PReg) : Statement (.shr d a b g) := wordsAgree_short _ _ rfl (by decide)
theorem sha (d a b : SReg) (g : PReg) : Statement (.sha d a b g) := wordsAgree_short _ _ rfl (by decide)
theorem rot (d a b : SReg) (g : PReg) : Statement (.rot d a b g) := wordsAgree_short _ _ rfl (by decide)
theorem min (d a b : SReg) (g : PReg) : Statement (.min d a b g) := wordsAgree_short _ _ rfl (by decide)
theorem max (d a b : SReg) (g : PReg) : Statement (.max d a b g) := wordsAgree_short _ _ rfl (by decide)
theorem minn (d a b : SReg) (g : PReg) : Statement (.minn d a b g) := wordsAgree_short _ _ rfl (by decide)
theorem maxn (d a b : SReg) (g : PReg) : Statement (.maxn d a b g) := wordsAgree_short _ _ rfl (by decide)
theorem lea (d a b : SReg) (sh : Fin 4) (g : PReg) : Statement (.lea d a b sh g) := wordsAgree_short _ _ rfl (by decide)
theorem clz (d a : SReg) (g : PReg) : Statement (.clz d a g) := wordsAgree_short _ _ rfl (by decide)
theorem ctz (d a : SReg) (g : PReg) : Statement (.ctz d a g) := wordsAgree_short _ _ rfl (by decide)
theorem popc (d a : SReg) (g : PReg) : Statement (.popc d a g) := wordsAgree_short _ _ rfl (by decide)
theorem brev (d a : SReg) (g : PReg) : Statement (.brev d a g) := wordsAgree_short _ _ rfl (by decide)
theorem bext (d a b : SReg) (g : PReg) : Statement (.bext d a b g) := wordsAgree_short _ _ rfl (by decide)
theorem bins (d a b : SReg) (g : PReg) : Statement (.bins d a b g) := wordsAgree_short _ _ rfl (by decide)
theorem addi (d a : SReg) (imm : BitVec 11) (g : PReg) : Statement (.addi d a imm g) := wordsAgree_short _ _ rfl (by decide)
theorem andi (d a : SReg) (imm : BitVec 11) (g : PReg) : Statement (.andi d a imm g) := wordsAgree_short _ _ rfl (by decide)
theorem ori (d a : SReg) (imm : BitVec 11) (g : PReg) : Statement (.ori d a imm g) := wordsAgree_short _ _ rfl (by decide)
theorem xori (d a : SReg) (imm : BitVec 11) (g : PReg) : Statement (.xori d a imm g) := wordsAgree_short _ _ rfl (by decide)
theorem shli (d a : SReg) (amount : Fin 64) (g : PReg) : Statement (.shli d a amount g) := wordsAgree_short _ _ rfl (by decide)
theorem shri (d a : SReg) (amount : Fin 64) (g : PReg) : Statement (.shri d a amount g) := wordsAgree_short _ _ rfl (by decide)
theorem shai (d a : SReg) (amount : Fin 64) (g : PReg) : Statement (.shai d a amount g) := wordsAgree_short _ _ rfl (by decide)
theorem roti (d a : SReg) (amount : Fin 64) (g : PReg) : Statement (.roti d a amount g) := wordsAgree_short _ _ rfl (by decide)
theorem lih (d : SReg) (imm : BitVec 17) (g : PReg) : Statement (.lih d imm g) := wordsAgree_short _ _ rfl (by decide)
theorem addpc (d : SReg) (imm : BitVec 17) (g : PReg) : Statement (.addpc d imm g) := wordsAgree_short _ _ rfl (by decide)
theorem cmp (cc : Cc) (pd : PReg) (a b : SReg) (g : PReg) : Statement (.cmp cc pd a b g) := wordsAgree_short _ _ rfl (by decide)
theorem cmpi (cc : Cc) (pd : PReg) (a : SReg) (imm : BitVec 11) (g : PReg) : Statement (.cmpi cc pd a imm g) := wordsAgree_short _ _ rfl (by decide)
theorem plog (pd pa pb : PReg) (tt : BitVec 4) (g : PReg) : Statement (.plog pd pa pb tt g) := wordsAgree_short _ _ rfl (by decide)
theorem sel (d a b : SReg) (pc : PReg) : Statement (.sel d a b pc) := wordsAgree_short _ _ rfl (by decide)
theorem ldD (d a : SReg) (off : BitVec 8) (la : Fin 16) (ord : SmOrd) : Statement (.ldD d a off la ord) := wordsAgree_short _ _ rfl (by decide)
theorem ldW (d a : SReg) (off : BitVec 8) (la : Fin 16) (ord : SmOrd) : Statement (.ldW d a off la ord) := wordsAgree_short _ _ rfl (by decide)
theorem ldWn (d a : SReg) (off : BitVec 8) (la : Fin 16) (ord : SmOrd) : Statement (.ldWn d a off la ord) := wordsAgree_short _ _ rfl (by decide)
theorem stD (d a : SReg) (off : BitVec 8) (la : Fin 16) (ord : SmOrd) : Statement (.stD d a off la ord) := wordsAgree_short _ _ rfl (by decide)
theorem stW (d a : SReg) (off : BitVec 8) (la : Fin 16) (ord : SmOrd) : Statement (.stW d a off la ord) := wordsAgree_short _ _ rfl (by decide)
theorem ldxB (d a b : SReg) (g : PReg) : Statement (.ldxB d a b g) := wordsAgree_short _ _ rfl (by decide)
theorem ldxBn (d a b : SReg) (g : PReg) : Statement (.ldxBn d a b g) := wordsAgree_short _ _ rfl (by decide)
theorem ldxH (d a b : SReg) (g : PReg) : Statement (.ldxH d a b g) := wordsAgree_short _ _ rfl (by decide)
theorem ldxHn (d a b : SReg) (g : PReg) : Statement (.ldxHn d a b g) := wordsAgree_short _ _ rfl (by decide)
theorem ldxW (d a b : SReg) (g : PReg) : Statement (.ldxW d a b g) := wordsAgree_short _ _ rfl (by decide)
theorem ldxWn (d a b : SReg) (g : PReg) : Statement (.ldxWn d a b g) := wordsAgree_short _ _ rfl (by decide)
theorem ldxD (d a b : SReg) (g : PReg) : Statement (.ldxD d a b g) := wordsAgree_short _ _ rfl (by decide)
theorem amoAddD (d a b : SReg) (g : PReg) : Statement (.amoAddD d a b g) := wordsAgree_short _ _ rfl (by decide)
theorem amoAndD (d a b : SReg) (g : PReg) : Statement (.amoAndD d a b g) := wordsAgree_short _ _ rfl (by decide)
theorem amoOrD (d a b : SReg) (g : PReg) : Statement (.amoOrD d a b g) := wordsAgree_short _ _ rfl (by decide)
theorem amoXorD (d a b : SReg) (g : PReg) : Statement (.amoXorD d a b g) := wordsAgree_short _ _ rfl (by decide)
theorem amoMinD (d a b : SReg) (g : PReg) : Statement (.amoMinD d a b g) := wordsAgree_short _ _ rfl (by decide)
theorem amoMaxD (d a b : SReg) (g : PReg) : Statement (.amoMaxD d a b g) := wordsAgree_short _ _ rfl (by decide)
theorem amoMinnD (d a b : SReg) (g : PReg) : Statement (.amoMinnD d a b g) := wordsAgree_short _ _ rfl (by decide)
theorem amoMaxnD (d a b : SReg) (g : PReg) : Statement (.amoMaxnD d a b g) := wordsAgree_short _ _ rfl (by decide)
theorem amoSwpD (d a b : SReg) (g : PReg) : Statement (.amoSwpD d a b g) := wordsAgree_short _ _ rfl (by decide)
theorem amoCasD (d a b : SReg) (g : PReg) : Statement (.amoCasD d a b g) := wordsAgree_short _ _ rfl (by decide)
theorem amoFaddF64 (d a b : SReg) (g : PReg) : Statement (.amoFaddF64 d a b g) := wordsAgree_short _ _ rfl (by decide)
theorem amoTrigD (d a b : SReg) (g : PReg) : Statement (.amoTrigD d a b g) := wordsAgree_short _ _ rfl (by decide)
theorem amoAddW (d a b : SReg) (g : PReg) : Statement (.amoAddW d a b g) := wordsAgree_short _ _ rfl (by decide)
theorem amoAndW (d a b : SReg) (g : PReg) : Statement (.amoAndW d a b g) := wordsAgree_short _ _ rfl (by decide)
theorem amoOrW (d a b : SReg) (g : PReg) : Statement (.amoOrW d a b g) := wordsAgree_short _ _ rfl (by decide)
theorem amoXorW (d a b : SReg) (g : PReg) : Statement (.amoXorW d a b g) := wordsAgree_short _ _ rfl (by decide)
theorem amoMinW (d a b : SReg) (g : PReg) : Statement (.amoMinW d a b g) := wordsAgree_short _ _ rfl (by decide)
theorem amoMaxW (d a b : SReg) (g : PReg) : Statement (.amoMaxW d a b g) := wordsAgree_short _ _ rfl (by decide)
theorem amoMinnW (d a b : SReg) (g : PReg) : Statement (.amoMinnW d a b g) := wordsAgree_short _ _ rfl (by decide)
theorem amoMaxnW (d a b : SReg) (g : PReg) : Statement (.amoMaxnW d a b g) := wordsAgree_short _ _ rfl (by decide)
theorem amoSwpW (d a b : SReg) (g : PReg) : Statement (.amoSwpW d a b g) := wordsAgree_short _ _ rfl (by decide)
theorem amoCasW (d a b : SReg) (g : PReg) : Statement (.amoCasW d a b g) := wordsAgree_short _ _ rfl (by decide)
theorem amoFaddF32 (d a b : SReg) (g : PReg) : Statement (.amoFaddF32 d a b g) := wordsAgree_short _ _ rfl (by decide)
theorem br (g : PReg) (inv : Bool) (off : BitVec 22) : Statement (.br g inv off) := wordsAgree_short _ _ rfl (by decide)
theorem j (off : BitVec 22) : Statement (.j off) := wordsAgree_short _ _ rfl (by decide)
theorem jal (off : BitVec 22) : Statement (.jal off) := wordsAgree_short _ _ rfl (by decide)
theorem jr (a : SReg) (g : PReg) : Statement (.jr a g) := wordsAgree_short _ _ rfl (by decide)
theorem jalr (d a : SReg) (g : PReg) : Statement (.jalr d a g) := wordsAgree_short _ _ rfl (by decide)
theorem vadd (ty : Ty) (d a b : VReg) (k : KReg) : Statement (.vadd ty d a b k) := wordsAgree_short _ _ rfl (by decide)
theorem vsub (ty : Ty) (d a b : VReg) (k : KReg) : Statement (.vsub ty d a b k) := wordsAgree_short _ _ rfl (by decide)
theorem vmul (ty : Ty) (d a b : VReg) (k : KReg) : Statement (.vmul ty d a b k) := wordsAgree_short _ _ rfl (by decide)
theorem vmulh (ty : Ty) (d a b : VReg) (k : KReg) : Statement (.vmulh ty d a b k) := wordsAgree_short _ _ rfl (by decide)
theorem vmin (ty : Ty) (d a b : VReg) (k : KReg) : Statement (.vmin ty d a b k) := wordsAgree_short _ _ rfl (by decide)
theorem vmax (ty : Ty) (d a b : VReg) (k : KReg) : Statement (.vmax ty d a b k) := wordsAgree_short _ _ rfl (by decide)
theorem vand (ty : Ty) (d a b : VReg) (k : KReg) : Statement (.vand ty d a b k) := wordsAgree_short _ _ rfl (by decide)
theorem vor (ty : Ty) (d a b : VReg) (k : KReg) : Statement (.vor ty d a b k) := wordsAgree_short _ _ rfl (by decide)
theorem vxor (ty : Ty) (d a b : VReg) (k : KReg) : Statement (.vxor ty d a b k) := wordsAgree_short _ _ rfl (by decide)
theorem vandn (ty : Ty) (d a b : VReg) (k : KReg) : Statement (.vandn ty d a b k) := wordsAgree_short _ _ rfl (by decide)
theorem vshl (ty : Ty) (d a b : VReg) (k : KReg) : Statement (.vshl ty d a b k) := wordsAgree_short _ _ rfl (by decide)
theorem vshr (ty : Ty) (d a b : VReg) (k : KReg) : Statement (.vshr ty d a b k) := wordsAgree_short _ _ rfl (by decide)
theorem vsha (ty : Ty) (d a b : VReg) (k : KReg) : Statement (.vsha ty d a b k) := wordsAgree_short _ _ rfl (by decide)
theorem vabs (ty : Ty) (d a : VReg) (k : KReg) : Statement (.vabs ty d a k) := wordsAgree_short _ _ rfl (by decide)
theorem vneg (ty : Ty) (d a : VReg) (k : KReg) : Statement (.vneg ty d a k) := wordsAgree_short _ _ rfl (by decide)
theorem vfma (ty : Ty) (d a b : VReg) (k : KReg) : Statement (.vfma ty d a b k) := wordsAgree_short _ _ rfl (by decide)
theorem vfms (ty : Ty) (d a b : VReg) (k : KReg) : Statement (.vfms ty d a b k) := wordsAgree_short _ _ rfl (by decide)
theorem vfnma (ty : Ty) (d a b : VReg) (k : KReg) : Statement (.vfnma ty d a b k) := wordsAgree_short _ _ rfl (by decide)
theorem vrcp (ty : Ty) (d a : VReg) (k : KReg) : Statement (.vrcp ty d a k) := wordsAgree_short _ _ rfl (by decide)
theorem vrsq (ty : Ty) (d a : VReg) (k : KReg) : Statement (.vrsq ty d a k) := wordsAgree_short _ _ rfl (by decide)
theorem vcmp (cc : Cc) (ty : Ty) (kd : KReg) (a b : VReg) (k : KReg) : Statement (.vcmp cc ty kd a b k) := wordsAgree_short _ _ rfl (by simp [VOp.mj])
theorem vsel (ty : Ty) (d a b : VReg) (k : KReg) : Statement (.vsel ty d a b k) := wordsAgree_short _ _ rfl (by decide)
theorem viota (ty : Ty) (d : VReg) (k : KReg) : Statement (.viota ty d k) := wordsAgree_short _ _ rfl (by decide)
theorem vcompress (ty : Ty) (d a : VReg) (k : KReg) : Statement (.vcompress ty d a k) := wordsAgree_short _ _ rfl (by decide)
theorem vexpand (ty : Ty) (d a : VReg) (k : KReg) : Statement (.vexpand ty d a k) := wordsAgree_short _ _ rfl (by decide)
theorem vperm (ty : Ty) (d a b : VReg) (k : KReg) : Statement (.vperm ty d a b k) := wordsAgree_short _ _ rfl (by decide)
theorem vcvt (dt st : Ty) (d a : VReg) (k : KReg) : Statement (.vcvt dt st d a k) := wordsAgree_short _ _ rfl (by simp [VOp.mj])
theorem vscl (ty : Ty) (d a b : VReg) (k : KReg) : Statement (.vscl ty d a b k) := wordsAgree_short _ _ rfl (by decide)
theorem vqnt (ty : Ty) (d a b : VReg) (k : KReg) : Statement (.vqnt ty d a b k) := wordsAgree_short _ _ rfl (by decide)
theorem vexpmax (ty : Ty) (d a : VReg) (k : KReg) : Statement (.vexpmax ty d a k) := wordsAgree_short _ _ rfl (by decide)
theorem vbin (ty : Ty) (d a b : VReg) (k : KReg) : Statement (.vbin ty d a b k) := wordsAgree_short _ _ rfl (by decide)
theorem vred (op : RedOp) (ty : Ty) (d a : VReg) (k : KReg) : Statement (.vred op ty d a k) := wordsAgree_short _ _ rfl (by simp [VOp.mj])
theorem vscan (op : RedOp) (ty : Ty) (d a : VReg) (k : KReg) : Statement (.vscan op ty d a k) := wordsAgree_short _ _ rfl (by simp [VOp.mj])
theorem kand (d a b : KReg) : Statement (.kand d a b) := wordsAgree_short _ _ rfl (by decide)
theorem kor (d a b : KReg) : Statement (.kor d a b) := wordsAgree_short _ _ rfl (by decide)
theorem kxor (d a b : KReg) : Statement (.kxor d a b) := wordsAgree_short _ _ rfl (by decide)
theorem kandn (d a b : KReg) : Statement (.kandn d a b) := wordsAgree_short _ _ rfl (by decide)
theorem kmov (d a : KReg) : Statement (.kmov d a) := wordsAgree_short _ _ rfl (by decide)
theorem vld (ty : Ty) (d : VReg) (a : SReg) (k : KReg) (la : Fin 16) : Statement (.vld ty d a k la) := wordsAgree_short _ _ rfl (by decide)
theorem vldInc (ty : Ty) (d : VReg) (a : SReg) (k : KReg) (la : Fin 16) : Statement (.vldInc ty d a k la) := wordsAgree_short _ _ rfl (by decide)
theorem vldRep (ty : Ty) (d : VReg) (a : SReg) (k : KReg) (la : Fin 16) : Statement (.vldRep ty d a k la) := wordsAgree_short _ _ rfl (by decide)
theorem vst (ty : Ty) (d : VReg) (a : SReg) (k : KReg) (la : Fin 16) : Statement (.vst ty d a k la) := wordsAgree_short _ _ rfl (by decide)
theorem vstInc (ty : Ty) (d : VReg) (a : SReg) (k : KReg) (la : Fin 16) : Statement (.vstInc ty d a k la) := wordsAgree_short _ _ rfl (by decide)
theorem vbcast (ty : Ty) (d : VReg) (a : SReg) (k : KReg) : Statement (.vbcast ty d a k) := wordsAgree_short _ _ rfl (by decide)
theorem vsetl (ty : Ty) (d a : SReg) : Statement (.vsetl ty d a) := wordsAgree_short _ _ rfl (by decide)
theorem vpopk (ty : Ty) (d : SReg) (k : KReg) : Statement (.vpopk ty d k) := wordsAgree_short _ _ rfl (by decide)
theorem vfirstk (ty : Ty) (d : SReg) (k : KReg) : Statement (.vfirstk ty d k) := wordsAgree_short _ _ rfl (by decide)
theorem mma (fmt : Fmt) (td va vb : VReg) (la : Fin 16) : Statement (.mma fmt td va vb la) := wordsAgree_short _ _ rfl (by decide)
theorem mmas (fmt : Fmt) (td va vb : VReg) (la : Fin 16) : Statement (.mmas fmt td va vb la) := wordsAgree_short _ _ rfl (by decide)
theorem mmaq (fmt : Fmt) (td va vb : VReg) (la : Fin 16) : Statement (.mmaq fmt td va vb la) := wordsAgree_short _ _ rfl (by decide)
theorem tld (fmt : Fmt) (td : VReg) (a : SReg) (la : Fin 16) : Statement (.tld fmt td a la) := wordsAgree_short _ _ rfl (by decide)
theorem tst (fmt : Fmt) (td : VReg) (a : SReg) (la : Fin 16) : Statement (.tst fmt td a la) := wordsAgree_short _ _ rfl (by decide)
theorem tzero (td : VReg) : Statement (.tzero td) := wordsAgree_short _ _ rfl (by decide)
theorem ttrn (td ta : VReg) : Statement (.ttrn td ta) := wordsAgree_short _ _ rfl (by decide)
theorem modeM (n1 : Fin 32) : Statement (.modeM n1) := wordsAgree_short _ _ rfl (by decide)
theorem modeV : Statement (.modeV) := wordsAgree_short _ _ rfl (by decide)
theorem tcvt (fmt : Fmt) (td ta : VReg) : Statement (.tcvt fmt td ta) := wordsAgree_short _ _ rfl (by decide)
theorem spawn (a b : SReg) (bank : Bool) : Statement (.spawn a b bank) := wordsAgree_short _ _ rfl (by decide)
theorem spawnc (a b : SReg) (bank : Bool) : Statement (.spawnc a b bank) := wordsAgree_short _ _ rfl (by decide)
theorem callat (a b : SReg) (bank : Bool) : Statement (.callat a b bank) := wordsAgree_short _ _ rfl (by decide)
theorem sendm (a b : SReg) : Statement (.sendm a b) := wordsAgree_short _ _ rfl (by decide)
theorem reply (a b : SReg) : Statement (.reply a b) := wordsAgree_short _ _ rfl (by decide)
theorem halt : Statement (.halt) := wordsAgree_short _ _ rfl (by decide)
theorem haltRetain (a : SReg) : Statement (.haltRetain a) := wordsAgree_short _ _ rfl (by decide)
theorem join : Statement (.join) := wordsAgree_short _ _ rfl (by decide)
theorem kill (a : SReg) : Statement (.kill a) := wordsAgree_short _ _ rfl (by decide)
theorem hoistOpen (a : SReg) : Statement (.hoistOpen a) := wordsAgree_short _ _ rfl (by decide)
theorem waitq (a : SReg) : Statement (.waitq a) := wordsAgree_short _ _ rfl (by decide)
theorem pborrow : Statement (.pborrow) := wordsAgree_short _ _ rfl (by decide)
theorem viewDecl (vid : Fin 8) (a b : SReg) (op : ViewOp) : Statement (.viewDecl vid a b op) := wordsAgree_short _ _ rfl (by decide)
theorem viewDrop (vid : Fin 8) : Statement (.viewDrop vid) := wordsAgree_short _ _ rfl (by decide)
theorem barInit (a b : SReg) : Statement (.barInit a b) := wordsAgree_short _ _ rfl (by decide)
theorem barArv (a : SReg) : Statement (.barArv a) := wordsAgree_short _ _ rfl (by decide)
theorem barWait (a : SReg) : Statement (.barWait a) := wordsAgree_short _ _ rfl (by decide)
theorem sigAdd (a b : SReg) : Statement (.sigAdd a b) := wordsAgree_short _ _ rfl (by decide)
theorem sigWait (cc : Cc) (a b : SReg) : Statement (.sigWait cc a b) := wordsAgree_short _ _ rfl (by decide)
theorem acopy (a : SReg) : Statement (.acopy a) := wordsAgree_short _ _ rfl (by decide)
theorem acopyNb (b a : SReg) : Statement (.acopyNb b a) := wordsAgree_short _ _ rfl (by decide)
theorem abind (q : QReg) (a : SReg) : Statement (.abind q a) := wordsAgree_short _ _ rfl (by decide)
theorem apf (a b : SReg) (c : Fin 3) : Statement (.apf a b c) := wordsAgree_short _ _ rfl (by decide)
theorem fenceAcq (sc : Scope) : Statement (.fenceAcq sc) := wordsAgree_short _ _ rfl (by decide)
theorem fenceRel (sc : Scope) : Statement (.fenceRel sc) := wordsAgree_short _ _ rfl (by decide)
theorem fenceSc (sc : Scope) : Statement (.fenceSc sc) := wordsAgree_short _ _ rfl (by decide)
theorem handover (a b : SReg) : Statement (.handover a b) := wordsAgree_short _ _ rfl (by decide)
theorem xinv (a b : SReg) : Statement (.xinv a b) := wordsAgree_short _ _ rfl (by decide)
theorem mfc (a : SReg) (creg : BitVec 8) : Statement (.mfc a creg) := wordsAgree_short _ _ rfl (by decide)
theorem mtc (a : SReg) (creg : BitVec 8) : Statement (.mtc a creg) := wordsAgree_short _ _ rfl (by decide)
theorem trap (n : BitVec 8) : Statement (.trap n) := wordsAgree_short _ _ rfl (by decide)
theorem eret : Statement (.eret) := wordsAgree_short _ _ rfl (by decide)
theorem yield : Statement (.yield) := wordsAgree_short _ _ rfl (by decide)
theorem brk (n : BitVec 8) : Statement (.brk n) := wordsAgree_short _ _ rfl (by decide)
theorem nop : Statement (.nop) := wordsAgree_short _ _ rfl (by decide)
theorem movi (d : SReg) (imm : BitVec 32) (g : GReg) : Statement (.movi d imm g) := wordsAgree_long ..
theorem addiLong (d a : SReg) (imm : BitVec 32) (g : GReg) : Statement (.addiLong d a imm g) := wordsAgree_long ..
theorem andiLong (d a : SReg) (imm : BitVec 32) (g : GReg) : Statement (.andiLong d a imm g) := wordsAgree_long ..
theorem oriLong (d a : SReg) (imm : BitVec 32) (g : GReg) : Statement (.oriLong d a imm g) := wordsAgree_long ..
theorem xoriLong (d a : SReg) (imm : BitVec 32) (g : GReg) : Statement (.xoriLong d a imm g) := wordsAgree_long ..
theorem cmpiLong (cc : Cc) (pd : PReg) (a : SReg) (imm : BitVec 32) (g : GReg) : Statement (.cmpiLong cc pd a imm g) := wordsAgree_long ..
theorem ldLong (size : MemSize) (d a : SReg) (off : BitVec 19) (la : Fin 16) (sc : Scope) (ord : MemOrd) (g : GReg) : Statement (.ldLong size d a off la sc ord g) := wordsAgree_long ..
theorem stLong (size : MemSize) (d a : SReg) (off : BitVec 19) (la : Fin 16) (sc : Scope) (ord : MemOrd) (g : GReg) : Statement (.stLong size d a off la sc ord g) := wordsAgree_long ..
theorem amoLong (op : AmoOp) (half : Bool) (d a b : SReg) (sc : Scope) (ord : MemOrd) (g : GReg) : Statement (.amoLong op half d a b sc ord g) := wordsAgree_long ..
theorem amoNtf (op : AmoOp) (half : Bool) (d a b : SReg) (sc : Scope) (ord : MemOrd) (g : GReg) : Statement (.amoNtf op half d a b sc ord g) := wordsAgree_long ..
theorem ldp (d : SReg) (w : Fin 4) (a : SReg) (imm : BitVec 32) (g : GReg) : Statement (.ldp d w a imm g) := wordsAgree_long ..
theorem vectorOpLong (op : VOp) (ty : Ty) (d : VReg) (a b : VSrc) (k : KReg) (rc : Rc) : Statement (.vectorOpLong op ty d a b k rc) := wordsAgree_long ..
theorem vcvtRfb (dt st : Ty) (d : VReg) (a : VSrc) (vr : VReg) (k : KReg) (rc : Rc) : Statement (.vcvtRfb dt st d a vr k rc) := wordsAgree_long ..
theorem vcvtBs (dt : Ty) (d : VReg) (a b : VSrc) (k : KReg) : Statement (.vcvtBs dt d a b k) := wordsAgree_long ..
theorem vmemLong (st : Bool) (am : Am) (ty : Ty) (d : VSrc) (a : SReg) (off : BitVec 14) (k : KReg) (la : Fin 16) : Statement (.vmemLong st am ty d a off k la) := wordsAgree_long ..
theorem vlds (ty : Ty) (d : VReg) (a b : SReg) (off : BitVec 14) (k : KReg) (la : Fin 16) : Statement (.vlds ty d a b off k la) := wordsAgree_long ..
theorem vsts (ty : Ty) (d : VSrc) (a b : SReg) (off : BitVec 14) (k : KReg) (la : Fin 16) : Statement (.vsts ty d a b off k la) := wordsAgree_long ..
theorem vldx (ty : Ty) (d : VReg) (a : SReg) (vi : VReg) (off : BitVec 14) (k : KReg) (la : Fin 16) : Statement (.vldx ty d a vi off k la) := wordsAgree_long ..
theorem vstx (ty : Ty) (d : VSrc) (a : SReg) (vi : VReg) (off : BitVec 14) (k : KReg) (la : Fin 16) : Statement (.vstx ty d a vi off k la) := wordsAgree_long ..
theorem vslideUp (ty : Ty) (d : VReg) (a : VSrc) (b : SReg) (k : KReg) : Statement (.vslideUp ty d a b k) := wordsAgree_long ..
theorem vslideDn (ty : Ty) (d : VReg) (a : VSrc) (b : SReg) (k : KReg) : Statement (.vslideDn ty d a b k) := wordsAgree_long ..
theorem vins (ty : Ty) (d : VReg) (a b : SReg) : Statement (.vins ty d a b) := wordsAgree_long ..
theorem vext (ty : Ty) (d : SReg) (a : VSrc) (b : SReg) : Statement (.vext ty d a b) := wordsAgree_long ..
theorem mmag (fmt : Fmt) (td va vb vl : VReg) (la : Fin 16) : Statement (.mmag fmt td va vb vl la) := wordsAgree_long ..
theorem tscat (fmt : Fmt) (td : VReg) (a : SReg) (vi : VReg) (la : Fin 16) : Statement (.tscat fmt td a vi la) := wordsAgree_long ..
theorem tldStrided (fmt : Fmt) (td : VReg) (a b : SReg) (la : Fin 16) : Statement (.tldStrided fmt td a b la) := wordsAgree_long ..
theorem tstStrided (fmt : Fmt) (td : VReg) (a b : SReg) (la : Fin 16) : Statement (.tstStrided fmt td a b la) := wordsAgree_long ..
theorem longLatencyCompletion (core ctx seq : Nat) : Statement (.longLatencyCompletion core ctx seq) := trivial
theorem agingCycle (core : Nat) : Statement (.agingCycle core) := trivial
theorem yieldExpiry (core ctx : Nat) : Statement (.yieldExpiry core ctx) := trivial
theorem gridAcquire (core ctx : Nat) : Statement (.gridAcquire core ctx) := trivial
theorem upcallEntry (core ctx : Nat) : Statement (.upcallEntry core ctx) := trivial
theorem copyCompletionDelivery (core ctx : Nat) : Statement (.copyCompletionDelivery core ctx) := trivial
theorem messageArrival (msg : Nat) : Statement (.messageArrival msg) := trivial
theorem fabricStopAccept (msg : Nat) : Statement (.fabricStopAccept msg) := trivial
theorem taskStart (core : Nat) : Statement (.taskStart core) := trivial
theorem taskRestore (core saved : Nat) : Statement (.taskRestore core saved) := trivial
theorem quantumEnd (core ctx : Nat) : Statement (.quantumEnd core ctx) := trivial
theorem contextSave (core ctx : Nat) : Statement (.contextSave core ctx) := trivial
theorem borrowStep (id : Nat) : Statement (.borrowStep id) := trivial
theorem borrowGrantArrival (id : Nat) : Statement (.borrowGrantArrival id) := trivial
theorem weightReturn (id : Nat) : Statement (.weightReturn id) := trivial
theorem notificationTask (id : Nat) : Statement (.notificationTask id) := trivial
theorem hostBarrierDoorbell (bell : Doorbell) (write : Bool) : Statement (.hostBarrierDoorbell bell write) := trivial
theorem peerBarrierArrival (peer pa : Nat) : Statement (.peerBarrierArrival peer pa) := trivial
theorem mergeStep (chain : Nat) : Statement (.mergeStep chain) := trivial
theorem engineTakeRequest (cluster : Nat) : Statement (.engineTakeRequest cluster) := trivial
theorem engineLineTransfer (cluster req : Nat) : Statement (.engineLineTransfer cluster req) := trivial
theorem copyCompletion (cluster req : Nat) : Statement (.copyCompletion cluster req) := trivial
theorem engineFault (cluster req : Nat) : Statement (.engineFault cluster req) := trivial
theorem engineRetry (cluster req : Nat) : Statement (.engineRetry cluster req) := trivial
theorem engineMonitorFire (slice mon : Nat) : Statement (.engineMonitorFire slice mon) := trivial
theorem translationWalk (slice asid va : Nat) : Statement (.translationWalk slice asid va) := trivial
theorem monitorFire (slice mon : Nat) : Statement (.monitorFire slice mon) := trivial
theorem lineRecall (line : Nat) : Statement (.lineRecall line) := trivial
theorem invalidationArrival (id slice : Nat) : Statement (.invalidationArrival id slice) := trivial
theorem invalidationAck (id slice : Nat) : Statement (.invalidationAck id slice) := trivial
theorem invalidationDone (id : Nat) : Statement (.invalidationDone id) := trivial
theorem weightStoreRefresh : Statement (.weightStoreRefresh) := trivial
theorem queueDoorbell (q : Nat) : Statement (.queueDoorbell q) := trivial
theorem slotIdleTimeout (q : Nat) : Statement (.slotIdleTimeout q) := trivial
theorem commandFetch (q : Nat) : Statement (.commandFetch q) := trivial
theorem cmdNop (q : Nat) : Statement (.cmdNop q) := trivial
theorem cmdLaunch (q : Nat) : Statement (.cmdLaunch q) := trivial
theorem cmdWait (q : Nat) : Statement (.cmdWait q) := trivial
theorem waitSatisfied (q : Nat) : Statement (.waitSatisfied q) := trivial
theorem cmdSignal (q : Nat) : Statement (.cmdSignal q) := trivial
theorem cmdMsg (q : Nat) : Statement (.cmdMsg q) := trivial
theorem cmdWsload (q : Nat) : Statement (.cmdWsload q) := trivial
theorem wsloadComplete (q : Nat) : Statement (.wsloadComplete q) := trivial
theorem cmdXinv (q : Nat) : Statement (.cmdXinv q) := trivial
theorem cmdResume (q : Nat) : Statement (.cmdResume q) := trivial
theorem cmdKill (q : Nat) : Statement (.cmdKill q) := trivial
theorem cmdUnpin (q : Nat) : Statement (.cmdUnpin q) := trivial
theorem cmdDec (q : Nat) : Statement (.cmdDec q) := trivial
theorem commandAccessRetry (q : Nat) : Statement (.commandAccessRetry q) := trivial
theorem depRelease (q : Nat) : Statement (.depRelease q) := trivial
theorem launchAcceptance (launch : Nat) : Statement (.launchAcceptance launch) := trivial
theorem launchStartReport (launch core : Nat) : Statement (.launchStartReport launch core) := trivial
theorem launchCompletion (launch : Nat) : Statement (.launchCompletion launch) := trivial
theorem queueMessageDelivery (msg : Nat) : Statement (.queueMessageDelivery msg) := trivial
theorem msixInterrupt (q : Nat) : Statement (.msixInterrupt q) := trivial
theorem retainedPartitionReclaim (core : Nat) : Statement (.retainedPartitionReclaim core) := trivial
theorem semaphoreRead (port : Port) (n : Nat) : Statement (.semaphoreRead port n) := trivial
theorem semaphoreWrite (port : Port) (n : Nat) (value : Word) : Statement (.semaphoreWrite port n value) := trivial
theorem memoryWindowAccess (off len : Nat) (data : Option (BitVec 4096)) : Statement (.memoryWindowAccess off len data) := trivial
theorem ueTransfer (msg : Nat) : Statement (.ueTransfer msg) := trivial
theorem ueTransferComplete (id : Nat) (denied : Bool) (data : List Byte) : Statement (.ueTransferComplete id denied data) := trivial
theorem ualinkTimeout (core ctx : Nat) : Statement (.ualinkTimeout core ctx) := trivial
theorem ptpDiscipline (offset : Int) : Statement (.ptpDiscipline offset) := trivial
theorem speedPublication : Statement (.speedPublication) := trivial
theorem measurementStart (core : Nat) : Statement (.measurementStart core) := trivial
theorem measurementEnd (core : Nat) (curve : Curve) : Statement (.measurementEnd core curve) := trivial
theorem operatingPointControl (k : Nat) : Statement (.operatingPointControl k) := trivial
theorem correctedError (site : ErrSite) : Statement (.correctedError site) := trivial
theorem uncorrectableError (site : ErrSite) : Statement (.uncorrectableError site) := trivial
theorem marginMonitorFire (core : Nat) : Statement (.marginMonitorFire core) := trivial
theorem patrolScrub (part : Nat) : Statement (.patrolScrub part) := trivial
theorem logOverflowRecord (core : Nat) : Statement (.logOverflowRecord core) := trivial
theorem logLineFlush (core : Nat) : Statement (.logLineFlush core) := trivial
theorem sample (core : Nat) : Statement (.sample core) := trivial
theorem dbgHalt (cluster : Nat) : Statement (.dbgHalt cluster) := trivial
theorem dbgRun (cluster : Nat) : Statement (.dbgRun cluster) := trivial
theorem dbgData (cluster : Nat) (write : Option Word) : Statement (.dbgData cluster write) := trivial
theorem dbgStatClear (cluster : Nat) : Statement (.dbgStatClear cluster) := trivial
theorem watchpointWrite (cluster off : Nat) (value : Word) : Statement (.watchpointWrite cluster off value) := trivial
theorem breakpointMatch (core ctx : Nat) : Statement (.breakpointMatch core ctx) := trivial
theorem watchpointHit : Statement (.watchpointHit) := trivial
theorem dip (cluster : Nat) : Statement (.dip cluster) := trivial
theorem dipRelay (cluster : Nat) : Statement (.dipRelay cluster) := trivial
theorem containerLoad (pa asid : Nat) : Statement (.containerLoad pa asid) := trivial
theorem bootRetry : Statement (.bootRetry) := trivial
theorem packageReset : Statement (.packageReset) := trivial
theorem portReset (port : Port) : Statement (.portReset port) := trivial
theorem launchAbort (launch : Nat) : Statement (.launchAbort launch) := trivial
theorem abortNotice (gang : Word) (sender : Nat) : Statement (.abortNotice gang sender) := trivial
theorem registerWrite (reg : HostReg) (value : Word) : Statement (.registerWrite reg value) := trivial
theorem illegalWord (w : BitVec 32) : Statement (.illegalWord w) := trivial
theorem ualinkPeerAccess (peer pa : Nat) (req : PeerReq) : Statement (.ualinkPeerAccess peer pa req) := trivial
theorem incomingTransfer (source : RemoteAddr) (len : Nat) (data : Option (List Byte)) : Statement (.incomingTransfer source len data) := trivial
theorem linkCreditReturn (link : Link) : Statement (.linkCreditReturn link) := trivial
theorem handoverArrival (id : Nat) : Statement (.handoverArrival id) := trivial
theorem killAcknowledgement (id : Nat) : Statement (.killAcknowledgement id) := trivial
theorem queueEnCleared (q : Nat) : Statement (.queueEnCleared q) := trivial

end Words

end Sys2Proof.Laws
end

