-- ==== Sys2Proof/Laws/Vector.lean ====
section
/-! SUPPORT. Elements of vector registers, and what a vector instruction does once it issues. -/

namespace Sys2Proof.Machine

/-! ### Fields and elements -/

theorem testBit_field (n p w x i : Nat) :
    (n / 2 ^ (p + w) * 2 ^ (p + w) + x % 2 ^ w * 2 ^ p + n % 2 ^ p).testBit i =
      if p ≤ i ∧ i < p + w then x.testBit (i - p) else n.testBit i := by
  have h1 : x % 2 ^ w * 2 ^ p + n % 2 ^ p < 2 ^ (p + w) := by
    have a : x % 2 ^ w < 2 ^ w := Nat.mod_lt _ (Nat.two_pow_pos w)
    have b : n % 2 ^ p < 2 ^ p := Nat.mod_lt _ (Nat.two_pow_pos p)
    have c : (x % 2 ^ w + 1) * 2 ^ p ≤ 2 ^ w * 2 ^ p := Nat.mul_le_mul_right _ a
    rw [Nat.add_mul, Nat.one_mul] at c
    rw [Nat.pow_add, Nat.mul_comm (2 ^ p)]
    omega
  rw [Nat.add_assoc, Nat.mul_comm (n / 2 ^ (p + w)), Nat.testBit_two_pow_mul_add _ h1]
  split
  · rename_i hi
    rw [Nat.mul_comm (x % 2 ^ w), Nat.testBit_two_pow_mul_add _ (Nat.mod_lt _ (Nat.two_pow_pos p))]
    split
    · rename_i hp
      rw [if_neg (by omega), Nat.testBit_mod_two_pow]
      simp [hp]
    · rename_i hp
      rw [if_pos (by omega), Nat.testBit_mod_two_pow]
      have : i - p < w := by omega
      simp [this]
  · rename_i hi
    rw [if_neg (by omega), Nat.testBit_div_two_pow]
    congr 1
    omega

theorem getLsbD_fieldSet (v : VWord) (p w x i : Nat) (hi : i < 8192) :
    (fieldSet v p w x).getLsbD i = if p ≤ i ∧ i < p + w then x.testBit (i - p) else v.getLsbD i := by
  unfold fieldSet
  dsimp only
  rw [BitVec.getLsbD_ofNat, testBit_field]
  simp only [hi, decide_true, Bool.true_and]
  rfl

theorem testBit_elemGet (v : VWord) (w e j : Nat) : (elemGet v w e).testBit j = (decide (j < w) && v.getLsbD (w * e + j)) := by
  unfold elemGet
  rw [Nat.testBit_mod_two_pow, Nat.testBit_div_two_pow]
  rw [Nat.add_comm (w * e)]
  rfl

theorem elemGet_lt (v : VWord) (w e : Nat) : elemGet v w e < 2 ^ w := Nat.mod_lt _ (Nat.two_pow_pos w)

/-- An element read where it was written. -/
theorem elemGet_elemSet_same (v : VWord) (w e x : Nat) (h : w * e + w ≤ 8192) : elemGet (elemSet v w e x) w e = x % 2 ^ w := by
  apply Nat.eq_of_testBit_eq
  intro j
  rw [testBit_elemGet, Nat.testBit_mod_two_pow]
  by_cases hj : j < w
  · unfold elemSet
    rw [getLsbD_fieldSet _ _ _ _ _ (by omega), if_pos (by omega)]
    simp [hj]
  · simp [hj]

/-- Bits outside an element are as they were. -/
theorem getLsbD_elemSet_other (v : VWord) (w e x i : Nat) (hi : i < 8192) (h : i / w ≠ e) :
    (elemSet v w e x).getLsbD i = v.getLsbD i := by
  unfold elemSet
  rw [getLsbD_fieldSet _ _ _ _ _ hi, if_neg]
  rintro ⟨h1, h2⟩
  apply h
  refine Nat.div_eq_of_lt_le ?_ ?_
  · rw [Nat.mul_comm]; exact h1
  · rw [Nat.add_mul, Nat.mul_comm e]; omega

theorem elemGet_elemSet_other (v : VWord) (w e x e' : Nat) (hw : 0 < w) (h : e' ≠ e) (hl : w * e' + w ≤ 8192) :
    elemGet (elemSet v w e x) w e' = elemGet v w e' := by
  apply Nat.eq_of_testBit_eq
  intro j
  rw [testBit_elemGet, testBit_elemGet]
  by_cases hj : j < w
  · rw [getLsbD_elemSet_other _ _ _ _ _ (by omega)]
    rw [Nat.mul_add_div hw, Nat.div_eq_of_lt hj]
    exact h
  · simp [hj]

/-! ### Elements replaced -/

theorem Elementwise.none (z : VWord) (w : Nat) (f : Nat → Nat) : Elementwise z z w (fun _ => False) f :=
  ⟨fun _ h => h.elim, fun _ _ _ => rfl⟩

theorem Elementwise.congr {z x : VWord} {w : Nat} {p q : Nat → Prop} {f g : Nat → Nat} (h : Elementwise z x w p f)
    (hp : ∀ e, p e ↔ q e) (hf : ∀ e, p e → f e = g e) : Elementwise z x w q g :=
  ⟨fun e he => (h.1 e ((hp e).mpr he)).trans (hf e ((hp e).mpr he)), fun i hi hn => h.2 i hi fun ha => hn ((hp _).mp ha)⟩

/-- What the fold of overwrite leaves. -/
theorem overwrite_fold (w : Nat) (f : Nat → Res2 Nat) (hw : 0 < w) (es : List Nat) (z : VWord) (fl : Flags)
    (hn : es.Nodup) (hl : ∀ e ∈ es, w * e + w ≤ 8192) :
    let r := es.foldl (fun (p : VWord × Flags) e => let o := f e; (elemSet p.1 w e o.val, p.2 ||| o.flags)) (z, fl)
    Elementwise z r.1 w (· ∈ es) (fun e => (f e).val % 2 ^ w) ∧
      ∀ j : Nat, r.2.getLsbD j = true ↔ fl.getLsbD j = true ∨ ∃ e ∈ es, (f e).flags.getLsbD j = true := by
  induction es generalizing z fl with
  | nil => exact ⟨⟨fun e h => absurd h (by simp), fun _ _ _ => rfl⟩, fun j => by simp⟩
  | cons a es ih =>
    simp only [List.nodup_cons] at hn
    have := ih (elemSet z w a (f a).val) (fl ||| (f a).flags) hn.2 (fun e he => hl e (List.mem_cons_of_mem _ he))
    simp only [List.foldl_cons]
    obtain ⟨⟨h1, h2⟩, h3⟩ := this
    refine ⟨⟨fun e he => ?_, fun i hi hne => ?_⟩, fun j => ?_⟩
    · rcases List.mem_cons.mp he with rfl | he
      · have hb : ∀ j < w, (List.foldl (fun (p : VWord × Flags) e => (elemSet p.1 w e (f e).val, p.2 ||| (f e).flags))
            (elemSet z w e (f e).val, fl ||| (f e).flags) es).1.getLsbD (w * e + j) =
            (elemSet z w e (f e).val).getLsbD (w * e + j) := by
          intro j hj
          have := hl e (List.mem_cons_self ..)
          refine h2 _ (by omega) ?_
          rw [Nat.mul_add_div hw, Nat.div_eq_of_lt hj]
          exact hn.1
        dsimp only
        rw [← elemGet_elemSet_same z w e (f e).val (hl e (List.mem_cons_self ..))]
        apply Nat.eq_of_testBit_eq
        intro j
        rw [testBit_elemGet, testBit_elemGet]
        by_cases hj : j < w
        · rw [hb j hj]
        · simp [hj]
      · exact h1 e he
    · rw [h2 i hi fun h => hne (List.mem_cons_of_mem _ h)]
      exact getLsbD_elemSet_other _ _ _ _ _ hi fun h => hne (h ▸ List.mem_cons_self ..)
    · rw [h3 j]
      simp only [BitVec.getLsbD_or, Bool.or_eq_true, List.mem_cons, exists_eq_or_imp]
      rw [or_assoc]

/-- Overwriting elements gives them what f gives, raises the flags f raises, and keeps every other bit. -/
theorem overwrite_elementwise (z : VWord) (w : Nat) (es : List Nat) (f : Nat → Res2 Nat) (hw : 0 < w) (hn : es.Nodup)
    (hl : ∀ e ∈ es, w * e + w ≤ 8192) :
    ∃ x fl, overwrite z w es f = .v x fl ∧ Elementwise z x w (· ∈ es) (fun e => (f e).val % 2 ^ w) ∧
      RaisedBy fl (· ∈ es) (fun e => (f e).flags) := by
  obtain ⟨h1, h2⟩ := overwrite_fold w f hw es z 0 hn hl
  refine ⟨_, _, rfl, h1, fun j => (h2 j).trans ?_⟩
  simp

theorem Ty.bits_pos (ty : Ty) : 0 < ty.bits := by cases ty <;> decide

theorem mem_actives (k : KWord) (ty : Ty) (n e : Nat) : e ∈ actives k ty n ↔ e < n ∧ maskAt k ty e = true := by
  simp [actives]

theorem actives_nodup (k : KWord) (ty : Ty) (n : Nat) : (actives k ty n).Nodup := List.nodup_range.filter _

/-- An element below VLMAX lies inside the register. -/
theorem elem_inside (ty : Ty) {n e : Nat} (hn : n ≤ ty.vlmax) (h : e < n) : ty.bits * e + ty.bits ≤ 8192 := by
  have h1 : e + 1 ≤ 8192 / ty.bits := Nat.le_trans h hn
  have h2 := Nat.mul_le_mul_left ty.bits h1
  have h3 := Nat.mul_div_le 8192 ty.bits
  rw [Nat.mul_add, Nat.mul_one] at h2
  omega

/-! ### Vector instructions -/

/-- A retirement of a vector instruction: the destination bank is written, the flags are raised, and the rest stays. -/
theorem State.vecDone_only {s : State} {t : Task} {b : Nat} (h : Running s t) (tr : Traits) (hb : t.bank = some b)
    (k : Bank) (fl : Flags) :
    Leads (s.vecDone tr t k fl)
      (OnlyBank s · ((t.raiseFlags fl).setPc (t.regs.pc + BitVec.ofNat 64 tr.bytes)) b k) := by
  refine ⟨_, rfl, ?_⟩
  rw [hb]
  have hq : (s.setBank (ctxCore s.focus) ((some b).getD 0) k).ctxs = s.ctxs := rfl
  obtain ⟨h1, h2⟩ := State.retire_apart h tr (t.raiseFlags fl) (t.regs.pc + BitVec.ofNat 64 tr.bytes) hq rfl
    (fun _ => rfl) rfl
  refine { toApart := h1, task := h2, bank := ?_, banks := ?_, bytes := ⟨fun _ => rfl, fun _ => rfl⟩, rest := rfl }
  · exact State.bankOf_setBank_same s s.here b k
  · intro i m hm
    show (s.setBank s.here b k).bankOf i m = s.bankOf i m
    rw [State.bankOf_setBank, if_neg (by omega)]

/-- An armed context issues the body of a vector instruction whose stream sources are bound and whose registers are not
those of an open accumulator. -/
theorem issue_armed {s : State} {t : Task} {b : Nat} {tr : Traits} (body : State → Task → Out) (h : Armed s t b)
    (hg : t.getP tr.guard = true) (hd : tr.divides = false)
    (hs : ∀ q ∈ tr.streams t, (s.bankHere b).bound (.q q) = true) (hm : tr.modeFault t = false) :
    issue tr body s = body s t :=
  issue_running body h.toRunning hg (Task.waits_idle _ _ _ h.idle h.settled (.inr h.array) (.inl hd))
    (State.issueCause_bank _ _ h.idle h.bank hs hm)

/-- The operands of a vector operation, read before anything is written (R154). -/
def vecInput (s : State) (t : Task) (b n w : Nat) (srcs : List VSrc) (d : VReg) (k : KReg) (rc : Rc) : VecIn :=
  let bk := s.bankHere b
  let src := fun (j : Nat) => (srcs[j]?).elim 0 (bk.srcVal n w)
  { task := t, n := n, x := src 0, y := src 1, z := bk.getV d, k := bk.getK k, kd := bk.getK (Fin.ofNat 8 d.val),
    rm := t.rounding rc }

/-- What a vector instruction that issues writes: nothing with length zero, else its destination. -/
theorem vecRun_v {s : State} {t : Task} {b : Nat} {tr : Traits} {n : Task → Nat} {w : Nat} {srcs : List VSrc} {d : VReg}
    {k : KReg} {rc : Rc} {effect : VecIn → VecOut} {x : VWord} {fl : Flags} (h : Armed s t b)
    (hg : t.getP tr.guard = true) (hd : tr.divides = false)
    (hs : ∀ q ∈ tr.streams t, (s.bankHere b).bound (.q q) = true) (hm : tr.modeFault t = false) (hn : n t ≠ 0)
    (ha : srcs.all ((s.bankHere b).arrived (n t) w) = true)
    (he : effect (vecInput s t b (n t) w srcs d k rc) = .v x fl) :
    Leads (vecRun tr n w srcs d k rc effect s)
      (OnlyBank s · ((t.raiseFlags fl).setPc (t.regs.pc + BitVec.ofNat 64 tr.bytes)) b
        (((s.bankHere b).takes (n t) w srcs).setV d x)) := by
  unfold vecRun
  rw [issue_armed _ h hg hd hs hm]
  have ha' : srcs.all ((s.bankOf (ctxCore s.focus) (t.bank.getD 0)).arrived (n t) w) = true := by rw [h.bank]; exact ha
  have he' : effect (vecInput s t (t.bank.getD 0) (n t) w srcs d k rc) = .v x fl := by rw [h.bank]; exact he
  unfold vecInput State.bankHere State.here at he'
  simp only [hn, if_false, ha', Bool.not_true]
  simp only [he']
  have := State.vecDone_only h.toRunning tr h.bank
    (((s.bankOf (ctxCore s.focus) (t.bank.getD 0)).takes (n t) w srcs).setV d x) fl
  rw [h.bank] at this ⊢
  exact this

theorem vecRun_k {s : State} {t : Task} {b : Nat} {tr : Traits} {n : Task → Nat} {w : Nat} {srcs : List VSrc} {d : VReg}
    {k : KReg} {rc : Rc} {effect : VecIn → VecOut} {x : KWord} {fl : Flags} (h : Armed s t b)
    (hg : t.getP tr.guard = true) (hd : tr.divides = false)
    (hs : ∀ q ∈ tr.streams t, (s.bankHere b).bound (.q q) = true) (hm : tr.modeFault t = false) (hn : n t ≠ 0)
    (ha : srcs.all ((s.bankHere b).arrived (n t) w) = true)
    (he : effect (vecInput s t b (n t) w srcs d k rc) = .k x fl) :
    Leads (vecRun tr n w srcs d k rc effect s)
      (OnlyBank s · ((t.raiseFlags fl).setPc (t.regs.pc + BitVec.ofNat 64 tr.bytes)) b
        (((s.bankHere b).takes (n t) w srcs).setK (Fin.ofNat 8 d.val) x)) := by
  unfold vecRun
  rw [issue_armed _ h hg hd hs hm]
  have ha' : srcs.all ((s.bankOf (ctxCore s.focus) (t.bank.getD 0)).arrived (n t) w) = true := by rw [h.bank]; exact ha
  have he' : effect (vecInput s t (t.bank.getD 0) (n t) w srcs d k rc) = .k x fl := by rw [h.bank]; exact he
  unfold vecInput State.bankHere State.here at he'
  simp only [hn, if_false, ha', Bool.not_true]
  simp only [he']
  have := State.vecDone_only h.toRunning tr h.bank
    (((s.bankOf (ctxCore s.focus) (t.bank.getD 0)).takes (n t) w srcs).setK (Fin.ofNat 8 d.val) x) fl
  rw [h.bank] at this ⊢
  exact this

/-- With effective length zero a vector instruction only advances the pc (R36). -/
theorem vecRun_zero {s : State} {t : Task} {b : Nat} {tr : Traits} {n : Task → Nat} {w : Nat} {srcs : List VSrc}
    {d : VReg} {k : KReg} {rc : Rc} {effect : VecIn → VecOut} (h : Armed s t b) (hg : t.getP tr.guard = true)
    (hd : tr.divides = false) (hs : ∀ q ∈ tr.streams t, (s.bankHere b).bound (.q q) = true)
    (hm : tr.modeFault t = false) (hn : n t = 0) :
    Leads (vecRun tr n w srcs d k rc effect s) (Only s · (t.setPc (t.regs.pc + BitVec.ofNat 64 tr.bytes))) := by
  unfold vecRun
  rw [issue_armed _ h hg hd hs hm]
  simp only [hn, if_true]
  exact ⟨_, rfl, State.retire_only h.toRunning { tr with results := [] } t rfl⟩

theorem Bank.setV_getV (b : Bank) (d : VReg) : b.setV d (b.getV d) = b := by
  unfold Bank.setV Bank.getV
  simp

theorem Bank.setK_getK (b : Bank) (d : KReg) : b.setK d (b.getK d) = b := by
  unfold Bank.setK Bank.getK
  split <;> simp

theorem Task.raiseFlags_zero (t : Task) : t.raiseFlags 0 = t := by
  unfold Task.raiseFlags
  simp

/-- Reading v registers takes nothing from a stream. -/
theorem Bank.takes_v (k : Bank) (n w : Nat) {srcs : List VSrc} (h : ∀ x ∈ srcs, ∃ r, x = .v r) : k.takes n w srcs = k := by
  unfold Bank.takes
  have key : ∀ l : List VSrc, (∀ x ∈ l, ∃ r, x = VSrc.v r) → l.foldl (fun b x => Bank.take b n w x) k = k := by
    intro l
    induction l with
    | nil => intro _; rfl
    | cons x l ih =>
      intro hl
      obtain ⟨r, rfl⟩ := hl x (List.mem_cons_self ..)
      exact ih fun y hy => hl y (List.mem_cons_of_mem _ hy)
  exact key _ fun x hx => h x (List.mem_eraseDups.mp hx)

/-- A step that changes nothing but its context leaves each bank what it holds. -/
theorem Only.bank {s s' : State} {u : Task} (h : Only s s' u) (b : Nat) : OnlyBank s s' u b (s.bankHere b) := by
  have e : s'.banks = s.banks := by have e := congrArg State.banks h.rest; exact e
  have r : { s' with ctxs := s.ctxs, cores := s.cores, banks := s.banks } = s := by
    have e := congrArg (fun x : State => { x with banks := s.banks }) h.rest; exact e
  exact
    { toApart := h.toApart, task := h.task, bytes := h.bytes, rest := r
      bank := by unfold State.bankHere State.bankOf; rw [e]
      banks := fun k m _ => by unfold State.bankOf; rw [e] }

/-- A vector instruction on v registers that overwrites some elements of its destination. -/
theorem vecRun_elementwise {s : State} {t : Task} {b : Nat} {tr : Traits} {n : Task → Nat} {w : Nat} {srcs : List VSrc}
    {d : VReg} {k : KReg} {rc : Rc} {effect : VecIn → VecOut} {W : Nat} {es : List Nat} {f : Nat → Res2 Nat}
    (h : Armed s t b) (hg : t.getP tr.guard = true) (hd : tr.divides = false) (hs : tr.streams t = [])
    (hm : tr.modeFault t = false) (hv : ∀ x ∈ srcs, ∃ r, x = .v r) (hW : 0 < W) (hn : es.Nodup)
    (hl : ∀ e ∈ es, W * e + W ≤ 8192)
    (he : effect (vecInput s t b (n t) w srcs d k rc) = overwrite ((s.bankHere b).getV d) W es f)
    (hz : n t = 0 → es = []) :
    Leads (vecRun tr n w srcs d k rc effect s) fun s' => ∃ r fl,
      OnlyBank s s' ((t.raiseFlags fl).setPc (t.regs.pc + BitVec.ofNat 64 tr.bytes)) b ((s.bankHere b).setV d r) ∧
        Elementwise ((s.bankHere b).getV d) r W (· ∈ es) (fun e => (f e).val % 2 ^ W) ∧
        RaisedBy fl (· ∈ es) fun e => (f e).flags := by
  by_cases h0 : n t = 0
  · obtain ⟨s', h1, h2⟩ := vecRun_zero (w := w) (srcs := srcs) (d := d) (k := k) (rc := rc) (effect := effect) h hg hd
      (by rw [hs]; simp) hm h0
    refine ⟨s', h1, (s.bankHere b).getV d, 0, ?_, ?_, ?_⟩
    · rw [Bank.setV_getV, Task.raiseFlags_zero]; exact h2.bank b
    · rw [hz h0]; exact ⟨fun _ h => absurd h (by simp), fun _ _ _ => rfl⟩
    · rw [hz h0]; intro j; simp
  · obtain ⟨r, fl, h1, h2, h3⟩ := overwrite_elementwise ((s.bankHere b).getV d) W es f hW hn hl
    obtain ⟨s', g1, g2⟩ := vecRun_v (rc := rc) h hg hd (by rw [hs]; simp) hm h0
      (by
        rw [List.all_eq_true]
        intro x hx
        obtain ⟨r, rfl⟩ := hv x hx
        rfl)
      (he.trans h1)
    rw [Bank.takes_v _ _ _ hv] at g2
    exact ⟨s', g1, r, fl, g2, h2, h3⟩

end Sys2Proof.Machine
end

