-- ==== Sys2Proof/Tests/Slice0.lean ====
section
/-! SUPPORT. Tests: words written out from the field layouts of the spec, ill-formed instructions, single steps, and for
every statement with hypotheses a state and operands that meet them. -/

namespace Sys2Proof.Tests

set_option Elab.async false

open Sys2Proof Sys2Proof.Machine

/-! ### A small machine -/

/-- A task of context 0 of core 8 with bank 0 and some weight, whose page tables map address 0 on to itself. -/
def task : Task :=
  { placedTask with
    regs := { s := ((placedTask.regs.s.set 1 0x500000).set 2 0x500008).set 3 5, p := 2, pc := 0x400000 }
    purse := { placedTask.purse with weight := 3 } }

/-- A booted machine with task t in focus. -/
def machine (t : Task) : State :=
  { State.reset with
    focus := 128, mem := placedMem, cfg := { State.reset.cfg with astab := 0x1000 }, ctxs := [(128, t)]
    control := { State.reset.control with bootStage := 7 } }

/-- The machine of the task. -/
abbrev m0 : State := machine task

/-- The task with another value in s1. -/
def task1 (x : Word) : Task := { task with regs := { task.regs with s := task.regs.s.set 1 x } }

/-- The task with another flow. -/
def flowing (f : Flow) : Task := { task with flow := f }

/-- The machine with its core changed. -/
def withCore (f : Core → Core) : State := m0.setCore 8 (f (m0.core 8))

/-- The task in focus after an instruction. -/
def after (o : Out) : Option Task := match o with | .next s => s.task? s.focus | _ => none

/-- Register r after an instruction. -/
def reg (o : Out) (r : SReg) : Option Word := (after o).map fun t => t.getS r

theorem settled_nil {c : Core} {n : Nat} (h : c.results = []) : c.settled n := by
  intro e he
  rw [h] at he
  cases he

theorem running_machine (t : Task) (h : t.flow = Flow.reset) : Running (machine t) t where
  here := rfl
  free := by simp only [Task.held, h]; rfl
  idle := by rw [h]; rfl
  settled := settled_nil rfl
  told := rfl
  plan := by rw [h]; rfl
  fresh := by rw [h]; rfl

theorem running : Running m0 task := running_machine _ rfl

/-! ### Decoding: words field by field, most significant first (R89, R90, R100 to R116) -/

/-- The word of a list of fields, each with its width. -/
def word (fs : List (Nat × Nat)) : Nat := fs.foldl (fun w f => w * 2 ^ f.2 + f.1) 0
/-- The two words of a long form, the first in the low bits. -/
def long (w0 w1 : List (Nat × Nat)) : Nat := word w0 + word w1 * 2 ^ 32

-- S3: MAJ, d, a, b, fn, g.
theorem test_decode_sub : decodeTableWord 32 (word [(0x00, 6), (63, 6), (1, 6), (62, 6), (1, 5), (7, 3)]) = some (.sub 63 1 62 7) := by
  decide
theorem test_decode_lea : decodeTableWord 32 (word [(0x00, 6), (4, 6), (1, 6), (2, 6), (23, 5), (0, 3)]) = some (.lea 4 1 2 3 0) := by
  decide
theorem test_decode_bins : decodeTableWord 32 (word [(0x01, 6), (4, 6), (1, 6), (2, 6), (5, 5), (0, 3)]) = some (.bins 4 1 2 0) := by
  decide
theorem test_decode_ldxHn : decodeTableWord 32 (word [(0x15, 6), (4, 6), (1, 6), (2, 6), (3, 5), (0, 3)]) = some (.ldxHn 4 1 2 0) := by
  decide
theorem test_decode_amoCasW : decodeTableWord 32 (word [(0x17, 6), (4, 6), (1, 6), (2, 6), (9, 5), (0, 3)]) = some (.amoCasW 4 1 2 0) := by
  decide
-- SI: MAJ, d, a, imm11, g.
theorem test_decode_addi : decodeTableWord 32 (word [(0x02, 6), (4, 6), (1, 6), (2047, 11), (3, 3)]) = some (.addi 4 1 (-1) 3) := by
  decide
theorem test_decode_lih : decodeTableWord 32 (word [(0x0A, 6), (4, 6), (0x10001, 17), (0, 3)]) = some (.lih 4 0x10001 0) := by decide
-- SM: MAJ, d, a, off8, la, ord.
theorem test_decode_stW : decodeTableWord 32 (word [(0x14, 6), (4, 6), (9, 6), (0x80, 8), (15, 4), (3, 2)]) = some (.stW 4 9 0x80 15 .sys) := by
  decide
-- BR: MAJ, g, inv, off22.
theorem test_decode_jal : decodeTableWord 32 (word [(0x1A, 6), (0, 3), (0, 1), (5, 22)]) = some (.jal 5) := by decide
-- V: MAJ, vd, va, vb, k, ty, fn.
theorem test_decode_vsub : decodeTableWord 32 (word [(0x1C, 6), (31, 5), (1, 5), (2, 5), (7, 3), (3, 4), (1, 4)]) = some (.vsub .n16 31 1 2 7) := by
  decide
theorem test_decode_vcmp : decodeTableWord 32 (word [(0x1E, 6), (3, 5), (1, 5), (2, 5), (0, 3), (10, 4), (2, 4)]) = some (.vcmp .lt .f32 3 1 2 0) := by
  decide
theorem test_decode_kxor : decodeTableWord 32 (word [(0x23, 6), (3, 5), (1, 5), (2, 5), (0, 3), (0, 4), (2, 4)]) = some (.kxor 3 1 2) := by
  decide
-- VM: MAJ, vd, a, k, ty, la, am.
theorem test_decode_vst : decodeTableWord 32 (word [(0x25, 6), (3, 5), (9, 6), (1, 3), (8, 4), (2, 4), (0, 4)]) = some (.vst .f16 3 9 1 2) := by
  decide
-- T: MAJ, td, va, vb, fmt, la, x.
theorem test_decode_mmas : decodeTableWord 32 (word [(0x2D, 6), (3, 5), (4, 5), (8, 5), (16, 5), (2, 4), (0, 2)]) = some (.mmas .m8 3 4 8 2) := by
  decide
theorem test_decode_tld : decodeTableWord 32 (word [(0x2F, 6), (3, 5), (9, 6), (0, 4), (10, 5), (2, 4), (0, 2)]) = some (.tld .f32 3 9 2) := by
  decide
-- X: MAJ, fn, a, b, imm8.
theorem test_decode_trap : decodeTableWord 32 (word [(0x39, 6), (2, 6), (0, 6), (0, 6), (200, 8)]) = some (.trap 200) := by decide
-- L: MAJ 0x3F, sub, d, a, b, g, and word 1.
theorem test_decode_ldp : decodeTableWord 64 (long [(0x3F, 6), (0x0B, 6), (3, 6), (9, 6), (2, 6), (1, 2)] [(24, 32)]) = some (.ldp 3 2 9 24 1) := by
  decide
theorem test_decode_mmag : decodeTableWord 64 (long [(0x3F, 6), (0x18, 6), (3, 6), (8, 6), (12, 6), (0, 2)]
    [(0, 4), (9, 5), (2, 4), (5, 5), (0, 14)]) = some (.mmag .bf16 3 8 12 5 2) := by decide
-- Words the spec gives in hexadecimal (04).
theorem test_decode_spec_ld : decodeTableWord 32 0x40424042 = some (.ldD 4 9 1 0 .pkg) := by decide
theorem test_decode_spec_vadd : decodeTableWord 64 (0xFD018684 + 0x70110000 * 2 ^ 32) =
    some (.vectorOpLong .vadd .i32 6 (.v 6) (.q 1) 2 (.fixed .rne)) := by decide
theorem test_decode_spec_refused : decodeTableWord 32 0xF0000000 = none ∧ decodeTableWord 32 0x003042C0 = none ∧ decodeTableWord 32 0 = none := by
  decide

/-! ### Well-formedness: one ill-formed term for each check -/

theorem test_wf_type : (Instr.vscl .i32 1 2 3 0).check = some .typeRefused := by decide
theorem test_wf_format : (Instr.mma .q8 1 2 3 0).check = some .formatRefused := by decide
theorem test_wf_typeWide : (Instr.vadd .bs64 1 2 3 0).check = some .typeRefused := by decide
theorem test_wf_condition : (Instr.cmpi .len 1 2 0 0).check = some .ccRefused := by decide
theorem test_wf_conditionSig : (Instr.sigWait .gtn 1 2).check = some .ccRefused := by decide
theorem test_wf_run : (Instr.spawn 1 61 false).check = some .runLimit := by decide
theorem test_wf_runCopy : (Instr.acopy 61).check = some .runLimit := by decide
theorem test_wf_runMatrix : (Instr.mmas .m8 1 2 4 0).check = some .runMisaligned := by decide
theorem test_wf_runBits : (Instr.mmag .f32 1 29 2 3 0).check = some .runMisaligned := by decide
theorem test_wf_ordering : (Instr.ldLong .d 1 2 0 0 .pkg .rel 0).check = some .orderingRefused := by decide
theorem test_wf_size : (Instr.stLong .wn 1 2 0 0 .ctx .rlx 0).check = some .sizeRefused := by decide
theorem test_wf_notify : (Instr.amoNtf .cas false 1 2 3 .pkg .rlx 0).check = some .notifyRefused := by decide
theorem test_wf_mode : (Instr.vmemLong true .rep .f32 (.v 1) 2 0 0 0).check = some .modeRefused := by decide
theorem test_wf_stream : (Instr.vmemLong false .unit .f32 (.q 1) 2 0 0 0).check = some .streamRefused := by decide
theorem test_wf_field : (Instr.vectorOpLong .vabs .f32 1 (.v 2) (.v 3) 0 (.fixed .rne)).check = some .fieldReserved := by decide
theorem test_wf_fieldMask : (Instr.vectorOpLong (.vcmp .eq) .f32 8 (.v 2) (.v 3) 0 (.fixed .rne)).check = some .fieldReserved := by
  decide
theorem test_wf_mask : (Instr.vectorOpLong .kand .i8 1 (.v 2) (.v 3) 1 (.fixed .rne)).check = some .maskRefused := by decide
theorem test_wf_maskStream : (Instr.vectorOpLong .kand .i8 1 (.q 2) (.v 3) 0 (.fixed .rne)).check = some .streamRefused := by decide
theorem test_wf_rounding : (Instr.vectorOpLong .vand .i32 1 (.v 2) (.v 3) 0 .dyn).check = some .roundingRefused := by decide
theorem test_wf_residue : (Instr.vcvtRfb .bf16 .f32 1 (.v 2) 1 0 .dyn).check = some .residueRefused := by decide
theorem test_wf_index : (Instr.vldx .f32 1 2 1 0 0 0).check = some .indexIsData := by decide
theorem test_wf_zero : (Instr.add 0 0 0 0).check = some .zeroWord := by decide
theorem test_wf_event : (Instr.agingCycle 5120).check = some .eventBound := by decide
theorem test_wf_good : (Instr.add 0 0 1 0).wf = true ∧ (Instr.mmas .m8 1 4 8 0).wf = true ∧ (Instr.agingCycle 5119).wf = true := by
  decide

/-! ### Single steps -/

theorem test_add_wraps : reg (exec (.add 4 1 2 0) (machine (task1 (-1)))) 4 = some 0x500007 := by decide
theorem test_sub_self : reg (exec (.sub 1 1 1 0) m0) 1 = some 0 := by decide
theorem test_mulh_sign : reg (exec (.mulh 4 1 3 0) (machine (task1 (-1)))) 4 = some (-1) := by decide
theorem test_mulhn : reg (exec (.mulhn 4 1 3 0) (machine (task1 (-1)))) 4 = some 4 := by decide
theorem test_div_corner : reg (exec (.div 4 1 5 0) (machine (task1 7))) 4 = some (-1) := by decide
theorem test_rem_sign : reg (exec (.rem 4 1 3 0) (machine (task1 (-7)))) 4 = some (-2) := by decide
theorem test_shl_mod : reg (exec (.shl 4 3 1 0) (machine (task1 65))) 4 = some 10 := by decide
theorem test_sha : reg (exec (.sha 4 1 3 0) (machine (task1 (-64)))) 4 = some (-2) := by decide
theorem test_rot : reg (exec (.rot 4 1 3 0) (machine (task1 1))) 4 = some 0x0800000000000000 := by decide
theorem test_lea : reg (exec (.lea 4 1 3 3 0) m0) 4 = some 0x500028 := by decide
-- 05, R121: with x = 0x0012_3456 and the descriptor 0x0C08, bext writes 0x234.
theorem test_bext : reg (exec (.bext 4 1 2 0) (machine { task1 0x123456 with
    regs := { (task1 0x123456).regs with s := (task1 0x123456).regs.s.set 2 0x0C08 } })) 4 = some 0x234 := by decide
theorem test_lih : reg (exec (.lih 4 0x10000 0) m0) 4 = some 0xFFFFFFFFF8000000 := by decide
theorem test_addpc : reg (exec (.addpc 4 0x1FFFF 0) m0) 4 = some 0x3FFFFC := by decide
theorem test_guard_false : (after (exec (.add 4 1 2 2) m0)).map (fun t => (t.getS 4, t.regs.pc)) = some (0, 0x400004) := by decide
theorem test_s0_stays : reg (exec (.addi 0 1 5 0) m0) 0 = some 0 := by decide
theorem test_br_backward : (after (exec (.br 2 true (-4)) m0)).map (fun t => t.regs.pc) = some 0x3FFFF0 := by decide
theorem test_jalr_link : (after (exec (.jalr 1 1 0) m0)).map (fun t => (t.regs.pc, t.getS 1)) = some (0x500000, 0x400004) := by decide
theorem test_ld_unlisted : reg (exec (.ldD 1 1 0 0 .rlx) m0) 1 = some 0 := by decide
theorem test_ldW_sign : reg (exec (.ldW 4 1 0 0 .rlx) { m0 with mem := Mem.writeNat m0.mem 0x500000 4 0x80000000 }) 4 =
    some 0xFFFFFFFF80000000 := by decide
theorem test_st_bytes : (match exec (.stW 2 1 1 0 .rlx) m0 with
    | .next s => (s.mem.read 0x500003, s.mem.read 0x500004, s.mem.read 0x500006, s.mem.read 0x500008)
    | _ => (1, 1, 1, 1)) = (0, 8, 0x50, 0) := by decide
theorem test_amo_old : (match exec (.amoAddD 3 1 3 0) m0 with
    | .next s => (reg (.next s) 3, s.mem.read 0x500000)
    | _ => (none, 0)) = (some 0, 5) := by decide
theorem test_misaligned : (after (exec (.ldD 4 1 0 0 .rlx) (machine { task1 1 with ctl := { Ctl.reset with upcVec := 0x8000 } }))).map
    (fun t => (t.regs.pc, t.ctl.upcCause &&& 0xFF, t.ctl.upcAddr, t.ctl.upcPc)) =
    some (0x8000, BitVec.ofNat 64 ALIGN, 1, 0x400000) := by decide
theorem test_illegal : (after (exec (.illegalWord 0xF0000000) (machine { task with ctl := { Ctl.reset with upcVec := 0x8000 } }))).map
    (fun t => (t.regs.pc, t.ctl.upcCause &&& 0xFF, t.ctl.upcAddr)) = some (0x8000, BitVec.ofNat 64 ILLEGAL, 0xF0000000) := by decide
/-- The first elements of a vector register of bank 0 after an instruction. -/
def elems (o : Out) (r : VReg) (w n : Nat) : List Nat :=
  match o with | .next s => (List.range n).map fun e => elemGet ((s.bankOf 8 0).getV r) w e | _ => []
theorem test_viota : elems (exec (.viota .i32 3 0) m0) 3 32 4 = [0, 1, 2, 3] := by decide +kernel
theorem test_vbcast : elems (exec (.vbcast .f64 3 1 0) (machine (task1 0x3FF0000000000000))) 3 64 2 =
    [0x3FF0000000000000, 0x3FF0000000000000] := by decide +kernel
theorem test_nop : (after (exec .nop m0)).map (fun t => t.regs.pc) = some 0x400004 := by decide
theorem test_mfc_tid : reg (exec (.mfc 4 0x00) m0) 4 = some 8 := by decide
theorem test_step_runs : (match step (State.reset.withFetchWord 32 (word [(0x02, 6), (4, 6), (4, 6), (7, 11), (0, 3)])) with
    | .next s => (s.task? 128).map fun t => (t.getS 4, t.regs.pc)
    | _ => none) = some (7, 0x400004) := by decide

/-- An issue turn of core 8 whose next word is w. -/
def issuing (s : State) (w : Nat) : State := { s with sched := [.issue 8 []], mem := Mem.writeNat placedMem 0x400000 8 w }
-- R350, R352: a breaking brk issues and halts its core. R332: a fault without a vector suspends its context, and the cycle ends.
theorem test_step_brk : (match step (issuing (m0.setCluster 1 { Cluster.reset with dbg := { Cluster.reset.dbg with ctl := 1 } })
      (word [(0x39, 6), (5, 6), (0, 6), (0, 6), (0, 8)])) with
    | .next s => some (s.core 8).halted
    | _ => none) = some true := by decide +kernel
theorem test_step_suspends : (match step (issuing m0 0xF0000000) with
    | .next s => (s.task? 128).map fun t : Task => (t.flow.suspended, t.ctl.upcCause &&& 0xFF)
    | _ => none) = some (true, BitVec.ofNat 64 ILLEGAL) := by decide +kernel

/-! ### Hypotheses that are met

For each statement with hypotheses, states and operands that meet them together; where a statement has clauses over one
input, one for each clause, at the ends of its range. -/

theorem witness_RegisterArithmetic : Running m0 task ∧ task.getP 0 = true := ⟨running, rfl⟩
theorem witness_Division : Running m0 task ∧ task.getP 1 = true ∧ m0.dividerFree :=
  ⟨running, by decide, show (0 : Nat) ≤ 0 from Nat.le_refl 0⟩
/-- The corner: the most negative number by -1. -/
theorem witness_Division_corner : Running (machine (task1 (BitVec.twoPow 64 63))) (task1 (BitVec.twoPow 64 63)) ∧
    ((task1 (BitVec.twoPow 64 63)).getS 1).toInt = -(2 ^ 63) := ⟨running_machine _ rfl, by decide⟩
def busyDivider : State := withCore fun c => { c with dividerUntil := 1 }
theorem witness_Division_busy : Running busyDivider task ∧ task.getP 0 = true ∧ ¬ busyDivider.dividerFree :=
  ⟨⟨rfl, by decide, rfl, settled_nil rfl, rfl, rfl, rfl⟩, rfl, show ¬ (1 : Nat) ≤ 0 by decide⟩
theorem witness_Immediates : Running m0 task ∧ task.getP 7 = false ∧ task.getP 0 = true ∧ task.getP ((0 : GReg) : Nat) = true :=
  ⟨running, by decide, rfl, rfl⟩
theorem witness_BitOperations : Running m0 task ∧ task.getP 0 = true ∧ task.getS 4 = 0 ∧ task.getS 1 ≠ 0 :=
  ⟨running, rfl, by decide, by decide⟩
theorem witness_ComparesAndPredicates : Running m0 task ∧ task.getP 1 = true ∧ task.getP 2 = false := ⟨running, by decide, by decide⟩
theorem witness_FalseGuard : Running m0 task ∧ task.getP 2 = false ∧ task.getP ((3 : GReg) : Nat) = false :=
  ⟨running, by decide, by decide⟩
theorem witness_BranchesAndJumps : Running m0 task ∧ task.getP 0 = true ∧ (task.getS 1).toNat % 4 = 0 := ⟨running, rfl, by decide⟩

/-- Where the task's address 0x500000 lands. -/
theorem witness_ScalarLoads : Running m0 task ∧ task.getP 0 = true ∧ (0x500000 : Word).toNat % 8 = 0 ∧
    viewAt (m0.who task) 0x500000 = none ∧ m0.locate (m0.who task) 0 0x500000 8 false false = .ok (.mem 0x500000 581) :=
  ⟨running, rfl, by decide, by decide, by rfl⟩
/-- The last byte of the address range: a byte of the last scratchpad window is not mapped, so the end of a mapped GiB. -/
theorem witness_ScalarLoads_last : Running m0 task ∧
    ∃ p, m0.locate (m0.who task) 0 0x3FFFFFFF 1 false false = .ok p := ⟨running, _, rfl⟩
theorem inv_m0 : m0.Inv := ⟨by decide, by decide, by decide⟩
theorem witness_ScalarStores : m0.Inv ∧ Running m0 task ∧ task.getP ((0 : GReg) : Nat) = true ∧
    viewAt (m0.who task) 0x500000 = none ∧ m0.locate (m0.who task) 1 0x500000 8 true false = .ok (.mem 0x500000 581) :=
  ⟨inv_m0, running, rfl, by decide, by rfl⟩

theorem witness_AddressChecks_align : Running (machine (task1 1)) (task1 1) ∧ ((task1 1).getS 1).toNat % 2 ≠ 0 :=
  ⟨running_machine _ rfl, by decide⟩
theorem witness_AddressChecks_range : Running (machine (task1 (BitVec.twoPow 64 56))) (task1 (BitVec.twoPow 64 56)) ∧
    ((task1 (BitVec.twoPow 64 56)).getS 1).toNat % 64 = 0 ∧ 2 ^ 56 ≤ ((task1 (BitVec.twoPow 64 56)).getS 1).toNat :=
  ⟨running_machine _ rfl, by decide, by decide⟩
theorem witness_AddressChecks_jump : Running (machine (task1 2)) (task1 2) ∧ ((task1 2).getS 1).toNat % 4 ≠ 0 :=
  ⟨running_machine _ rfl, by decide⟩
theorem armed_machine (t : Task) (h : t.flow = Flow.reset) (hb : t.bank = some 0) : Armed (machine t) t 0 where
  toRunning := running_machine t h
  bank := hb
  array := ⟨Nat.le_refl 0, .inl rfl⟩
theorem armed : Armed m0 task 0 := armed_machine _ rfl rfl
/-- The second element of a vector of f64 lies beyond the range, the first does not. -/
theorem witness_AddressChecks_vector :
    let t := task1 (BitVec.ofNat 64 (2 ^ 56 - 8))
    Armed (machine t) t 0 ∧ (t.getS 1).toNat < 2 ^ 56 ∧ (t.getS 1).toNat % 8 = 0 ∧ 2 ^ 56 ≤ (t.getS 1 + 8).toNat ∧
      ((machine t).bankHere 0).getK 0 = BitVec.allOnes 1024 ∧ t.ctl.vl = 2048 :=
  ⟨armed_machine _ rfl rfl, by decide, by decide, by decide, by decide +kernel, rfl⟩

theorem witness_Windows_fly : Running m0 task ∧ (15 : Fin 16) ≠ 0 ∧ (task.getS 1).toNat % 8 = 0 ∧ (task.getS 1).toNat < 2 ^ 56 :=
  ⟨running, by decide, by decide, by decide⟩
/-- A load into s4 in flight, whose window of one instruction is open. -/
def flight : LLOp :=
  { seq := 0, last := 1, pc := 0x3FFFFC, work := .load 4 8 false false 0x500000, pend := [.s 4], ready := 0, done := false, failed := none, since := none }
def flying : Task := flowing { Flow.reset with seq := 1, inflight := [flight] }
theorem witness_Windows_open : (machine flying).task? 128 = some flying ∧ flying.held ((machine flying).core 8) = false ∧
    flying.flow.skip.headD false = false ∧ flying.flow.resumed = false ∧ flight.done = false ∧
    flying.flow.seq ≤ flight.last ∧ flying.getP 0 = true ∧ Res.s 4 ∈ flight.pend ∧ Res.s 1 ∉ flight.pend ∧
    (∀ n : PReg, n ≠ 0 → Res.p n ∉ flight.pend) := by decide

theorem witness_Atomics : m0.Inv ∧ Running m0 task ∧ task.getP 0 = true ∧
    m0.locate (m0.who task) 2 0x500000 8 false false = .ok (.mem 0x500000 581) ∧
    m0.locate (m0.who task) 2 0x500000 4 false false = .ok (.mem 0x500000 581) :=
  ⟨inv_m0, running, rfl, by rfl, by rfl⟩
/-- A handler record with a COUNT, the target any core. -/
def record (count : Nat) : State :=
  { m0 with mem := Mem.writeNat (Mem.writeNat m0.mem 0x500000 8 count) 0x500010 8 0xFFFF }
/-- A count that passes to zero, one that stays above, and one that was zero. -/
theorem witness_AtomicsWithNotice : ∀ n ∈ [5, 6, 0],
    Running (record n) task ∧ (record n).Inv ∧ 1 ≤ task.purse.weight ∧ inWindow 0x500000 = false ∧
    viewAt ((record n).who task) 0x500000 = none ∧
    (record n).locate ((record n).who task) 2 0x500000 64 false false = .ok (.mem 0x500000 581) ∧
    (record n).readAt (.mem 0x500000 581) 0x500000 8 = n ∧ (task.getS 3).toNat = 5 ∧
    (record n).trigTarget 128 task ((record n).readAt (.mem 0x500000 581) 0x500000 64)
      (childPath task.ident.path task.purse.spawnIx) = some (9, false) := by
  intro n hn
  simp only [List.mem_cons, List.not_mem_nil, or_false] at hn
  rcases hn with rfl | rfl | rfl <;>
    exact ⟨⟨rfl, by decide, rfl, settled_nil rfl, rfl, rfl, rfl⟩, ⟨by decide, by decide, by decide⟩, by decide, by decide, by decide, by rfl, by decide,
      by decide, by decide +kernel⟩
theorem witness_AtomicsWithNotice_note : m0.Inv ∧ Running m0 task ∧ 1 ≤ task.purse.weight ∧
    m0.locate (m0.who task) 2 0x500000 4 false false = .ok (.mem 0x500000 581) := ⟨inv_m0, running, by decide, by rfl⟩

/-- A running launch of queue 1 with one parameter window of 16 bytes. -/
def launch0 : Launch :=
  { queue := 1, asid := 1, va := 0x600000, record := [], phase := .running, set := [8], snap := [],
    windows := [leBytes 16 (7 * 2 ^ 64 + 9), [], [], []], members := [], starts := [], outstanding := [], armed := true,
    since := none, exports := [], overflow := false, attempt := 0, noticed := false, order := 0, waitingSince := 0, service := 0 }
/-- A task of that launch. -/
def taskL : Task := { task with ident := { task.ident with launch := some 3, queue := 1, coreSet := .named [8] } }
def mL : State := { machine taskL with launches := [(3, launch0)] }
theorem runningL : Running mL taskL := ⟨rfl, by decide, rfl, settled_nil rfl, rfl, rfl, rfl⟩
theorem witness_ParameterWindows : Running mL taskL ∧ taskL.getP ((0 : GReg) : Nat) = true ∧ mL.window taskL 0 ≠ [] ∧
    0 + 8 ≤ (mL.window taskL 0).length ∧ (taskL.getS 0 + (8 : BitVec 32).signExtend 64).toNat + 8 ≤ (mL.window taskL 0).length ∧
    (mL.window taskL 0).length < (taskL.getS 0 + (9 : BitVec 32).signExtend 64).toNat + 8 ∧ mL.window taskL 3 = [] :=
  ⟨runningL, rfl, by decide, by decide, by decide, by decide, by decide⟩

theorem witness_ControlRegisterReads : Running m0 task ∧ (0x55 : BitVec 8) ≠ 0x54 := ⟨running, by decide⟩
/-- VL takes 2,048 and refuses 2,049. -/
theorem witness_ControlRegisterWrites_own : Running (machine (task1 2048)) (task1 2048) ∧ (task1 2048).getS 1 &&& ~~~0xFFF = 0 ∧
    ((task1 2048).getS 1).toNat ≤ 2048 ∧ Running (machine (task1 2049)) (task1 2049) ∧
    (task1 2049).getS 1 &&& ~~~0xFFF = 0 ∧ ¬ ((task1 2049).getS 1).toNat ≤ 2048 :=
  ⟨running_machine _ rfl, by decide, by decide, running_machine _ rfl, by decide, by decide⟩
theorem witness_ControlRegisterWrites_reserved : Running (machine (task1 0x1000)) (task1 0x1000) ∧
    (task1 0x1000).getS 1 &&& ~~~0xFFF ≠ 0 := ⟨running_machine _ rfl, by decide⟩
/-- A value every PMS takes, with event 21; one LOG_CTL takes, with a period of 2^24. -/
theorem witness_ControlRegisterWrites_core :
    Running (machine (task1 0x1F0015)) (task1 0x1F0015) ∧ (task1 0x1F0015).ident.launch = none ∧
    (task1 0x1F0015).getS 1 &&& ~~~0x1F00FF = 0 ∧ ((task1 0x1F0015).getS 1).toNat % 2 ^ 8 ≤ 21 ∧
    Running (machine (task1 0x180001)) (task1 0x180001) ∧ (task1 0x180001).getS 1 &&& ~~~0x1F0001 = 0 ∧
    ((task1 0x180001).getS 1).toNat / 2 ^ 16 % 2 ^ 5 = 24 :=
  ⟨running_machine _ rfl, rfl, by decide, by decide, running_machine _ rfl, by decide, by decide⟩
/-- The task of a launch under NOPM. -/
def mNopm : State := mL.setCluster 1 { Cluster.reset with dbg := { Cluster.reset.dbg with ctl := 0x400 } }
theorem witness_ControlRegisterWrites_denied : Running mNopm taskL ∧ taskL.ident.launch ≠ none ∧
    (mNopm.cluster (coreCluster mNopm.here)).dbg.ctl.getLsbD 10 ≠ false := ⟨⟨rfl, by decide, rfl, settled_nil rfl, rfl, rfl, rfl⟩, by decide, by decide⟩

/-- The debug module breaks core 0 of cluster 1 on brk, with or without BRKALL. -/
def mBrk (x : Word) : State := m0.setCluster 1 { Cluster.reset with dbg := { Cluster.reset.dbg with ctl := x } }
theorem witness_TrapsAndReturns_brk : ∀ x ∈ [0, 1, 0x101], Running (mBrk x) task := by
  intro x hx
  simp only [List.mem_cons, List.not_mem_nil, or_false] at hx
  rcases hx with rfl | rfl | rfl <;> exact ⟨rfl, by decide, rfl, settled_nil rfl, rfl, rfl, rfl⟩
theorem witness_TrapsAndReturns_brkCases :
    ((mBrk 0).cluster 1).dbg.ctl.getLsbD 0 = false ∧
    ((mBrk 1).cluster 1).dbg.ctl.getLsbD 0 = true ∧ ((mBrk 1).cluster 1).dbg.ctl.getLsbD 8 = false ∧
    ((mBrk 0x101).cluster 1).dbg.ctl.getLsbD 0 = true ∧ ((mBrk 0x101).cluster 1).dbg.ctl.getLsbD 8 = true := by decide
/-- In a handler, in a copy-completion handler, and in neither. -/
def inHandler : Task := flowing { Flow.reset with inUpcall := true }
def inCopyHandler : Task := flowing { Flow.reset with inXfer := true, held := some (false, [true]) }
theorem witness_TrapsAndReturns_upcall : Running (machine inHandler) inHandler ∧ inHandler.flow.inUpcall = true :=
  ⟨⟨rfl, by decide, rfl, settled_nil rfl, rfl, rfl, rfl⟩, rfl⟩
theorem witness_TrapsAndReturns_copy : Running (machine inCopyHandler) inCopyHandler ∧ inCopyHandler.flow.inUpcall = false ∧
    inCopyHandler.flow.inXfer = true ∧ inCopyHandler.flow.held = some (false, [true]) :=
  ⟨⟨rfl, by decide, rfl, settled_nil rfl, rfl, rfl, rfl⟩, rfl, rfl, rfl⟩
theorem witness_TrapsAndReturns_neither : Running m0 task ∧ task.flow.inUpcall = false ∧ task.flow.inXfer = false :=
  ⟨running, rfl, rfl⟩

def handled : Task := { task with ctl := { task.ctl with upcVec := 0x8000 } }
theorem witness_Upcalls : handled.flow.inUpcall = false ∧ handled.ctl.upcVec ≠ 0 ∧
    task.ctl.upcVec = 0 ∧ task.ident.queue < 65534 ∧
    { handled with flow := { Flow.reset with inUpcall := true } }.flow.inUpcall = true := by decide
theorem witness_YieldNopFences : Running m0 task ∧ (machine flying).task? 128 = some flying ∧
    flying.held ((machine flying).core 8) = false ∧ flying.flow.skip.headD false = false ∧ flying.flow.inflight = [flight] ∧
    flight.done = false := ⟨running, by decide⟩

theorem witness_VectorIntegers : Armed m0 task 0 ∧ Ty.i8 ∈ [Ty.i8, .n8, .i16, .n16, .i32, .n32, .i64, .n64] ∧
    Ty.n64 ∈ [Ty.i8, .n8, .i16, .n16, .i32, .n32, .i64, .n64] := ⟨armed, by decide, by decide⟩
theorem witness_VectorFloats : Armed m0 task 0 ∧ Ty.f16 ∈ [Ty.f16, .bf16, .f32, .f64] ∧
    (floatFormat .f16).isSome = true ∧ (floatFormat .f64).isSome = true := ⟨armed, by decide, by decide, by decide⟩
theorem witness_VectorCompares : Armed m0 task 0 ∧ Ty.n64 ∈ [Ty.i8, .n8, .i16, .n16, .i32, .n32, .i64, .n64] := ⟨armed, by decide⟩
/-- Mask 1 with bit 3 alone set, and mask 2 with none. -/
def bankK : Bank := { Bank.reset with k := Bank.reset.k.set 1 (BitVec.twoPow 1024 3) }
def mK : State := m0.setBank 8 0 bankK
theorem armedK : Armed mK task 0 := ⟨⟨rfl, by decide, rfl, settled_nil rfl, rfl, rfl, rfl⟩, rfl, Nat.le_refl 0, .inl rfl⟩
theorem witness_Masks : Armed mK task 0 ∧ task.bank = some 0 ∧ ((mK.bankHere 0).getK 1).getLsbD 3 = true ∧
    (∀ j < 3, ((mK.bankHere 0).getK 1).getLsbD j = false) ∧ ((mK.bankHere 0).getK 2) = 0 :=
  ⟨armedK, rfl, by decide +kernel, by decide +kernel, by decide +kernel⟩
theorem witness_VectorMoves : Armed m0 task 0 ∧ Ty.e2m1 ≠ .bs32 ∧ Ty.f64 ≠ .bs64 ∧ task.window ≤ (0 : VReg).val := by
  exact ⟨armed, by decide, by decide, by decide⟩
/-- A task with a window of eight registers. -/
def taskW : Task := { task with window := 8 }
theorem armedW : Armed (machine taskW) taskW 0 := armed_machine _ rfl rfl
theorem witness_ModeFaults_lanes : Armed (machine taskW) taskW 0 ∧ 0 < min taskW.ctl.vl.toNat (8192 / Ty.f64.bits) ∧
    (7 : VReg).val < taskW.window ∧ ¬ (8 : VReg).val < taskW.window := ⟨armedW, by decide, by decide, by decide⟩
theorem witness_ModeFaults_tiles : Armed (machine taskW) taskW 0 ∧ taskW.tileIn 32 8 = false ∧ taskW.tileIn 32 7 = true ∧
    taskW.tileIn (fmtTile .f64) 4 = false ∧ 7 ∈ tileRegs (accOf .bf16 taskW).bits 7 :=
  ⟨armedW, by decide, by decide, by decide, by decide⟩

/-- The bank with a vector of exponents of each range: e_ref 0 in v3, -149 in v4, 128 in v5. -/
def bankE : Bank := ((Bank.reset.setV 4 (BitVec.ofInt 8192 (-149) &&& 0xFFFFFFFF)).setV 5 128)
theorem witness_VectorConversions : Armed m0 task 0 ∧ Ty.e2m1 ≠ .bs32 ∧ Ty.i64 ≠ .bs64 ∧
    (BitVec.ofNat 32 (elemGet (bankE.getV 3) 32 0)).toInt = 0 ∧ (BitVec.ofNat 32 (elemGet (bankE.getV 4) 32 0)).toInt = -149 ∧
    (BitVec.ofNat 32 (elemGet (bankE.getV 5) 32 0)).toInt = 128 ∧ task.ctl.vl ≠ 0 ∧ (0 : VReg) ≠ 1 ∧
    (floatFormat .e4m3).isSome = true ∧ (floatFormat .e2m1).isSome = true :=
  ⟨armed, by decide, by decide, by decide +kernel, by decide +kernel, by decide +kernel, by decide, by decide, by decide, by decide⟩
theorem witness_ReductionsAndScans : Armed m0 task 0 ∧ RedOp.types .xor .i8 = true ∧ floatFormat .i8 = none ∧
    0 < min task.ctl.vl.toNat (8192 / Ty.i8.bits) ∧ RedOp.types .add .f64 = true ∧ (floatFormat .f64).isSome = true ∧
    task.window ≤ (0 : VReg).val := ⟨armed, by decide, by decide, by decide, by decide, by decide, by decide⟩
/-- A task whose VL is 0. -/
def task0 : Task := { task with ctl := { task.ctl with vl := 0 } }
theorem witness_ReductionsAndScans_none : Armed (machine task0) task0 0 ∧ min task0.ctl.vl.toNat (8192 / Ty.i8.bits) = 0 :=
  ⟨armed_machine _ rfl rfl, by decide⟩
/-- A bank whose stream q1 is bound to a request that has delivered all of it. -/
theorem witness_VectorLongForms : Armed m0 task 0 ∧ VOp.isMask .vadd = false ∧ crossLane .vadd = false ∧
    crossLane .vperm = true ∧ (∀ r ∈ (1 : VReg).val :: vRegs (srcsOf .vperm (.v 2) (.v 3)), task.window ≤ r) ∧
    lenOf .vadd .i32 task ≠ 0 ∧ qRegs (srcsOf .vadd (.v 2) (.v 3)) = [] ∧
    (∀ x ∈ srcsOf .vadd (.v 2) (.v 3), (m0.bankHere 0).arrived 256 32 x = true) ∧
    qRegs (srcsOf .vadd (.v 2) (.q 1)) = [1] ∧ ((m0.bankHere 0).q[(1 : QReg)]).isSome = false ∧
    lenOf .vadd .i32 task0 = 0 := ⟨armed, by decide, by decide, by decide, by decide, by decide, by decide, by decide +kernel, by decide, by decide, by decide⟩

/-! A task whose launch holds the first granule of its core's scratchpad, with s1 at the start of its local window. -/

def taskS : Task :=
  { taskL with regs := { taskL.regs with s := (taskL.regs.s.set 1 0x00F0000000000000).set 2 64 }, window := 8 }
def mS : State :=
  { (machine taskS).setCore 8 { Core.reset with granules := setAt Core.reset.granules 0 (.launch 3) } with
    launches := [(3, launch0)] }
theorem armedS : Armed mS taskS 0 := ⟨⟨rfl, by decide, rfl, settled_nil rfl, rfl, rfl, rfl⟩, rfl, Nat.le_refl 0, .inl rfl⟩
theorem inv_mS : mS.Inv := ⟨by decide, by decide, by decide⟩
theorem quietS : mS.quiet := ⟨rfl, fun _ => show Cluster.reset.dbg.ctl.getLsbD 9 = false by decide, fun _ h => nomatch h⟩
/-- Everything Lands asks for. -/
def landsAt (s : State) (t : Task) (acc len : Nat) (a : Word) (p : Place) : Bool :=
  decide (a.toNat % len = 0) && decide (a.toNat < 2 ^ 56) && (viewAt (s.who t) a.toNat).isNone && inWindow a.toNat &&
    (match s.locate (s.who t) acc a.toNat len false false with | .ok q => decide (q = p) | .error _ => false)
theorem lands_of {s : State} {t : Task} {acc len : Nat} {a : Word} {p : Place} (h : landsAt s t acc len a p = true) :
    Lands s t acc len a p := by
  simp only [landsAt, Bool.and_eq_true, decide_eq_true_eq, Option.isNone_iff_eq_none] at h
  obtain ⟨⟨⟨⟨h1, h2⟩, h3⟩, h4⟩, h5⟩ := h
  refine ⟨h1, h2, h3, ?_, .inl h4⟩
  cases hl : s.locate (s.who t) acc a.toNat len false false with
  | ok q => rw [hl] at h5; simp only [decide_eq_true_eq] at h5; rw [h5]
  | error z => rw [hl] at h5; cases h5
/-- The scratchpad index of byte k of the granule. -/
def spadAt (k : Nat) : Place := .spad (2621440 + k)
/-- Every element of a vector of f32 lands, for a load and for a store. -/
theorem witness_VectorLoads : Armed mS taskS 0 ∧ mS.quiet ∧
    ∀ e < 256, Lands mS taskS 0 4 (taskS.getS 1 + BitVec.ofNat 64 (e * 4)) (spadAt (e * 4)) :=
  ⟨armedS, quietS, fun e h => lands_of (by revert e; decide +kernel)⟩
theorem witness_VectorStores : mS.Inv ∧ Armed mS taskS 0 ∧ mS.quiet ∧
    ∀ e < 256, Lands mS taskS 1 4 (taskS.getS 1 + BitVec.ofNat 64 (e * 4)) (spadAt (e * 4)) :=
  ⟨inv_mS, armedS, quietS, fun e h => lands_of (by revert e; decide +kernel)⟩
theorem witness_MatrixProducts : Armed mS taskS 0 ∧ (7 : VReg).val < taskS.window ∧ (7 : VReg) ≠ 8 ∧
    taskS.tileIn (accOf .bf16 taskS).bits 7 = true ∧ (∀ r ∈ tileRegs (accOf .bf16 taskS).bits 7, r ∉ [8, 9]) ∧
    (∀ r ∈ tileRegs (accOf .m8 taskS).bits 0, r ∉ runRegs 8 4 ++ runRegs 12 4) :=
  ⟨armedS, by decide, by decide, by decide, by decide, by decide⟩
/-- The grid free, held by the context, held by another, and waited for. -/
def mG (grid : Option Nat) (queue : List Nat) : State := m0.setCore 8 { Core.reset with grid := grid, gridQueue := queue }
theorem witness_ModesAndTiles_modes : Running (mG none []) task ∧ Running (mG (some 0) []) task ∧ Running (mG (some 5) []) task ∧
    Running (mG none [5]) task ∧ task.bank = some 0 ∧ task.window = 0 ∧ Running (machine taskW) taskW ∧ taskW.window ≠ 0 :=
  ⟨⟨rfl, by decide, rfl, settled_nil rfl, rfl, rfl, rfl⟩, ⟨rfl, by decide, rfl, settled_nil rfl, rfl, rfl, rfl⟩, ⟨rfl, by decide, rfl, settled_nil rfl, rfl, rfl, rfl⟩,
    ⟨rfl, by decide, rfl, settled_nil rfl, rfl, rfl, rfl⟩, rfl, rfl, armedW.toRunning, by decide⟩
theorem witness_ModesAndTiles_tiles : Armed mS taskS 0 ∧ (7 : VReg).val < taskS.window ∧ taskS.tileIn 64 3 = true ∧
    taskS.tileIn 128 1 = true ∧ taskS.tileIn 32 7 = true := ⟨armedS, by decide, by decide, by decide, by decide⟩
theorem witness_TileLoads : Armed mS taskS 0 ∧ mS.quiet ∧ Fmt.f32.tile = true ∧ taskS.tileIn (fmtTile .f32) 7 = true ∧
    ∀ r < 16, ∀ j < 16, Lands mS taskS 0 (fmtAlign .f32)
      (taskS.getS 1 + BitVec.ofNat 64 (r * (2 * fmtBits .f32)) + BitVec.ofNat 64 (j * fmtAlign .f32)) (spadAt (64 * r + 4 * j)) :=
  ⟨armedS, quietS, by decide, by decide, fun r hr j hj => lands_of (by revert r j; decide +kernel)⟩
theorem witness_TileStores : mS.Inv ∧ Armed mS taskS 0 ∧ mS.quiet ∧ Fmt.f32.tile = true ∧ taskS.tileIn (fmtTile .f32) 7 = true ∧
    ∀ r < 16, ∀ j < 16, Lands mS taskS 1 (fmtAlign .f32)
      (taskS.getS 1 + BitVec.ofNat 64 r * taskS.getS 2 + BitVec.ofNat 64 (j * fmtAlign .f32)) (spadAt (64 * r + 4 * j)) :=
  ⟨inv_mS, armedS, quietS, by decide, by decide, fun r hr j hj => lands_of (by revert r j; decide +kernel)⟩

theorem witness_DeviceWritesAndRecords :
    let mon : Monitor :=
      { asid := 1, va := 0x500000, acc := 0, scalar := true, entry := 0x200000, lo := 0x200000, tid := 8, hdr := 0, hoist := 0,
        ident := task.ident, core := 8, upc := none, fired := false }
    let s := m0.setCluster 3 { Cluster.reset with monitors := [(0, mon)] }
    (s.cluster 3).monitors.get? 0 = some mon ∧ mon.entry / 64 = 0x200008 / 64 ∧ (65533 : Nat) < 65534 ∧ 65534 ≤ (65534 : Nat) := by
  decide
/-- A task with a weight. -/
def weighing (w : Nat) : Task := { task with purse := { task.purse with weight := w } }
/-- A child takes at least 2, another message 1. -/
theorem witness_Sends : Running (machine (weighing 2)) (weighing 2) ∧
    (machine (weighing 2)).inMergeHandler (weighing 2) = false ∧ 2 ≤ (weighing 2).purse.weight ∧
    (weighing 1).purse.weight < 2 ∧ Running (machine (weighing 1)) (weighing 1) ∧ (weighing 0).purse.weight < 1 ∧
    Running (machine (weighing 0)) (weighing 0) ∧ (weighing 0).flow.woken ≠ .refused :=
  ⟨running_machine _ rfl, by decide, by decide, by decide, running_machine _ rfl, by decide, running_machine _ rfl, by decide⟩
def refusedTask : Task := { weighing 0 with flow := { Flow.reset with woken := .refused } }
theorem witness_Sends_refused : Running (machine refusedTask) refusedTask ∧ refusedTask.purse.weight < 1 ∧
    refusedTask.flow.woken = .refused := ⟨⟨rfl, by decide, rfl, settled_nil rfl, rfl, rfl, rfl⟩, by decide, rfl⟩
theorem witness_Sends_targets :
    let path := childPath task.ident.path task.purse.spawnIx
    (task.getS 1).toNat % 4 = 0 ∧ (task.getS 1).toNat < 2 ^ 56 ∧
    m0.spawnCore task.ident.coreSet (m0.determ task.ident.launch) (coreCluster m0.here) path = some 9 ∧
    (m0.callatCore task.ident.coreSet (m0.determ task.ident.launch) m0.here (task.getS 1) path).isSome = true ∧
    m0.launchCore 8 = true ∧ task.ident.coreSet.has 8 = true ∧ m0.launchCore 5120 = false ∧ (task.getS 3).toNat % 4 ≠ 0 := by
  decide +kernel
/-- Descriptors of a queue, of both transfer queues, of a core, and refused ones at the ends of their ranges. -/
theorem witness_Sends_described :
    BitVec.getLsbD (0x8000000000000001 : Word) 63 = true ∧ (0x800000000000FFFE : Word).toNat % 2 ^ 32 = 65534 ∧
    (0x800000000000FFFF : Word).toNat % 2 ^ 32 = 65535 ∧ (0xFFFFFFFFE009 : Word).toNat < 2 ^ 48 ∧
    (0xFFFFFFFFE009 : Word).toNat % 2 ^ 13 = 9 ∧ 2 ^ 48 ≤ (0x1000000000000 : Word).toNat ∧ (0x7FFFFFFFFFFFFFFF : Word).toNat < 2 ^ 63 ∧
    (0x1FFF : Word).toNat % 2 ^ 13 = 8191 ∧ m0.launchCore 8191 = false := by decide +kernel

theorem witness_TaskEnds : Running m0 task ∧ task.views = [] ∧ task.purse.outer = none ∧ task.flow.soft = [] ∧
    task.flow.wait = .run ∧ m0.mergeFault 8 = none ∧ task.flow.merging = false ∧ task.flow.halting = false ∧ m0.worksDone 8 = true ∧
    (∀ h ∈ m0.holders, h.1.parent ≠ some 8) ∧ m0.ctxOf 8 = some 128 := 
  ⟨running, rfl, rfl, rfl, rfl, by decide, rfl, rfl, by decide, by decide, by decide⟩
/-- A child of the task, of another launch, of the same, and one that is halting. -/
def child (l : Option Nat) (halting : Bool) : Task :=
  { task with
    ident := { task.ident with tid := 0x10009, parent := some 8, launch := l }, flow := { Flow.reset with halting := halting } }
def mChild (t : Task) (l : Option Nat) (halting : Bool) : State := { m0 with ctxs := [(128, t), (145, child l halting)] }
theorem witness_TaskEnds_child : Running (mChild task none false) task ∧ (∃ h ∈ (mChild task none false).holders, h.1.parent = some 8) :=
  ⟨⟨rfl, by decide, rfl, settled_nil rfl, rfl, rfl, rfl⟩, by decide⟩
theorem witness_TaskEnds_kill :
    let t := task1 0x10009
    Running (mChild t none false) t ∧ (t.getS 1).toNat < 2 ^ 48 ∧ (mChild t none false).taskOf 0x10009 = some (child none false) ∧
    t.getS 1 ≠ t.ident.tid ∧ Running (mChild t (some 3) false) t ∧ (mChild t (some 3) false).taskOf 0x10009 = some (child (some 3) false) ∧
    Running (mChild t none true) t ∧ (mChild t none true).taskOf 0x10009 = some (child none true) :=
  ⟨⟨rfl, by decide, rfl, settled_nil rfl, rfl, rfl, rfl⟩, by decide, by decide, by decide, ⟨rfl, by decide, rfl, settled_nil rfl, rfl, rfl, rfl⟩, by decide,
    ⟨rfl, by decide, rfl, settled_nil rfl, rfl, rfl, rfl⟩, by decide⟩
theorem witness_TaskEnds_killGone : m0.taskOf 0xFFFFFFFFFFFF = none ∧ (0xFFFFFFFFFFFF : Word).toNat < 2 ^ 48 ∧
    2 ^ 48 ≤ (0x1000000000000 : Word).toNat ∧ Running (machine (task1 8)) (task1 8) ∧ (task1 8).getS 1 = (task1 8).ident.tid :=
  ⟨by decide, by decide, by decide, running_machine _ rfl, by decide⟩

/-- The task inside a hoist whose record is at 0x500000 with WOUT w and a status. -/
def hoisted (w : Nat) : Task :=
  { task with purse := { task.purse with hoist := 0x500000, weight := w, outer := some (0x400040, 7) } }
def mH (w wout status : Nat) : State :=
  { machine (hoisted w) with mem := Mem.writeNat (Mem.writeNat m0.mem 0x500000 8 wout) 0x500014 4 status }
theorem runningH (w wout status : Nat) : Running (mH w wout status) (hoisted w) := ⟨rfl, rfl, rfl, settled_nil rfl, rfl, rfl, rfl⟩
theorem witness_Hoists_open : m0.Inv ∧ Running m0 task ∧ (task.getS 1).toNat % 64 = 0 ∧ inWindow (task.getS 1).toNat = false ∧
    m0.locate { m0.who task with views := [] } 2 0x500000 64 false false = .ok (.mem 0x500000 581) ∧ task.purse.outer = none ∧
    m0.readAt (.mem 0x500000 581) 0x500000 64 / 2 ^ 160 % 2 ^ 32 % 2 = 0 :=
  ⟨inv_m0, running, by decide, by decide, by rfl, rfl, by decide⟩
theorem witness_Hoists_taken : (hoisted 3).purse.outer ≠ none ∧ Running (mH 3 3 1) (hoisted 3) ∧
    Running { m0 with mem := (mH 3 3 1).mem } task ∧
    State.readAt { m0 with mem := (mH 3 3 1).mem } (.mem 0x500000 581) 0x500000 64 / 2 ^ 160 % 2 ^ 32 % 2 = 1 :=
  ⟨by decide, runningH .., ⟨rfl, by decide, rfl, settled_nil rfl, rfl, rfl, rfl⟩, by decide⟩
/-- More weight is out than the task holds, all of it, and less: an open record and a closed one. -/
theorem witness_Hoists_waitq :
    Running (mH 3 4 1) (hoisted 3) ∧ (hoisted 3).purse.outer = some (0x400040, 7) ∧ (hoisted 3).purse.quiet = false ∧
    (mH 3 4 1).locate { (mH 3 4 1).who (hoisted 3) with views := [] } 2 0x500000 64 false false = .ok (.mem 0x500000 581) ∧
    (mH 3 4 1).readAt (.mem 0x500000 581) 0x500000 64 / 2 ^ 160 % 2 = 1 ∧
    3 < (mH 3 4 1).readAt (.mem 0x500000 581) 0x500000 64 % 2 ^ 64 ∧
    ¬ 3 < (mH 3 3 1).readAt (.mem 0x500000 581) 0x500000 64 % 2 ^ 64 ∧
    (mH 3 4 0).readAt (.mem 0x500000 581) 0x500000 64 / 2 ^ 160 % 2 ≠ 1 :=
  ⟨runningH .., rfl, rfl, by rfl, by decide, by decide, by decide, by decide⟩
theorem witness_Hoists_borrow : Running m0 task ∧ task.flow.woken = .no ∧ task.purse.weight ≤ 2 ^ 32 - 1 - 2 ^ 16 ∧
    2 ^ 32 - 1 - 2 ^ 16 < (weighing (2 ^ 32 - 2 ^ 16)).purse.weight ∧
    Running (machine (flowing { Flow.reset with woken := .yes })) (flowing { Flow.reset with woken := .yes }) ∧
    Running (machine refusedTask) refusedTask :=
  ⟨running, rfl, by decide, by decide, ⟨rfl, by decide, rfl, settled_nil rfl, rfl, rfl, rfl⟩, ⟨rfl, by decide, rfl, settled_nil rfl, rfl, rfl, rfl⟩⟩

/-- A task that asks for a view of len bytes at base. -/
def asking (base len : Word) : Task := { task with regs := { task.regs with s := (task.regs.s.set 1 base).set 2 len } }
/-- The smallest view and the largest, up to the end of the address range. -/
theorem witness_Views_decl : ∀ e ∈ [((0 : Word), (64 : Word)), (0xFFFFFFFFEFFFC0, 0x100000)],
    let t := asking e.1 e.2
    Running (machine t) t ∧ t.flow.inUpcall = false ∧ (t.getS 1).toNat % 64 = 0 ∧ (t.getS 1).toNat < 2 ^ 56 ∧
    (t.getS 1 + t.getS 2).toNat < 2 ^ 56 ∧ 0 < (t.getS 2).toNat ∧ (t.getS 2).toNat ≤ 2 ^ 20 ∧ (t.getS 2).toNat % 64 = 0 ∧
    t.views.get? 7 = none := by
  intro e h
  simp only [List.mem_cons, List.not_mem_nil, or_false] at h
  rcases h with rfl | rfl <;> exact ⟨running_machine _ rfl, by decide⟩
theorem witness_Views_outside : inWindow 0 = false ∧ inWindow 63 = false ∧ inWindow 0xFFFFFFFFEFFFC0 = false ∧ inWindow 0xFFFFFFFFFFFFBF = false ∧
    inWindow 0x00F0000000000000 = true := by decide
theorem witness_Views_refused : ((asking 32 64).getS 1).toNat % 64 ≠ 0 ∧ ¬ ((asking 0x00FFFFFFFFFFFFC0 64).getS 1 + 64).toNat < 2 ^ 56 ∧
    ¬ ((asking 0 0x100040).getS 2).toNat ≤ 2 ^ 20 ∧ ¬ 0 < ((asking 0 0).getS 2).toNat := by decide
/-- A view of a launch under DETERM is refused for a floating sum. -/
theorem witness_Views_determ :
    State.determ { mL with launches := [(3, { launch0 with record := [0, 0x80, 0, 0, 0, 0, 0, 0] })] } (some 3) = true := by decide
/-- A declared view, an inherited one, and its chain with another holder below. -/
def view0 : View := { base := 0x500000, len := 64, op := .addI64, chain := 40, seg := 41, declared := true }
def chain0 : Chain :=
  { slice := 1, vid := 2, base := 0x500000, len := 64, op := .addI64, declarer := 8, hoist := 0, asid := 1, launch := none,
    segs := [{ id := 41, owner := 8, complete := false, lines := [] }], bad := [], joining := false, discard := false, work := [],
    fault := none, since := none, told := false }
def viewing (declared : Bool) : Task := { task with views := [(2, { view0 with declared := declared })] }
def mV (declared : Bool) : State := { machine (viewing declared) with chains := [(40, chain0)] }
def mVheld : State := { mV true with ctxs := [(128, viewing true), (145, { child none false with views := [(2, { view0 with declared := false })] })] }
theorem witness_Views_drop : Running (mV true) (viewing true) ∧ (viewing true).views.get? 2 = some view0 ∧
    (mV true).heldBelow 40 8 = false ∧ Running mVheld (viewing true) ∧ mVheld.heldBelow 40 8 = true ∧
    Running (mV false) (viewing false) :=
  ⟨⟨rfl, by decide, rfl, settled_nil rfl, rfl, rfl, rfl⟩, by decide, by decide, ⟨rfl, by decide, rfl, settled_nil rfl, rfl, rfl, rfl⟩, by decide, ⟨rfl, by decide, rfl, settled_nil rfl, rfl, rfl, rfl⟩⟩
theorem witness_Views_access : Running (mV true) (viewing true) ∧ viewAt ((mV true).who (viewing true)) 0x500038 = some view0 ∧
    (mV true).chains.get? 40 = some chain0 ∧ (chain0.segment? 41).isSome = true ∧ inWindow 0x500038 = false ∧
    (match (mV true).translate (nearSlice ((mV true).who (viewing true)).die 0x500038) 1 0x500038 with | .ok l => l.io | .error _ => true) = false ∧
    (mV true).arenaUsed + (view0.group (0x500038 / 64)).length ≤ 2 ^ 28 :=
  ⟨⟨rfl, by decide, rfl, settled_nil rfl, rfl, rfl, rfl⟩, by decide, by decide, by decide, by decide, by decide, by decide⟩

/-- A task with an address in s1 and a number in s2. -/
def two (x y : Word) : Task := asking x y
theorem witness_Barriers_wired : m0.Inv ∧ (∀ y ∈ [(1 : Word), 128, 0, 129], Running (machine (two 0 y)) (two 0 y) ∧ (two 0 y).getS 1 = 0) ∧
    1 ≤ ((two 0 1).getS 2).toNat ∧ ((two 0 128).getS 2).toNat ≤ 128 ∧ ((two 0 0).getS 2).toNat = 0 ∧ 128 < ((two 0 129).getS 2).toNat :=
  ⟨inv_m0, fun _ _ => ⟨running_machine _ rfl, rfl⟩, by decide, by decide, by decide, by decide⟩
/-- A token of the wired barrier whose generation stands, has passed, and none. -/
def tokened (x : Word) (g : Option (Word × Word)) : Task := { two x 5 with token := g }
theorem witness_Barriers_tokens : (m0.cluster 1).gen = 0 ∧ Running (machine (tokened 0 (some (0, 0)))) (tokened 0 (some (0, 0))) ∧
    Running (machine (tokened 0 (some (0, 1)))) (tokened 0 (some (0, 1))) ∧ Running (machine (tokened 0 none)) (tokened 0 none) ∧
    (1 : Word) ≠ (m0.cluster 1).gen :=
  ⟨rfl, running_machine _ rfl, running_machine _ rfl, running_machine _ rfl, by decide⟩
/-- A named barrier at 0x500000 that expects five arrivals: it has had three, or four. -/
def mBar (count : Nat) : State := { m0 with mem := Mem.writeNat (Mem.writeNat m0.mem 0x500000 8 5) 0x500008 8 count }
theorem witness_Barriers_named : ∀ n ∈ [3, 4], (mBar n).Inv ∧ Running (mBar n) task ∧ task.getS 1 ≠ 0 ∧ (task.getS 1).toNat % 64 = 0 ∧
    inWindow (task.getS 1).toNat = false ∧
    (mBar n).locate { (mBar n).who task with views := [] } 2 0x500000 64 false false = .ok (.mem 0x500000 581) ∧
    (mBar n).locate { (mBar n).who task with views := [] } 0 0x500000 64 false false = .ok (.mem 0x500000 581) ∧
    (mBar n).readAt (.mem 0x500000 581) 0x500000 64 / 2 ^ 64 % 2 ^ 64 + 1 = n + 1 := by
  intro n h
  simp only [List.mem_cons, List.not_mem_nil, or_false] at h
  rcases h with rfl | rfl <;>
    exact ⟨⟨by decide, by decide, by decide⟩, ⟨rfl, by decide, rfl, settled_nil rfl, rfl, rfl, rfl⟩, by decide, by decide, by decide, by rfl, by rfl, by decide +kernel⟩
theorem witness_Barriers_counts : (task.getS 0).toNat = 0 ∧ 2 ^ 63 - 1 < ((two 0x500000 (BitVec.twoPow 64 63)).getS 2).toNat ∧
    1 ≤ (task.getS 3).toNat ∧ (two 0x500020 1).getS 1 ≠ 0 ∧ ((two 0x500020 1).getS 1).toNat % 64 ≠ 0 := by decide
theorem witness_Barriers_namedTokens :
    Running (machine (tokened 0x500000 (some (0x500000, 0)))) (tokened 0x500000 (some (0x500000, 0))) ∧
    Running (machine (tokened 0x500000 (some (0x500000, 9)))) (tokened 0x500000 (some (0x500000, 9))) ∧
    Running (machine (tokened 0x500000 (some (0, 0)))) (tokened 0x500000 (some (0, 0))) :=
  ⟨running_machine _ rfl, running_machine _ rfl, running_machine _ rfl⟩
/-- A signal at its greatest value and at its least. -/
def mSig (v : Nat) : State := { machine (two 0x500000 1) with mem := Mem.writeNat m0.mem 0x500000 8 v }
theorem witness_Signals : Running (mSig 6) (two 0x500000 1) ∧ (mSig 6).Inv ∧
    (mSig 6).locate { (mSig 6).who (two 0x500000 1) with views := [] } 2 0x500000 8 false false = .ok (.mem 0x500000 581) ∧
    (mSig 6).locate { (mSig 6).who (two 0x500000 1) with views := [] } 0 0x500000 8 false false = .ok (.mem 0x500000 581) ∧
    2 ^ 63 ≤ (BitVec.ofNat 64 ((mSig (2 ^ 63 - 1)).readAt (.mem 0x500000 581) 0x500000 8)).toInt + 1 ∧
    (BitVec.ofNat 64 ((mSig (2 ^ 63)).readAt (.mem 0x500000 581) 0x500000 8)).toInt - 1 < -(2 ^ 63) ∧
    Cc.holds .ge 6 (two 0x500000 1 |>.getS 2) = true ∧ Cc.holds .eq 6 (two 0x500000 1 |>.getS 2) = false :=
  ⟨⟨rfl, by decide, rfl, settled_nil rfl, rfl, rfl, rfl⟩, ⟨by decide, by decide, by decide⟩, by rfl, by rfl, by decide, by decide, by decide, by decide⟩
theorem witness_Signals_queue :
    let t : Task := { two 0x500000 1 with ident := { task.ident with queue := 65534 } }
    Running (machine t) t ∧ 65534 ≤ t.ident.queue := ⟨running_machine _ rfl, by decide⟩

/-- A task that asks for a copy of 64 bytes, with four request words in s4 to s7. -/
def copying (w0 w1 w2 w3 : Word) (weight : Nat) : Task :=
  { task with
    regs := { task.regs with s := (((task.regs.s.set 4 w0).set 5 w1).set 6 w2).set 7 w3 }
    purse := { task.purse with weight := weight } }
/-- The smallest and the largest request of KIND 0 with a handler; a request of size 0; a reserved DONE. -/
theorem witness_CopyRequests : Running (machine (copying 0x0400000000500000 0x600000 1 0x700000 1)) (copying 0x0400000000500000 0x600000 1 0x700000 1) ∧
    ((copying 0x0400000000500000 0x600000 1 0x700000 1).sAt 4).toNat / 2 ^ 60 % 2 ^ 4 = 0 ∧
    ((copying 0x0400000000500000 0x600000 1 0x700000 1).sAt 4).toNat / 2 ^ 58 % 2 ^ 2 = 1 ∧
    ((copying 0x0400000000500000 0x600000 (2 ^ 30) 0x700000 1).sAt 6).toNat % 2 ^ 32 = 2 ^ 30 ∧
    ((copying 0x0400000000500000 0x600000 0 0x700000 1).sAt 6).toNat % 2 ^ 32 = 0 ∧
    ((copying 0x0C00000000500000 0x600000 1 0x700000 1).sAt 4).toNat / 2 ^ 58 % 2 ^ 2 = 3 ∧ m0.hereCore.fifo.length < 8 :=
  ⟨running_machine _ rfl, by decide, by decide, by decide, by decide, by decide, by decide⟩
/-- A request in a FIFO. -/
def request : CopyReq :=
  { id := 77, pf := none, kind := 4, done := 2, esz := 2, src := 0x500000, dst := 0, n1 := 0, n0 := 0, pb := 0x600000, tag := 9,
    tid := 8, ident := task.ident, hoist := 0, core := 8, bank := some 0, turn := 0, pos := 0, stuck := none, taken := false,
    block := { sstride := 0, dstride := 0, idx := 0, handler := 0, wl := 0, hl := 0 }, own := [], unmapped := [], buffer := none, told := false, paused := false, since := none }
def mFull : State := m0.setCore 8 { Core.reset with fifo := List.replicate 8 request }
theorem witness_CopyRequests_full : Running mFull task ∧ ¬ mFull.hereCore.fifo.length < 8 ∧ task.purse.weight ≠ 0 ∧
    (weighing 0).purse.weight = 0 ∧ (weighing 0).flow.woken ≠ .refused := ⟨⟨rfl, by decide, rfl, settled_nil rfl, rfl, rfl, rfl⟩, by decide, by decide, rfl, by decide⟩
theorem witness_CopyRequests_prefetch : ((two 0x500000 (2 ^ 30)).getS 2).toNat ≤ 2 ^ 30 ∧
    ¬ ((two 0x500000 (2 ^ 30 + 1)).getS 2).toNat ≤ 2 ^ 30 ∧ ((task.sAt 1).toNat % 64 = 0) ∧ inWindow (task.sAt 1).toNat = false := by decide
/-- One open request of tag 9; a bound register. -/
def tagged : Task := task1 9
def mOpen : State := (machine tagged).setCore 8 { Core.reset with fifo := [request] }
def mBound : State := mOpen.setBank 8 0 { Bank.reset with q := Bank.reset.q.set 1 (some 77) }
theorem witness_CopyRequests_bind : Running mOpen tagged ∧ tagged.bank = some 0 ∧ 77 ∈ mOpen.streamRequests 8 tagged 9 ∧
    (mOpen.bankHere 0).q[(1 : QReg)] = none ∧ Running mBound tagged ∧ (mBound.bankHere 0).q[(1 : QReg)] ≠ none ∧
    (machine tagged).streamRequests 8 tagged 9 = [] :=
  ⟨⟨rfl, by decide, rfl, settled_nil rfl, rfl, rfl, rfl⟩, rfl, by decide, by decide, ⟨rfl, by decide, rfl, settled_nil rfl, rfl, rfl, rfl⟩, by decide, by decide⟩

/-- Region 3 of address space 1, written by paths that agree with the task's in 1 bit, and by engine 5. -/
def region (engine : Bool) (writer : Word) : Region := { index := 3, base := 0, len := 0, writer := writer, engine := engine, prefixLen := 1 }
def mRegion (t : Task) (r : Region) : State := { machine t with regions := [(1, [r])] }
theorem witness_Handover :
    let t := two 0x8003 639
    Running (mRegion t (region false 0)) t ∧ ((mRegion t (region false 0)).regions.getD 1 []).find? (fun r => r.index == 3) = some (region false 0) ∧
    t.ident.path.toNat / 2 ^ 63 = (region false 0).writer.toNat / 2 ^ 63 ∧
    t.ident.path.toNat / 2 ^ 63 ≠ (region false (-1)).writer.toNat / 2 ^ 63 ∧
    coreCluster (mRegion t (region true 1)).here = (region true 1).writer.toNat ∧ (t.getS 2).toNat ≤ 639 ∧
    ¬ ((two 0x8003 640).getS 2).toNat ≤ 639 ∧ 1 ≤ t.purse.weight ∧
    ((mRegion t (region false 0)).regions.getD 1 []).find? (fun r => r.index == 4) = none :=
  ⟨⟨rfl, by decide, rfl, settled_nil rfl, rfl, rfl, rfl⟩, by decide, by decide, by decide, by decide, by decide, by decide, by decide, by decide⟩
theorem witness_HandoverArrival :
    let h : Handover := { src := coreOrigin 8 8, asid := 1, region := 3, engine := true, prefixLen := 0, writer := 639, hoist := 0 }
    ({ m0 with handovers := [(7, h)] } : State).handovers.get? 7 = some h := by decide
/-- A column core: cluster 0 with COLW 1. -/
def mColumn (t : Task) : State :=
  { machine t with focus := 0, ctxs := [(0, t)], cfg := { (machine t).cfg with colw := 1 } }
theorem witness_Xinv :
    Running (mColumn (two 0x1000 0x0001000000001000)) (two 0x1000 0x0001000000001000) ∧
    (mColumn task).inColumn (coreCluster (mColumn task).here) = true ∧ ¬ m0.inColumn (coreCluster m0.here) = true ∧
    ((two 0x1000 0x0001000000001000).getS 1).toNat % 4096 = 0 ∧ ((two 0x1000 0x0001000000001000).getS 2).toNat % 2 ^ 48 % 4096 = 0 ∧
    ((two 0x1000 0x0001000000001000).getS 1).toNat + 0x1000 ≤ 2 ^ 56 ∧ ((two 0x1001 0).getS 1).toNat % 4096 ≠ 0 ∧
    (flowing { Flow.reset with woken := .yes }).flow.woken = .yes :=
  ⟨⟨rfl, by decide, rfl, settled_nil rfl, rfl, rfl, rfl⟩, by decide, by decide, by decide, by decide, by decide, by decide, rfl⟩
/-- An invalidation of a page that has reached slice 0 of 640, and one that all have acknowledged. -/
def inval (arrived acked : List Nat) : Inval :=
  { issuer := .task 8, asid := 1, start := 0x1000, len := 0x1000, arrived := arrived, acked := acked }
def mInval (a k : List Nat) : State :=
  { machine (flowing { Flow.reset with wait := .xinv 9 }) with invals := [(9, inval a k)] }
theorem witness_Invalidation : (mInval [0] []).invals.get? 9 = some (inval [0] []) ∧ 639 ∉ (inval [0] []).arrived ∧
    0 ∈ (inval [0] []).arrived ∧ 0 ∉ (inval [0] []).acked ∧ 640 ≤ (List.range 640).length ∧
    (mInval (List.range 640) (List.range 640)).invals.get? 9 = some (inval (List.range 640) (List.range 640)) ∧
    ((mInval [0] []).task? 128).map (fun u => (u.ident.tid, u.flow.wait)) = some (8, .xinv 9) :=
  ⟨by decide, by decide, by decide, by decide, by simp, rfl, by decide⟩
theorem witness_TranslationWalk : nearSlice (clusterDie (nearSlice 0 0x500000)) 0x500000 = nearSlice 0 0x500000 ∧
    m0.cached (nearSlice 0 0x500000) 1 0x500000 = none ∧
    (match m0.walk (m0.descAt (nearSlice 0 0x500000) 1) 0x500000 with | .ok l => l.size | .error _ => 0) = 30 := by decide
theorem witness_LineRecall :
    let s := { m0 with directory := [(5, { slice := 3, asid := 1, vline := 5 })] }
    (s.directory.get? 5).isSome = true ∧ s.wsImage = none := by decide
theorem witness_WeightStoreRefresh : (0 % 2000 < 500 ∧ 0 < 16000) ∧ ¬ (500 % 2000 < 500) ∧ ¬ (16000 < 16000) := by decide

/-- The task with its load done last, in flight, and failed. -/
theorem witness_ContextEvents_load : (machine flying).Inv ∧ (8 : Nat) < 5120 ∧ (0 : Nat) < 16 ∧ (machine flying).task? (16 * 8 + 0) = some flying ∧
    flying.flow.inflight = [flight] ∧ flight.seq = 0 ∧ flight.done = false ∧ flight.failed = none ∧
    flight.work = .load 4 8 false false 0x500000 ∧ flight.ready ≤ ((machine flying).core 8).cycle ∧
    ((machine flying).core 8).health.retired = false ∧ viewAt (taskWho 128 flying) 0x500000 = none ∧
    (machine flying).locate (taskWho 128 flying) 0 0x500000 8 false false = .ok (.mem 0x500000 581) :=
  ⟨⟨by decide, by decide, by decide⟩, by decide, by decide, rfl, rfl, rfl, rfl, rfl, rfl, by decide, rfl, by decide, by rfl⟩
def flightSt : LLOp := { flight with work := .store 4 false 0x500000 (-1), pend := [] }
def flyingSt : Task := flowing { Flow.reset with seq := 3, inflight := [flightSt] }
theorem witness_ContextEvents_store : (machine flyingSt).Inv ∧ (machine flyingSt).task? (16 * 8 + 0) = some flyingSt ∧
    flyingSt.flow.inflight = [flightSt] ∧ flightSt.work = .store 4 false 0x500000 (-1) ∧
    (machine flyingSt).locate (taskWho 128 flyingSt) 1 0x500000 4 true false = .ok (.mem 0x500000 581) :=
  ⟨⟨by decide, by decide, by decide⟩, rfl, rfl, rfl, by rfl⟩
theorem witness_ContextEvents_aging : (m0.core 8).cycle % 32 = 0 ∧ (128, task) ∈ m0.ctxs ∧ ctxCore 128 = 8 ∧ task.rank.ready = some 0 := by
  decide
theorem witness_ContextEvents_yield :
    let t : Task := { task with rank := { task.rank with yieldUntil := 64 } }
    let s := (machine t).setCore 8 { Core.reset with cycle := 64 }
    s.task? 128 = some t ∧ t.rank.yieldUntil ≠ 0 ∧ t.rank.yieldUntil ≤ (s.core 8).cycle := ⟨rfl, by decide, by decide⟩
theorem witness_ContextEvents_grid : (mG none [0]).task? 128 = some task ∧ ((mG none [0]).core 8).gridQueue.head? = some 0 ∧
    ((mG none [0]).core 8).grid = none ∧ (mG none [0]).drained 128 task = true ∧ ((mG none [0]).core 8).dip = false := by decide
/-- A failed load, a waiting cause, a soft fault without a handler. -/
def fault0 : Trap := cause XLATE 0x500000 0x400000
theorem witness_ContextEvents_upcall :
    let t1 := flowing { Flow.reset with seq := 3, inflight := [{ flight with failed := some fault0 }] }
    let t2 := flowing { Flow.reset with trap := some fault0 }
    let t3 := flowing { Flow.reset with soft := [fault0] }
    (machine t1).Inv ∧ (machine t1).task? 128 = some t1 ∧ ((machine t1).core 8).halted = false ∧ t1.flow.trap = none ∧ t1.window = 0 ∧
    (machine t2).Inv ∧ (machine t2).task? 128 = some t2 ∧ t2.flow.inflight = [] ∧ t2.flow.trap = some fault0 ∧
    (machine t3).Inv ∧ (machine t3).task? 128 = some t3 ∧ t3.held ((machine t3).core 8) = false ∧ t3.flow.busy = false ∧
    t3.ctl.upcVec = 0 ∧ t3.flow.soft = [fault0] :=
  ⟨⟨by decide, by decide, by decide⟩, rfl, rfl, rfl, rfl, ⟨by decide, by decide, by decide⟩, rfl, rfl, rfl,
    ⟨by decide, by decide, by decide⟩, rfl, by decide, by decide, rfl, rfl⟩
/-- A task in M mode, whose context has the grid, and whose context has not. -/
theorem witness_ContextEvents_granted : (machine taskW).task? 128 = some taskW ∧ taskW.window ≠ 0 ∧ ((machine taskW).core 8).grid ≠ some 0 ∧
    (((machine taskW).setCore 8 { Core.reset with grid := some 0 }).core 8).grid = some 0 ∧ task.rank.block = none := by decide
theorem witness_ContextEvents_copy :
    let s := m0.setCluster 1 { Cluster.reset with engine := { Cluster.reset.engine with done := [{ tid := 8, tag := 9, handler := 0x8000 }] } }
    s.task? 128 = some task ∧ task.held (s.core 8) = false ∧ task.flow.woken = .no ∧ task.flow.busy = false ∧ task.flow.soft = [] ∧
    ((s.cluster 1).engine.done.head?.map fun d => d.tid) = some task.ident.tid := by decide

/-- A message for core 8 that asks for a bank, in its mailbox. -/
def msg0 (d : Dest) : Msg :=
  { id := 5, dst := d, hdr := 0x8000000000400000, args := #v[1, 2, 3, 4], s5 := 8, weight := 1, hoist := 0,
    ident := { task.ident with tid := 0 }, views := [], sender := none, senderPath := 0x8000000000000000, launchStart := false,
    arrived := 0 }
def mMail : State := m0.setCore 8 { Core.reset with mailbox := [msg0 (.core 8)] }
/-- The core of that message when a save has freed context 1 and bank 1 for the waiting task x. -/
def dueSeat (saved : Bool) (id : Nat) : Seat := { saved := saved, id := id, ctx := 1, bank := some 1 }
def mDue (x : Seat) : State := mMail.setCore 8 { mMail.core 8 with due := [x] }
theorem witness_TaskScheduling_start : mMail.choice 8 = some (.msg 0 (msg0 (.core 8))) ∧ mMail.task? (16 * 8 + 1) = none ∧
    (∀ n < 1, mMail.task? (16 * 8 + n) ≠ none) ∧ (msg0 (.core 8)).views = [] ∧ (msg0 (.core 8)).hdr.getLsbD 63 = true :=
  ⟨rfl, rfl, by decide, rfl, by decide⟩
/-- A full core whose quantum has run out, and a message that has waited for a start. -/
def full : List (Nat × Task) := (List.range 16).map fun n => (128 + n, task)
def mFullCore (stime : Nat) : State :=
  { (mMail) with ctxs := full, stime := stime }
theorem witness_TaskScheduling_quantum : (mFullCore 1000000).task? 128 = some task ∧ ((mFullCore 1000000).core 8).dip = false ∧
    task.flow.saving = false ∧ (mFullCore 1000000).control.gang = false ∧
    task.rank.quantum + (mFullCore 1000000).control.quantumLen * 1000 ≤ (mFullCore 1000000).stime ∧
    m0.waiters 8 = [] ∧ task.flow.halting = false ∧ task.flow.suspended = false := by decide
theorem witness_TaskScheduling_yields : (mFullCore 100000000).task? 128 = some task ∧
    ((mFullCore 100000000).waiters 8).any (fun w => w.bank && (mFullCore 100000000).starved w) = true ∧ task.bank ≠ none ∧
    ((mFullCore 100000000).core 8).due = [] := by decide
def savingTask : Task := flowing { Flow.reset with saving := true }
theorem witness_TaskScheduling_save : (machine savingTask).task? 128 = some savingTask ∧ savingTask.flow.saving = true ∧
    ((machine savingTask).core 8).halted = false ∧ ((machine savingTask).core 8).results = [] ∧ savingTask.flow.inflight = [] ∧ savingTask.flow.trap = none ∧
    savingTask.flow.suspended = false := by decide
def saved0 : Saved := { core := 8, bank := some Bank.reset, task := task, savedAt := 0 }
def mSaved : State := { m0 with ctxs := [], saved := [(4, saved0)] }
theorem witness_TaskScheduling_restore : mSaved.saved.get? 4 = some saved0 ∧ mSaved.task? 128 = none ∧
    (match mSaved.choice 8 with | some (.saved k r) => decide (k = 4 ∧ r.savedAt = 0) | _ => false) = true := ⟨rfl, rfl, by decide⟩

/-- A mailbox of 64 entries, and a spill ring of 512. -/
def mFab (mail spill : Nat) (d : Dest) : State :=
  { m0.setCore 9 { Core.reset with mailbox := List.replicate mail (msg0 (.core 9)), spill := List.replicate spill (msg0 (.core 9)) } with
    fabric := [(5, msg0 d)] }
theorem witness_Messages : (mFab 63 0 (.core 9)).fabric.get? 5 = some (msg0 (.core 9)) ∧ (msg0 (.core 9)).dst = .core 9 ∧
    ((mFab 63 0 (.core 9)).core 9).mailbox.length < 64 ∧ ((mFab 63 0 (.core 9)).core 9).spill = [] ∧
    64 ≤ ((mFab 64 0 (.core 9)).core 9).mailbox.length ∧ ((mFab 64 511 (.core 9)).core 9).spill.length < 512 ∧
    ((mFab 0 1 (.core 9)).core 9).spill ≠ [] ∧ 512 ≤ ((mFab 64 512 (.core 9)).core 9).spill.length := by
  exact ⟨by decide, rfl, by decide +kernel, rfl, by decide +kernel, by decide +kernel, by decide, by decide +kernel⟩
theorem witness_Messages_stop :
    let s : State := { m0 with stops := [msg0 (.core 9)] }
    s.stops = [msg0 (.core 9)] ∧ (msg0 (.core 9)).id = 5 ∧ (s.core 9).mailbox.length < 64 ∧ (s.core 9).spill = [] := by decide
/-- Writes at offsets: offset, bytes, value. -/
def writes (m : Mem) (a : Nat) (ws : List (Nat × Nat × Nat)) : Mem := ws.foldl (fun m e => Mem.writeNat m (a + e.1) e.2.1 e.2.2) m
/-- The descriptor of queue 1, enabled, at QTAB 0x2000; and messages to the last queue and to the first transfer queue. -/
def mQ (bytes : List (Nat × Nat × Nat)) : State :=
  { m0 with
    cfg := { m0.cfg with qtab := 0x2000 }
    mem := writes (writes m0.mem 0x2040 [(0, 8, 0x3000), (8, 1, 4), (9, 1, 1), (10, 2, 1), (24, 8, 0x4000), (32, 1, 4), (33, 1, 4),
      (48, 8, 0x5000)]) 0x2040 bytes }
theorem inv_mQ : (mQ []).Inv := ⟨by decide, by decide, by decide⟩
theorem witness_Messages_queue : ({ mQ [] with fabric := [(5, msg0 (.queue 1))] } : State).fabric.get? 5 = some (msg0 (.queue 1)) ∧
    (1 : Nat) < 65534 ∧ (mQ []).mem.readNat (0x2000 + 64 * 1 + 9) 1 % 2 = 1 ∧ 65534 ≤ (65534 : Nat) ∧
    ({ mQ [] with fabric := [(5, msg0 (.queue 65534))] } : State).fabric.get? 5 = some (msg0 (.queue 65534)) := by decide
/-- A hoist record at 0x500000 with WOUT, WMINT and STATUS, for a borrow and a return. -/
def mRec (out minted status waiter : Nat) : State :=
  { m0 with
    mem := Mem.writeNat (Mem.writeNat (Mem.writeNat (Mem.writeNat m0.mem 0x500000 8 out) 0x500008 8 minted) 0x500014 4 status) 0x500018 8 waiter
    borrows := [(6, { src := coreOrigin 8 8, tid := 8, asid := 1, hoist := 0x500000, answer := none, since := none })]
    returns := [(7, { src := coreOrigin 8 8, asid := 1, hoist := 0x500000, amount := 3, kill := true })] }
theorem witness_Weight_borrow : ((mRec 3 (2 ^ 63 - 2 ^ 16) 1 0).borrows.get? 6).isSome = true ∧ (mRec 3 9 1 0).recordPa 0 1 0x500000 = some 0x500000 ∧
    (mRec 3 (2 ^ 63 - 2 ^ 16) 1 0).mem.readNat 0x500008 8 + 2 ^ 16 ≤ 2 ^ 63 ∧
    2 ^ 63 < (mRec 3 (2 ^ 63 - 2 ^ 16 + 1) 1 0).mem.readNat 0x500008 8 + 2 ^ 16 ∧ (mRec 3 9 1 0).mem.readNat 0x500014 1 % 2 = 1 ∧
    (mRec 3 9 0 0).mem.readNat 0x500014 1 % 2 = 0 := by decide
theorem witness_Weight_grant :
    let t := flowing { Flow.reset with wait := .borrow 6 }
    let s : State := { machine t with borrows := [(6, { src := coreOrigin 8 8, tid := 8, asid := 1, hoist := 0x500000, answer := some true, since := none })] }
    (s.borrows.get? 6).isSome = true ∧ s.ctxOf 8 = some 128 ∧ s.task? 128 = some t ∧ t.ident.tid = 8 ∧ t.flow.wait = .borrow 6 := by decide
/-- The last unit comes back with a waiter, some are still out, and more comes back than is out. -/
theorem witness_Weight_return : ((mRec 3 9 1 8).returns.get? 7).isSome = true ∧ (mRec 3 9 1 8).recordPa 0 1 0x500000 = some 0x500000 ∧
    (mRec 3 9 1 8).mem.readNat 0x500000 8 - 3 = 0 ∧ (mRec 3 9 1 8).mem.readNat 0x500018 8 ≠ 0 ∧
    (mRec 4 9 1 8).mem.readNat 0x500000 8 - 3 ≠ 0 ∧ (mRec 2 9 1 8).mem.readNat 0x500000 8 < 3 ∧
    ((flowing { Flow.reset with wait := .quiet }).flow.wait = .quiet) ∧ (mRec 3 9 1 8).mapped := by
  exact ⟨by decide, by decide, by decide, by decide, by decide, by decide, by decide, nofun⟩
theorem witness_Weight_kill :
    let s : State := { m0 with kills := [(3, { target := 8, killer := some 9, queue := none }), (4, { target := 77, killer := none, queue := some 1 })] }
    (s.kills.get? 3).isSome = true ∧ s.ctxOf 8 = some 128 ∧ s.unkillable task = false ∧ s.drained 128 task = true ∧ task.views = [] ∧ task.flow.wait = .run ∧
    (s.core 8).results = [] ∧ s.taskOf 77 = none ∧
    ((s.setCore 8 { Core.reset with health := { Health.reset with retired := true } }).core 8).health.retired = true := by decide
theorem witness_Weight_monitor :
    let mon : Monitor :=
      { asid := 1, va := 0x500000, acc := 0, scalar := true, entry := 0x200000, lo := 0x200000, tid := 8, hdr := 0x8000, hoist := 0,
        ident := task.ident, core := 8, upc := some (0x400000, 5), fired := true }
    let s := m0.setCluster 3 { Cluster.reset with monitors := [(0, mon)] }
    (s.cluster 3).monitors.get? 0 = some mon ∧ mon.upc = some (0x400000, 5) ∧ mon.fired = true := by decide

/-- The contiguous request of the engine of cluster 1, of 64 bytes, at a position. -/
def copy0 (pos : Nat) : CopyReq :=
  { request with kind := 0, done := 0, n0 := 64, src := 0x500000, dst := 0x600000, taken := true, pos := pos, bank := none }
def mEng (r : CopyReq) : State :=
  m0.setCluster 1 { Cluster.reset with engine := { Cluster.reset.engine with active := [r] } }
theorem witness_Engine_take :
    let s := m0.setCore 8 { Core.reset with fifo := [copy0 0] }
    s.Inv ∧ (1 : Nat) < 640 ∧ s.nextSource 1 (s.cluster 1).engine = some (0, copy0 0) ∧ (s.cluster 1).engine.frozen = false ∧
    (s.cluster 1).engine.active.length < 4 := ⟨⟨by decide, by decide, by decide⟩, by decide, by decide, by decide, by decide⟩
theorem witness_Engine_line : (mEng (copy0 0)).Inv ∧ ((mEng (copy0 0)).cluster 1).engine.request 77 = some (copy0 0) ∧
    (mEng (copy0 0)).poison = [] ∧ (copy0 0).pf = none ∧ (copy0 0).stuck = none ∧ (copy0 0).pos < (copy0 0).n0 ∧
    (mEng (copy0 0)).locate ((copy0 0).who 1) 4 0x500000 64 false false = .ok (.mem 0x500000 581) ∧
    (∃ p, (mEng (copy0 0)).locate ((copy0 0).who 1) 5 0x600000 64 false true = .ok p) :=
  ⟨⟨by decide, by decide, by decide⟩, by decide, rfl, rfl, rfl, by decide, by rfl, _, rfl⟩
theorem witness_Engine_complete : ((mEng (copy0 64)).cluster 1).engine.request 77 = some (copy0 64) ∧ (copy0 64).taken = true ∧
    (copy0 64).total ≤ (copy0 64).pos := by decide
/-- A source in a scratchpad granule the task does not hold. -/
theorem witness_Engine_fault :
    let q : CopyReq := { copy0 0 with src := 0x00F1000000000000 }
    ((mEng q).cluster 1).engine.request 77 = some q ∧ q.told = false ∧ (mEng q).ctxOf q.tid = some 128 ∧
    (mEng q).task? 128 = some task ∧ task.ident.tid = q.tid ∧
    (match (mEng q).locate (q.who 1) 4 0x00F1000000000000 64 false false with
      | .error (.refuse code _ _ none) => decide (code = XLATE ∨ code = PERM)
      | _ => false) = true := by decide
def stuck0 : Stuck := { slice := 3, monitor := none, retryAt := 0, code := XLATE, acc := 4, addr := 0x500000 }
theorem witness_Engine_retry :
    let q : CopyReq := { copy0 0 with stuck := some stuck0 }
    ((mEng q).cluster 1).engine.request 77 = some q ∧ q.stuck = some stuck0 ∧ stuck0.monitor = none ∧ stuck0.retryAt ≤ (mEng q).stime ∧
    (match (mEng q).engineStep 1 { q with stuck := none } with | .ok _ => true | .error _ => false) = true := by decide
theorem witness_Engine_monitor :
    let mon : EngineMonitor := { asid := 1, va := 0x500000, write := false, entry := 0x200000, lo := 0, waiter := .request 1 77, fired := true }
    let s := (mEng (copy0 0)).setCluster 3 { Cluster.reset with engineMonitors := [(0, mon)] }
    (s.cluster 3).engineMonitors.get? 0 = some mon ∧ mon.fired = true ∧ (s.cluster 1).engine.request 77 = some (copy0 0) := by decide
/-- A chain with work, and one that joins with a line left. -/
def mMerge (c : Chain) : State :=
  { m0.setCluster 1 { Cluster.reset with engine := { Cluster.reset.engine with mergeTurn := true } } with chains := [(40, c)] }
theorem witness_Engine_merge :
    let c : Chain := { chain0 with work := [{ cluster := 1, seg := 41, tid := 8, right := false }] }
    let j : Chain := { chain0 with joining := true, segs := [{ id := 41, owner := 8, complete := true, lines := [(0x500000 / 64, 7)] }] }
    (mMerge c).chains.get? 40 = some c ∧ c.fault = none ∧ ((mMerge c).cluster 1).engine.frozen = false ∧
    ((mMerge c).cluster 1).engine.mergeTurn = true ∧ (mMerge j).joinCluster j = some 1 ∧ j.op ≠ .addBs64 ∧
    (match (mMerge j).locate (engineWho 1 8 1 task.ident.path none none) 5 0x500000 64 false false with
      | .ok _ => true | .error _ => false) = true := by decide

/-- Queue 1 with RD and WR, and the first word of its next entry. -/
def mQueue (rd wr : Nat) (w0 : Nat) (x : Queue) : State :=
  { (mQ [(16, 4, rd), (20, 4, wr)]).setQueue 1 x with
    mem := Mem.writeNat (mQ [(16, 4, rd), (20, 4, wr)]).mem (0x3000 + 64 * rd) 8 w0, stime := 64000 }
theorem witness_QueueFetch_doorbell : (mQueue 0 1 0 Queue.reset).Inv ∧ (mQueue 0 1 0 Queue.reset).control.bootStage = 7 ∧
    (mQueue 0 1 0 Queue.reset).mem.readNat 0x2049 1 % 2 = 1 ∧ (mQueue 0 1 0 Queue.reset).mem.readNat 0x2050 4 = 0 ∧
    (mQueue 0 1 0 Queue.reset).mem.readNat 0x2054 4 = 1 ∧ ((mQueue 0 1 0 Queue.reset).queue 1).slot = none ∧
    (∀ e ∈ (mQueue 0 1 0 Queue.reset).queues, e.2.slot ≠ some 0) ∧ (mQueue 2 2 0 Queue.reset).mem.readNat 0x2050 4 = 2 ∧
    (mQueue 2 2 0 Queue.reset).mem.readNat 0x2054 4 = 2 :=
  ⟨⟨by decide, by decide, by decide⟩, by decide, by decide, by decide, by decide, by decide, by decide, by decide, by decide⟩
def slotted : Queue := { Queue.reset with slot := some 0 }
theorem witness_QueueFetch_idle : ((mQueue 2 2 0 slotted).queue 1).slot ≠ none ∧ ((mQueue 2 2 0 slotted).queue 1).command = none ∧
    ((mQueue 2 2 0 slotted).queue 1).doorbell + 64000 ≤ (mQueue 2 2 0 slotted).stime ∧
    (∀ e ∈ (mQueue 2 2 0 slotted).queues, e.2.waiting = none) := by decide
/-- The next entry is a NOP, and a malformed one. -/
theorem witness_QueueFetch_fetch : ∀ w ∈ [0, 11], (mQueue 0 1 w slotted).Inv ∧ ((mQueue 0 1 w slotted).queue 1).slot ≠ none ∧
    ((mQueue 0 1 w slotted).queue 1).parked = [] ∧ ((mQueue 0 1 w slotted).queue 1).command = none ∧
    cmdOk ((List.range 8).map fun n => BitVec.ofNat 64 ((mQueue 0 1 w slotted).mem.readNat (0x3000 + 8 * n) 8)) = decide (w = 0) := by
  intro w h
  simp only [List.mem_cons, List.not_mem_nil, or_false] at h
  rcases h with rfl | rfl <;> exact ⟨⟨by decide, by decide, by decide⟩, by decide, by decide, by decide, by decide⟩
def nops : List Word := [0, 0, 0, 0, 0, 0, 0, 0]
theorem witness_QueueFetch_nop : ((mQueue 1 1 0 { slotted with command := some nops }).queue 1).command = some nops ∧
    (nops.getD 0 0).toNat % 256 = 0 := by decide
/-- A queue parked on a signal that a slice watches, and perhaps on a launch's counter; entries to fetch or none. -/
def parkedQ (also : List ParkedOn) : Queue := { Queue.reset with parked := .signal 0x500000 .eq 5 :: also }
def mPark (met : Bool) (also : List ParkedOn) (wr : Nat) : State :=
  (mQueue 0 wr 0 (parkedQ also)).setCluster 581
    { Cluster.reset with signals := [(2, { pa := 0x500000, cc := .eq, comparand := 5, met := met })] }
theorem witness_QueueFetch_parked : (mPark true [] 1).Inv ∧ ((mPark true [] 1).queue 1).parked = [.signal 0x500000 .eq 5] ∧
    (∃ e ∈ (mPark true [] 1).clusters, ∃ w, e.2.signals.get? (2 * 1) = some w ∧ w.met = true) ∧
    (∀ e ∈ (mPark false [] 1).clusters, ∀ w, e.2.signals.get? (2 * 1) = some w → w.met = false) ∧
    (mPark true [] 0).mem.readNat 0x2050 4 = (mPark true [] 0).mem.readNat 0x2054 4 ∧
    ((parkedQ [.counter 0x730000 3]).parked.filter fun p => match p with | .signal .. => false | .counter .. => true) ≠ [] ∧
    ((parkedQ []).parked.filter fun p => match p with | .signal .. => false | .counter .. => true) = [] :=
  ⟨⟨by decide, by decide, by decide⟩, by decide, ⟨_, List.mem_singleton_self _, _, rfl, rfl⟩,
    fun e h w hw => by cases List.mem_singleton.mp h; cases hw; rfl, by decide, by decide, by decide⟩
def signalCmd : List Word := [3, 0x500000, 1, 0, 0, 0, 0, 0]
def stuckQ : Queue := { slotted with command := some signalCmd, stuck := some stuck0 }
theorem witness_QueueFetch_retry : ((mQueue 1 1 0 stuckQ).queue 1).command = some signalCmd ∧ (signalCmd.getD 0 0).toNat % 256 = 3 ∧
    ((mQueue 1 1 0 stuckQ).queue 1).stuck = some stuck0 ∧ (mQueue 1 1 0 stuckQ).queueAsid 1 ≠ 0 ∧ stuck0.monitor = none ∧
    (mQueue 1 1 0 stuckQ).mem.readNat 0x2049 1 % 2 = 1 ∧
    (mQueue 1 1 0 stuckQ).locate (frontWho 1) 5 0x500000 8 false false = .ok (.mem 0x500000 581) ∧
    ({ mQueue 1 1 0 stuckQ with mem := Mem.writeNat (mQueue 1 1 0 stuckQ).mem 0x2049 1 0 } : State).mem.readNat 0x2049 1 % 2 ≠ 1 :=
  ⟨by decide, by decide, by decide, by decide, rfl, by decide, by rfl, by decide⟩
theorem witness_QueueFetch_interrupt :
    let x : Queue := { Queue.reset with events := 3, oldest := 63000 }
    ((mQueue 1 1 0 x).queue 1).events ≠ 0 ∧ 63000 + min ((mQueue 1 1 0 x).mem.readNat 0x2062 1 % 128) 64 * 1000 ≤ (mQueue 1 1 0 x).stime := by
  decide

/-- Queue 1 with a command. -/
def mCmd (c : List Word) : State := mQueue 1 1 0 { slotted with command := some c }
def cmdWords (op a b x : Word) : List Word := [op, a, b, x, 0, 0, 0, 0]
def hasCmd (c : List Word) (op : Nat) : Prop :=
  (mCmd c).Inv ∧ ((mCmd c).queue 1).command = some c ∧ (c.getD 0 0).toNat % 256 = op
theorem witness_QueueCommands_wait : hasCmd (cmdWords 2 0x500000 0 0) 2 ∧ ((mCmd (cmdWords 2 0x500000 0 0)).queue 1).stuck = none ∧
    (mCmd (cmdWords 2 0x500000 0 0)).locate (frontWho 1) 4 0x500000 8 false false = .ok (.mem 0x500000 581) ∧
    (mCmd (cmdWords 2 0x500000 0 0)).queueAsid 1 = 1 ∧ Cc.holds .eq (BitVec.ofNat 64 ((mCmd (cmdWords 2 0x500000 0 0)).readAt (.mem 0x500000 581) 0x500000 8)) 0 = true ∧
    Cc.holds .ne (BitVec.ofNat 64 ((mCmd (cmdWords 2 0x500000 1 0)).readAt (.mem 0x500000 581) 0x500000 8)) 0 = false ∧
    (∀ e ∈ (mCmd (cmdWords 2 0x500000 1 0)).queues, e.2.waiting = none) :=
  ⟨⟨⟨by decide +kernel, by decide +kernel, by decide +kernel⟩, by decide +kernel, by decide +kernel⟩, by decide +kernel, by rfl, by decide +kernel, by decide +kernel, by decide +kernel, by decide +kernel⟩
theorem witness_QueueCommands_write : hasCmd signalCmd 3 ∧ hasCmd (cmdWords 10 0x500000 0 0) 10 ∧
    (mCmd signalCmd).locate (frontWho 1) 5 0x500000 8 false false = .ok (.mem 0x500000 581) ∧
    State.readAt { mCmd (cmdWords 10 0x500000 0 0) with mem := Mem.writeNat (mCmd (cmdWords 10 0x500000 0 0)).mem 0x500000 8 1 }
      (.mem 0x500000 581) 0x500000 8 ≠ 0 :=
  ⟨⟨⟨by decide +kernel, by decide +kernel, by decide +kernel⟩, by decide +kernel, by decide +kernel⟩, ⟨⟨by decide +kernel, by decide +kernel, by decide +kernel⟩, by decide +kernel, by decide +kernel⟩, by rfl, by decide +kernel⟩
/-- A MSG to the cluster of 0x500000 under the record at 0x500040, open, at its bound, and closed. -/
def msgCmd : List Word := [4, 0x500000, 0x400000, 1, 2, 3, 4, 0x500040]
def mMsg (minted status : Nat) : State :=
  { mCmd msgCmd with mem := Mem.writeNat (Mem.writeNat (mCmd msgCmd).mem 0x500048 8 minted) 0x500054 4 status }
theorem witness_QueueCommands_msg : hasCmd msgCmd 4 ∧ ((mMsg 0 1).msgCore 0x500000).isSome = true ∧
    (mMsg 0 1).recordPa 0 1 0x500040 = some 0x500040 ∧ (mMsg 0 1).mem.readNat 0x500054 1 % 2 = 1 ∧
    (mMsg (2 ^ 63 - 2 ^ 16) 1).mem.readNat 0x500048 8 + 2 ^ 16 ≤ 2 ^ 63 ∧ 2 ^ 63 < (mMsg (2 ^ 63) 1).mem.readNat 0x500048 8 + 2 ^ 16 ∧
    (mMsg 0 0).mem.readNat 0x500054 1 % 2 ≠ 1 :=
  ⟨⟨⟨by decide +kernel, by decide +kernel, by decide +kernel⟩, by decide +kernel, by decide +kernel⟩, by decide +kernel, by decide +kernel, by decide +kernel, by decide +kernel, by decide +kernel, by decide +kernel⟩
theorem witness_QueueCommands_others : hasCmd (cmdWords 6 0x1000 0x0001000000001000 0) 6 ∧ hasCmd (cmdWords 7 0 8 0) 7 ∧ hasCmd (cmdWords 8 0 8 0) 8 ∧
    hasCmd (cmdWords 8 0 77 0) 8 ∧ hasCmd (cmdWords 9 0 0 0) 9 ∧ (∀ v ∈ m0.invals, v.2.issuer ≠ .command 1) ∧ m0.taskOf 77 = none ∧
    (machine (flowing { Flow.reset with suspended := true })).task? 128 = some (flowing { Flow.reset with suspended := true }) :=
  ⟨⟨⟨by decide +kernel, by decide +kernel, by decide +kernel⟩, by decide +kernel, by decide +kernel⟩, ⟨⟨by decide +kernel, by decide +kernel, by decide +kernel⟩, by decide +kernel, by decide +kernel⟩,
    ⟨⟨by decide +kernel, by decide +kernel, by decide +kernel⟩, by decide +kernel, by decide +kernel⟩, ⟨⟨by decide +kernel, by decide +kernel, by decide +kernel⟩, by decide +kernel, by decide +kernel⟩,
    ⟨⟨by decide +kernel, by decide +kernel, by decide +kernel⟩, by decide +kernel, by decide +kernel⟩, by decide +kernel, by decide +kernel, by decide +kernel⟩
theorem witness_QueueCommands_killOwn :
    let t : Task := { task with ident := { task.ident with queue := 1 } }
    (machine t).taskOf 8 = some t ∧ t.ident.queue = 1 ∧ t.flow.halting = false := by decide +kernel
/-- WSLOAD of one line into no bank, one bank, and of a page no leaf maps. -/
theorem witness_QueueCommands_wsload : hasCmd (cmdWords 5 0x500000 64 0) 5 ∧ hasCmd (cmdWords 5 0x500000 64 1) 5 ∧
    (mCmd (cmdWords 5 0x500000 64 1)).weightUsers = false ∧ (mCmd (cmdWords 5 0x500000 64 1)).wsImage = none ∧
    (match ((mCmd (cmdWords 5 0x500000 64 1)).takeBanks 1 1).imageLines (frontWho 1) 1 false (linesOf 0x500000 64) [] with | .whole _ ls => ls.length | _ => 0) = 1 ∧
    (match ((mCmd (cmdWords 5 0x500000 64 1)).takeBanks 1 1).imageLines (frontWho 1) 1 false (linesOf 0x4000000000 64) [] with | .failed _ code _ => code | _ => 0) = 2 :=
  ⟨⟨⟨by decide +kernel, by decide +kernel, by decide +kernel⟩, by decide +kernel, by decide +kernel⟩, ⟨⟨by decide +kernel, by decide +kernel, by decide +kernel⟩, by decide +kernel, by decide +kernel⟩, by decide +kernel, by decide +kernel,
    by decide +kernel, by decide +kernel⟩

/-- A launch of the named core 9 at 0x700000, with its hoist record at 0x710000 and its core list at 0x720000. -/
def record0 (w0 w1 : Word) : List Word := [w0, w1, 1, 1, 0, 0x710000, 0, 0x720000, 0, 0, 0, 0, 0, 0, 0, 0]
def launchCmd : List Word := cmdWords 1 0x700000 0 0
def mLaunch (w0 w1 : Word) : State :=
  { mCmd launchCmd with
    mem := writes (writes (mCmd launchCmd).mem 0x700000
      [(0, 8, w0.toNat), (8, 8, w1.toNat), (16, 8, 1), (24, 8, 1), (40, 8, 0x710000), (56, 8, 0x720000)]) 0x720000 [(0, 8, 1), (8, 2, 9)] }
theorem witness_Launches_record : hasCmd launchCmd 1 ∧ (mLaunch 0x400000 0x2060).pendingLaunch 1 = false ∧
    (match (mLaunch 0x400000 0x2060).readRecord 1 0x700000 with | .ok r => decide (r = record0 0x400000 0x2060) | .error _ => false) = true ∧
    (mLaunch 0x400000 0x2060).checkRecord 1 (record0 0x400000 0x2060) = .ok ∧ (record0 0x400000 0x2060).getD 10 0 = 0 ∧
    (mLaunch 0x400000 0x2060).queueAsid 1 = 1 ∧ (m0.queueAsid 1 = 0) :=
  ⟨⟨⟨by decide +kernel, by decide +kernel, by decide +kernel⟩, by decide +kernel, by decide +kernel⟩, by decide +kernel, by decide +kernel, by decide +kernel, by decide +kernel, by decide +kernel, by decide +kernel⟩
/-- Malformed records: an unaligned handler, DIV 3, reserved bits; a partition of 304 units, one of 320, one of 8; no core. -/
theorem witness_Launches_refused : (0x400002 : Word).toNat % 4 ≠ 0 ∧ (0x18 : Word).toNat / 2 ^ 3 % 4 = 3 ∧ (0x4000000 : Word).toNat / 2 ^ 26 ≠ 0 ∧
    (0x26000 : Word).toNat / 2 ^ 9 % 2 ^ 9 = 304 ∧ 304 < (0x28000 : Word).toNat / 2 ^ 9 % 2 ^ 9 ∧ (0x1000 : Word).toNat / 2 ^ 9 % 2 ^ 9 % 16 ≠ 0 ∧
    (mCmd launchCmd).checkRecord 1 (record0 0x400000 0x60) = .reject 5 0 := by decide +kernel
def accepting (w1 : Word) : Launch := { launch0 with phase := .accepting, set := [], windows := [], record := record0 0x400000 w1 }
theorem witness_Launches_dep :
    let l : Launch := { accepting 0x2060 with phase := .waitingDep, record := (record0 0x400000 0x2060).set 10 0x730000 }
    ({ mLaunch 0x400000 0x2060 with launches := [(3, l)] } : State).depZero 1 (l.record.getD 10 0) = true ∧ l.queue = 1 ∧
    ((mLaunch 0x400000 0x2060).queue 1).parked = [] ∧
    (∃ e ∈ (m0.setCluster 3 { Cluster.reset with signals := [(7, { pa := 0x730000, cc := .eq, comparand := 0, met := true })] }).clusters,
      ∃ w, e.2.signals.get? (2 * 3 + 1) = some w ∧ w.met = true) ∧
    ({ Queue.reset with parked := [.counter 0x730000 3] } : Queue).parked = [.counter 0x730000 3] :=
  ⟨by decide +kernel, rfl, by decide +kernel, ⟨_, List.mem_singleton_self _, _, rfl, rfl⟩, rfl⟩
theorem witness_Launches_accept :
    let s : State := { mLaunch 0x400000 0x2060 with launches := [(3, accepting 0x2060)] }
    s.Inv ∧ s.launches.get? 3 = some (accepting 0x2060) ∧ s.weightBlocked (accepting 0x2060).record = false ∧
    s.recordBusy 0 1 0x710000 = false ∧
    s.launchSet (frontWho 1) (accepting 0x2060).record = some [9] ∧ s.checkLate (frontWho 1) 1 (accepting 0x2060).record = .ok ∧
    (s.grantAll 3 1 0 1 [9]).isSome = true ∧ ((accepting 0x2060).record.getD 1 0).toNat / 2 ^ 9 % 2 ^ 9 / 16 = 1 ∧
    (match s.copyWindows (frontWho 1) (accepting 0x2060).record with | .ok ws => decide (ws = []) | .error _ => false) = true :=
  ⟨⟨by decide +kernel, by decide +kernel, by decide +kernel⟩, by decide +kernel, by decide +kernel, by decide +kernel, by decide +kernel, by decide +kernel, by decide +kernel, by decide +kernel, by decide +kernel⟩
theorem witness_Launches_apportion : 0 < ([2400, 1450, 0] : List Nat).sum := by decide +kernel
theorem witness_Launches_report :
    let l : Launch := { launch0 with outstanding := [(9, 1)] }
    let s : State := { m0 with launches := [(3, l)] }
    s.launches.get? 3 = some l ∧ l.phase = .running ∧ l.starts = [] ∧ s.startsWaiting 3 9 < l.outstanding.getD 9 0 := by decide +kernel
theorem witness_Launches_complete :
    let l : Launch := { launch0 with record := record0 0x400000 0x2060 }
    let s : State := { mLaunch 0x400000 0x2060 with launches := [(3, l)] }
    s.launches.get? 3 = some l ∧ s.recordPa 0 1 0x710000 = some 0x710000 ∧ s.mem.readNat 0x710014 1 % 2 = 0 ∧ l.record.getD 11 0 = 0 ∧
    l.record.getD 12 0 = 0 ∧ l.armed = true := by decide +kernel
theorem witness_Launches_reclaim :
    let s : State := { (m0.setCore 9 { Core.reset with granules := setAt Core.reset.granules 0 (.retained 5 1 1 0) }) with
      launches := [(3, accepting 0x2060)], stime := 1000000 }
    (3, accepting 0x2060) ∈ s.launches ∧ (accepting 0x2060).phase = .accepting ∧ (accepting 0x2060).waitingSince + 1000000 ≤ s.stime := by decide +kernel
/-- An abort, its second attempt, and a notice to a member of the gang. -/
def aborting : Launch := { launch0 with phase := .aborting, attempt := 1, record := record0 0x400000 0x2060 }
theorem witness_Launches_abort :
    let s : State := { mLaunch 0x400000 0x2060 with launches := [(3, aborting)] }
    s.launches.get? 3 = some aborting ∧ aborting.phase = .aborting ∧ aborting.attempt = 1 ∧ s.launchTasks 3 = [] ∧ s.messages = [] ∧ s.borrows = [] ∧
    s.recordPa 0 1 0x710000 = some 0x710000 ∧ s.mem.readNat 0x710000 8 = 0 ∧ (7 : Word) ≠ 0 := by decide +kernel

/-- Slot 8,191 of the doorbell table: unbound, and bound to the barrier at 0x500000 of address space 1. -/
def mDoor (d : Word) : State := { m0 with control := { m0.control with doorTable := [(8191, (d, 0x500000))] } }
theorem witness_HostAccesses_doorbell : (mDoor 0).Inv ∧ (mDoor 0).control.bootStage = 7 ∧ (8191 : Nat) < 8192 ∧
    (mDoor 0).control.doorTable.getD 8191 (0, 0) = (0, 0x500000) ∧ (0 : Word).toNat % 65536 = 0 ∧ (mDoor 1).Inv ∧
    (mDoor 1).control.doorTable.getD 8191 (0, 0) = (1, 0x500000) ∧ inWindow 0x500000 = false ∧
    (mDoor 1).locate (outsideWho 1 6004) 5 0x500000 64 false false = .ok (.mem 0x500000 581) ∧
    (mDoor 1).locate (outsideWho 1 6004) 4 0x500000 64 false false = .ok (.mem 0x500000 581) ∧
    (mDoor 1).locate (outsideWho 1 6005) 5 0x500000 64 false false = .ok (.mem 0x500000 581) :=
  ⟨⟨by decide, by decide, by decide⟩, rfl, by decide, by decide, by decide, ⟨by decide, by decide, by decide⟩, by decide, by decide, by rfl, by rfl,
    by rfl⟩
/-- The memory window at base 0 of address space 1, open and closed; the last line of the window's first GiB, and a
page no leaf maps. -/
def mWin (x : Word) : State := { m0 with control := { m0.control with mwin := x } }
theorem witness_HostAccesses_window : (mWin 0x8000000000000001).control.mwin.getLsbD 63 = true ∧ (mWin 1).control.mwin.getLsbD 63 = false ∧
    0x3FFFFFC0 / 64 = (0x3FFFFFC0 + 64 - 1) / 64 ∧ (0x8000000000000001 : Word).toNat / 2 ^ 36 % 2 ^ 20 * 2 ^ 36 + 0x3FFFFFC0 % 2 ^ 36 = 0x3FFFFFC0 ∧
    (∃ p, (mWin 0x8000000000000001).locate (outsideWho 1 6004) 5 0x3FFFFFC0 64 false true = .ok p) ∧
    (∃ p, (mWin 0x8000000000000001).locate (outsideWho 1 6004) 4 0x3FFFFFC0 64 false false = .ok p) ∧
    (match (mWin 0x8000000000000001).locate (outsideWho 1 6004) 4 0x40000000 8 false false with
      | .error (.refuse code _ _ _) => decide (code ≠ POISON) | _ => false) = true :=
  ⟨by decide, by decide, by decide, by decide, ⟨_, rfl⟩, ⟨_, rfl⟩, by decide⟩
theorem witness_HostAccesses_peer : (1023 : Nat) < 1024 ∧ m0.peerStop 1023 0x500000 64 true false = none ∧
    m0.peerStop 1023 0x500000 4 true false = none ∧ m0.peerStop 0 0x500000 64 true true = none ∧ m0.peerStop 0 0x500000 8 false false = none ∧
    AmoOp.add ≠ .trig ∧
    (match ({ m0 with poison := [0x500000 / 64] } : State).peerStop 0 0x500000 8 false false with
      | some (.refuse code ..) => decide (code = POISON) | _ => false) = true := by decide
/-- Transfers of 1 byte and of 2^30, to the last device; of no byte, and of another kind. -/
def transferMsg (kind device len : Word) : Msg := { msg0 (.transfer 1) with hdr := kind, args := #v[0x500000, device, 0, len] }
theorem witness_HostAccesses_transfer : ({ m0 with fabric := [(5, transferMsg 1 524287 1)] } : State).fabric.get? 5 = some (transferMsg 1 524287 1) ∧
    (transferMsg 1 524287 1).dst = .transfer 1 ∧ (transferMsg 2 524287 (2 ^ 30)).args[1].toNat ≤ 524287 ∧
    (transferMsg 2 0 (2 ^ 30)).args[3].toNat ≤ 2 ^ 30 ∧ ¬ 1 ≤ (transferMsg 1 0 0).args[3].toNat ∧ ¬ (transferMsg 1 524288 1).args[1].toNat ≤ 524287 ∧
    ¬ ((transferMsg 3 0 1).hdr.toNat % 256 = 1 ∨ (transferMsg 3 0 1).hdr.toNat % 256 = 2) := by decide
theorem witness_HostAccesses_complete :
    let x : Transfer := { port := 1, write := false, localVa := 0x500000, device := 0, remoteVa := 0, len := 64, msg := transferMsg 2 0 64 }
    let s : State := { m0 with transfers := [(7, x)] }
    s.Inv ∧ s.transfers.get? 7 = some x ∧ x.msg.weight ≠ 0 ∧ (List.replicate 64 (0 : Byte)).length = 64 ∧
    s.locate (outsideWho 1 (2 ^ 20 + 0)) 5 0x500000 64 false false = .ok (.mem 0x500000 581) ∧
    s.locate (outsideWho 1 (2 ^ 20 + 0)) 5 0x500000 64 false true = .ok (.mem 0x500000 581) :=
  ⟨⟨by decide, by decide, by decide⟩, by decide, by decide, by decide, by rfl, by rfl⟩
theorem witness_HostAccesses_incoming :
    let s : State := { m0 with control := { m0.control with xasid := 0x8000000000000001 } }
    s.control.xasid.getLsbD 63 = true ∧ s.control.xasid.toNat % 65536 = 1 ∧ (s.readDesc 1).valid = true ∧
    s.locate (outsideWho 1 (2 ^ 20 + 524287)) 5 0x500000 64 false false = .ok (.mem 0x500000 581) :=
  ⟨by decide, by decide, by decide, by rfl⟩

/-- A semaphore that a port holds, and one that is free. -/
theorem witness_HostRegisters :
    let s : State := { m0 with control := { m0.control with semaphores := [(63, 2)] } }
    (63 : Nat) < 64 ∧ s.control.semaphores.getD 63 0 = 2 ∧ s.control.semaphores.getD 0 0 = 0 ∧ (2 : Word).toNat = 2 ∧ (1 : Word).toNat ≠ 2 ∧
    (5119 : Nat) < 5120 ∧ (mColumn task).inColumn 0 = true ∧ ((mColumn task).cluster 0).fwall.getLsbD 8 = false ∧ State.reset.control.bootStage ≠ 7 ∧
    s.control.bootStage = 7 ∧ (1000000 : Int) ≤ 1000000 ∧ (999999 : Int) < 1000000 := by decide
theorem witness_HostRegisters_timeout :
    let z : Stall := { link := .ualink 4, addr := 0x500000, acc := 0, op := none, vdone := none, since := 0 }
    let t := flowing { Flow.reset with wait := .link z }
    let s : State := { machine t with stime := 2000000 }
    s.task? (16 * 8 + 0) = some t ∧ t.flow.wait = .link z ∧ z.link = .ualink 4 ∧ z.op = none ∧ z.since + 2000000 ≤ s.stime ∧
    t.flow.inflight = [] := by decide

/-- A core's health: as at reset, measured, retiring. -/
def curve0 : Curve := { fmax := [1500, 1600, 1700, 1800, 1900, 2000, 2100, 2400], leak := List.replicate 8 900, tslope := -3, passed := true }
def mHealth (h : Machine.Health) (stime : Nat) : State := { m0.setCore 9 { Core.reset with health := h } with stime := stime }
theorem witness_Health_publication :
    let h : Machine.Health := { Health.reset with pending := some (curve0, 5) }
    let g : Machine.Health := { Health.reset with retiring := true }
    ((mHealth h 1000000).core 9).health = h ∧ (mHealth h 1000000).cursor < (mHealth h 1000000).stime / 10 ^ 6 ∧ h.retired = false ∧
    h.retiring = false ∧ h.pending = some (curve0, 5) ∧ ((mHealth g 1000000).core 9).health = g ∧ g.retiring = true ∧
    (mHealth g 999999).stime / 10 ^ 6 ≤ (mHealth g 999999).cursor := by decide
theorem witness_Health_measure :
    let h : Machine.Health := { Health.reset with measuring := true }
    (mHealth { Health.reset with retest := true } 0).mayMeasure 9 = true ∧ h.measuring = true ∧ curve0.fmax.length = 8 ∧
    curve0.leak.length = 8 ∧ curve0.passed = true ∧ (∀ i < 7, curve0.fmax.getD i 0 ≤ curve0.fmax.getD (i + 1) 0) ∧
    1450 ≤ min 2400 (curve0.fmax.getD 7 0 * 98 / 100) := by decide
/-- An unsound curve: it falls, or is too slow. -/
theorem witness_Health_unsound : ¬ ([1500, 1400, 1700, 1800, 1900, 2000, 2100, 2400].getD 0 0 ≤ [1500, 1400, 1700, 1800, 1900, 2000, 2100, 2400].getD 1 0) ∧
    ¬ 1450 ≤ min 2400 (1479 * 98 / 100) ∧ 1450 ≤ min 2400 (1480 * 98 / 100) := by decide
theorem witness_Health_point :
    let h : Machine.Health := { Health.reset with curve := { CurveRecord.reset with fmax := curve0.fmax, su := 2352 }, tnow := 105 }
    ((mHealth h 10000).core 9).health = h ∧ (mHealth h 10000).control.opAt + 10000 ≤ (mHealth h 10000).stime ∧ h.retired = false ∧
    h.curve.fmax ≠ [] ∧ 105 ≤ h.tnow ∧ ¬ (h.tnow < 100) := by decide
theorem witness_Health_errors : (5119 : Nat) < 5120 ∧ (511 : Nat) < 512 ∧ mL.task? (16 * 8 + 0) = some taskL ∧ taskL.ident.launch = some 3 ∧
    mL.launches.get? 3 = some launch0 ∧ launch0.phase = .running ∧ Health.reset.retired = false := by decide

/-- A core that logs, with one record, at the cycle of an overflow. -/
def logging : Core :=
  { Core.reset with logCtl := 0x80001, cycle := 2 ^ 26 - 1 + 256, log := { LogLine.reset with lastCycle := 256, started := true, records := [7] } }
theorem witness_Trace_log : (m0.setCore 8 logging).control.bootStage = 7 ∧ coreCluster 8 = 1 ∧ ((m0.setCore 8 logging).core 8).logging = true ∧
    logging.log.lastCycle + (2 ^ 26 - 1) ≤ logging.cycle ∧ 1 ≤ logging.log.records.length ∧ logging.log.records.length < 13 ∧
    (m0.setCore 8 logging).stime % 1000000 = 0 ∧ logging.log.records ≠ [] := by decide
theorem witness_Trace_sample :
    let s := m0.setCore 8 { logging with cycle := 512 }
    (s.core 8).samples = true ∧ s.blocking 8 = some (128, task) := ⟨by decide, rfl⟩
/-- A cluster that is free, one that is halted, one that is locked, and one with a relayed DIP. -/
theorem witness_Debug_halt : (m0.cluster 1).dbg.cause = 0 ∧ (m0.cluster 1).fwall.getLsbD 8 = false ∧
    ((m0.setCluster 1 { Cluster.reset with fwall := 0x101 }).cluster 1).fwall.getLsbD 8 = true ∧
    (mBrk 0).control.bootStage = 7 ∧
    ((m0.setCluster 1 { Cluster.reset with dbg := { Cluster.reset.dbg with cause := 4 } }).cluster 1).dbg.cause ≠ 0 ∧
    1 ∈ ({ m0 with relays := [1] } : State).relays := by decide
theorem witness_Debug_breakpoint :
    let s := m0.setCluster 1 { Cluster.reset with dbg := { Cluster.reset.dbg with bp := Cluster.reset.dbg.bp.set 15 (0x8000000000400000, 0x00000000000100FF) } }
    s.task? (16 * 8 + 0) = some task ∧ task.held (s.core 8) = false ∧ (s.cluster 1).dbg.cause = 0 ∧ coreCluster 8 = 1 := by decide
theorem witness_Debug_watchpoint :
    let h : Hit := { index := 0, addr := 0x500000, who := 8, acc := 0, cluster := some 1 }
    let s : State := { m0 with hits := [h] }
    s.hits = [h] ∧ h.cluster = some 1 ∧ (s.cluster 1).dbg.cause = 0 ∧ (s.cluster 1).dbg.whit = none := by decide
/-- Register 63 of context 0 of core 0, whose core has stopped, and has not. -/
theorem witness_Debug_data :
    let s := (m0.setCluster 1 { Cluster.reset with dbg := { Cluster.reset.dbg with sel := 0x3F0000 } })
    let h := s.setCore 8 { Core.reset with halted := true }
    (h.core 8).halted = true ∧ h.coreDrained 8 = true ∧ (h.cluster 1).dbg.sel.toNat / 2 ^ 8 % 2 ^ 8 = 0 ∧
    (h.cluster 1).dbg.sel.toNat / 2 ^ 16 % 2 ^ 32 = 63 ∧ h.task? (16 * (8 * 1 + 0) + 0) = some task ∧ (s.core 8).halted = false := by decide

theorem witness_Boot_unsigned : State.reset.base.table.length ≠ 33888 := by decide
/-- Whatever table of the right length the root key has signed: an old one is refused, and with another image than its
FWD names stage 3 fails. No value of the signature check can be computed here (log 11). -/
theorem witness_Boot_signed (t : List Byte) (h : t.length = 33888)
    (hs : Config.slhVerify Config.rootKey (t.take 4096) ((t.drop 4096).take 29792) = true) :
    ∃ s : State, s.base.table = t ∧ (s.base.table.length = 33888 ∧
      Config.slhVerify Config.rootKey (s.base.table.take 4096) ((s.base.table.drop 4096).take 29792) = true) ∧
      leNat ((s.base.table.drop 4).take 4) < s.base.minVersion :=
  ⟨{ State.reset with base := { State.reset.base with table := t, minVersion := leNat ((t.drop 4).take 4) + 1 } }, rfl, ⟨h, hs⟩,
    Nat.lt_succ_self _⟩
theorem witness_Boot_retry : State.reset.control.bootErr = 0 ∧
    ({ State.reset with control := { State.reset.control with bootStage := 2, bootErr := 1 } } : State).control.bootErr ≠ 0 := by decide
/-- A container of one segment at 0x800000: its load ends with code 2 or code 3 or without one, whatever the digests are. -/
def mBox : State :=
  { m0 with mem := writes m0.mem 0x800000 [(0, 4, 0x50584301), (4, 4, 1), (128, 8, 0x500000), (136, 8, 16), (144, 8, 4096)] }
theorem witness_Containers : mBox.control.bootStage = 7 ∧ (1 : Nat) < 65536 ∧ mBox.control.loadStat ≠ 0xFF ∧
    m0.mem.readNat 0x800000 4 ≠ 0x50584301 ∧ (mBox.segments 0x800000).isSome = true ∧
    ((mBox.segments 0x800000).getD []).all (fun g => !g.x) = true ∧
    ({ m0 with control := { m0.control with loadStat := 0xFF } } : State).control.loadStat = 0xFF := by decide
/-- The container's lines, free, one of the header and one of the segment that a copy owns; the lines of its segment are mapped and free. -/
theorem witness_Containers_waits :
    let own := mBox.setCluster 1 { Cluster.reset with engine := { Cluster.reset.engine with active := [{ copy0 0 with own := [0x800080 / 64] }] } }
    let tail := mBox.setCluster 1 { Cluster.reset with engine := { Cluster.reset.engine with active := [{ copy0 0 with own := [0x801000 / 64] }] } }
    mBox.localPa (0x800000 % 2 ^ 64) = 0x800000 ∧ mBox.headerWaits 0x800000 = false ∧ own.headerWaits 0x800000 = true ∧
    mBox.loadWaits 1 0x800000 ((mBox.segments 0x800000).getD []) = false ∧
    tail.headerWaits 0x800000 = false ∧ tail.loadWaits 1 0x800000 ((tail.segments 0x800000).getD []) = true := by decide +kernel
theorem witness_Containers_result (gs : List Segm) (s : State) (asid pa base : Nat) (key : List Byte) :
    (∃ e, (s.loadSegments asid pa base key ((List.range gs.length).zip gs)).2 = some e) ∨
    (s.loadSegments asid pa base key ((List.range gs.length).zip gs)).2 = none := by
  cases (s.loadSegments asid pa base key ((List.range gs.length).zip gs)).2 with
  | none => exact .inr rfl
  | some e => exact .inl ⟨e, rfl⟩

theorem witness_DecodeEncode : (Instr.add 4 1 2 0).wf = true ∧ encode (.add 4 1 2 0) ≠ [] ∧
    (match decode 0x00304200 (some 0) with | .ok _ => true | _ => false) = true ∧
    (match decode 0xFD018684 (some 0x70110000) with | .ok _ => true | _ => false) = true := by decide
/-- A turn that issues a short word, a long one, a word that names none, and a turn for an event. -/
def mTurn (u : Turn) (w : Nat) : State := { m0 with mem := Mem.writeNat m0.mem 0x400000 8 w, sched := [u] }
/-- The machine of a turn as the statement names it: with no turn left, and once the core has taken its context. -/
abbrev turnLeft (s : State) : State × Nat := ({ s with sched := [] }.fetchLate 8 []).agingGrant 8
abbrev turnPicked (s : State) : State := (turnLeft s).1.picked 8 (128, task)
theorem witness_StepRunsDecoded :
    let s := mTurn (.issue 8 []) 0x08108003
    s.sched = .issue 8 [] :: [] ∧ (s.core 8).health.retired = false ∧ ((turnLeft s).1.core 8).mayIssue = true ∧
    (turnLeft s).1.chosenCtx 8 [] = some (16 * 8 + 0, task) ∧ (turnLeft s).1.bpMatch 8 task = none ∧ task.rank.yieldUntil = 0 ∧
    (∃ p, (turnPicked s).locate (taskWho 128 task) 3 0x400000 4 false false = .ok p ∧ (turnPicked s).readAt p 0x400000 4 = 0x08108003) ∧
    (match decode 0x08108003 none with | .ok _ => true | _ => false) = true ∧ (match decode 0xF0000000 none with | .ok _ => true | _ => false) = false ∧
    (∃ p, (turnPicked s).locate (taskWho 128 task) 3 0x400004 4 false false = .ok p) ∧ isEvent (.agingCycle 8) = true :=
  ⟨rfl, rfl, by decide, by decide +kernel, by decide, rfl, ⟨_, rfl, by decide⟩, by decide, by decide, ⟨_, rfl⟩, by decide⟩
theorem witness_StepRunsDecoded_long :
    let s := turnPicked (mTurn (.issue 8 []) (0xFD018684 + 0x70110000 * 2 ^ 32))
    (∃ p, s.locate (taskWho 128 task) 3 0x400000 4 false false = .ok p ∧ s.readAt p 0x400000 4 = 0xFD018684) ∧
    (∃ p, s.locate (taskWho 128 task) 3 0x400004 4 false false = .ok p ∧ s.readAt p 0x400004 4 = 0x70110000) ∧
    0xFD018684 / 2 ^ 26 = 0x3F := ⟨⟨_, rfl, by decide⟩, ⟨_, rfl, by decide⟩, by decide⟩
/-- A turn for a breakpoint: the core issues from context 0 next, and not from context 1, which holds no task. -/
theorem witness_StepRunsDecoded_breakpoint :
    (mTurn (.event (.breakpointMatch 8 0)) 0x08108003).sched = .event (.breakpointMatch 8 0) :: [] ∧ isEvent (.breakpointMatch 8 0) = true ∧
    State.issuesNext { mTurn (.event (.breakpointMatch 8 0)) 0x08108003 with sched := [] } 8 0 = true ∧
    State.issuesNext { mTurn (.event (.breakpointMatch 8 1)) 0x08108003 with sched := [] } 8 1 = false :=
  ⟨rfl, by decide, by decide +kernel, by decide +kernel⟩
theorem witness_InvariantKept : (State.reset.withFetchWord 32 0xE8000000).Inv ∧ ∃ s', step (State.reset.withFetchWord 32 0xE8000000) = .next s' :=
  ⟨⟨by decide, by decide, by decide⟩, _, rfl⟩

/-! ### The further clauses -/

theorem witness_Windows_settled : ((machine flying).core 8).settled 0 ∧ flying.held ((machine flying).core 8) = false :=
  ⟨settled_nil rfl, by decide⟩
theorem witness_VectorCompares_floats : Armed m0 task 0 ∧ Ty.bf16 ∈ [Ty.f16, .bf16, .f32, .f64] ∧ (floatFormat .bf16).isSome = true ∧
    Cc.gt ∈ [Cc.eq, .ne, .lt, .ge, .le, .gt] := ⟨armed, by decide, by decide, by decide⟩
theorem witness_ModeFaults_more : Armed (machine taskW) taskW 0 ∧ (7 : VReg).val < taskW.window ∧ ¬ (8 : VReg).val < taskW.window ∧
    taskW.tileIn (accOf .bf16 taskW).bits 8 = false ∧ taskW.tileIn (accOf .m8 taskW).bits 3 = true ∧
    3 ∈ (List.range 4).map (fun i => (0 : VReg).val + i) ∧ 3 ∈ tileRegs (accOf .m8 taskW).bits 3 :=
  ⟨armedW, by decide, by decide, by decide, by decide, by decide, by decide⟩

/-! Operands whose row i0 and column j0 alone are not zero. -/

/-- Elements of w bits in 16 runs of per each, v in run i0 and o elsewhere. -/
def loneRow (w per v o i0 : Nat) : VWord :=
  BitVec.ofNat 8192 (packNat w ((List.range (16 * per)).map fun n => if n / per = i0 then v else o))
/-- Register n of four that hold 16 rows of 64 codes, code v in row i0, every shift sh. -/
def loneCodes (n i0 v sh : Nat) : VWord :=
  BitVec.ofNat 8192 (packNat 8 ((List.range 256).map fun k => if 4 * n + k / 64 = i0 then v else 0) +
    2 ^ (8 * 768) * packNat 4 (List.replicate 64 sh))
/-- A running machine with a window of four registers and a bank. -/
def taskP (f : Ctl → Ctl) : Task := { task with window := 4, ctl := f task.ctl }
def mP (t : Task) (b : Bank) : State := (machine t).setBank 8 0 b
theorem armedP (f : Ctl → Ctl) (b : Bank) : Armed (mP (taskP f) b) (taskP f) 0 :=
  ⟨⟨rfl, by rfl, rfl, settled_nil rfl, rfl, rfl, rfl⟩, rfl, Nat.le_refl 0, .inl rfl⟩
def bankPlain : Bank := (Bank.reset.setV 4 (loneRow 16 32 0x3C00 0 3)).setV 5 (loneRow 16 32 0x3C00 0 15)
theorem witness_MatrixProducts_values_mma : Armed (mP (taskP id) bankPlain) (taskP id) 0 ∧ (0 : VReg).val < (taskP id).window ∧
    (taskP id).ctl.mfmt = 0 ∧ ((mP (taskP id) bankPlain).bankHere 0).getV 0 = 0 ∧
    (∀ i < 16, ∀ k < 32, elemGet (((mP (taskP id) bankPlain).bankHere 0).getV 4) 16 (32 * i + k) = if i = 3 then 0x3C00 else 0) ∧
    (∀ i < 16, ∀ k < 32, elemGet (((mP (taskP id) bankPlain).bankHere 0).getV 5) 16 (32 * i + k) = if i = 15 then 0x3C00 else 0) ∧
    (0 : VReg).val ∉ [(4 : VReg).val, (5 : VReg).val] :=
  ⟨armedP .., by decide, rfl, by decide +kernel, by decide +kernel, by decide +kernel, by decide⟩
def bankScaled : Bank := (List.range 4).foldl (fun (b : Bank) n =>
  (b.setV (Fin.ofNat 32 (4 + n)) (loneCodes n 6 0x38 1)).setV (Fin.ofNat 32 (8 + n)) (loneCodes n 9 0x38 0)) Bank.reset
def scaledCtl (c : Ctl) : Ctl := { c with mscaleA := 0x40000000, mscaleB := 0x3F800000 }
theorem witness_MatrixProducts_values_mmas :
    let bk := (mP (taskP scaledCtl) bankScaled).bankHere 0
    let rows := fun (r v shift i0 : Nat) => ∀ i < 16,
      (∀ k < 64, elemGet (bk.getV (Fin.ofNat 32 (r + i / 4))) 8 (64 * (i % 4) + k) = if i = i0 then v else 0) ∧
      ∀ n < 16, elemGet (bk.getV (Fin.ofNat 32 (r + i / 4))) 4 (1536 + 16 * (i % 4) + n) = shift
    Armed (mP (taskP scaledCtl) bankScaled) (taskP scaledCtl) 0 ∧ bk.getV 0 = 0 ∧ rows 4 0x38 1 6 ∧ rows 8 0x38 0 9 ∧
    (taskP scaledCtl).ctl.mscaleA = 0x40000000 ∧ (taskP scaledCtl).ctl.mscaleB = 0x3F800000 :=
  ⟨armedP .., by decide +kernel, by decide +kernel, by decide +kernel, rfl, rfl⟩
def bankQuant : Bank :=
  ((Bank.reset.setV 4 (loneRow 8 64 1 0 0)).setV 5 (loneRow 8 64 3 1 7)).setV 6
    (BitVec.ofNat 8192 (packNat 16 (List.replicate 32 0x4000) + 2 ^ (8 * 512) * packNat 8 (List.replicate 32 1)))
def quantCtl (c : Ctl) : Ctl := { c with mzp := 6 }
theorem witness_MatrixProducts_values_mmaq :
    let bk := (mP (taskP quantCtl) bankQuant).bankHere 0
    Armed (mP (taskP quantCtl) bankQuant) (taskP quantCtl) 0 ∧ bk.getV 0 = 0 ∧
    (∀ i < 16, ∀ k < 64, elemGet (bk.getV 4) 8 (64 * i + k) = if i = 0 then 1 else 0) ∧
    (∀ i < 16, ∀ k < 64, elemGet (bk.getV 5) 8 (64 * i + k) = if i = 7 then 3 else 1) ∧
    (∀ n < 32, elemGet (bk.getV (Fin.ofNat 32 (taskP quantCtl).ctl.mzp.toNat)) 16 n = 0x4000 ∧
      elemGet (bk.getV (Fin.ofNat 32 (taskP quantCtl).ctl.mzp.toNat)) 8 (512 + n) = 1) :=
  ⟨armedP .., by decide +kernel, by decide +kernel, by decide +kernel, by decide +kernel⟩
/-- Row 5 of the list names row 3 of the four registers. -/
def bankGather : Bank :=
  ((Bank.reset.setV 4 (loneRow 16 32 0x3C00 0 3)).setV 8 (loneRow 16 32 0x3C00 0 7)).setV 9
    (BitVec.ofNat 8192 (packNat 32 ((List.range 16).map fun i => if i = 5 then 3 else 64)))
theorem witness_MatrixProducts_values_mmag :
    let bk := (mP (taskP id) bankGather).bankHere 0
    Armed (mP (taskP id) bankGather) (taskP id) 0 ∧ bk.getV 0 = 0 ∧
    (∀ i < 16, elemGet (bk.getV 9) 32 i = if i = 5 then 3 else 64) ∧
    (∀ k < 32, elemGet (bk.getV (Fin.ofNat 32 (4 + 3 / 16))) 16 (32 * (3 % 16) + k) = 0x3C00) ∧
    (∀ i < 16, ∀ k < 32, elemGet (bk.getV 8) 16 (32 * i + k) = if i = 7 then 0x3C00 else 0) :=
  ⟨armedP .., by decide +kernel, by decide +kernel, by decide +kernel, by decide +kernel⟩
/-- With no window every element lands; with one every address of both forms passes its checks. -/
theorem witness_TileLoads_completes : Armed mS taskS 0 ∧ mS.quiet ∧ Fmt.f32.tile = true ∧ taskS.tileIn (fmtTile .f32) 7 = true ∧
    (0 : Fin 16) = 0 ∧ (15 : Fin 16) ≠ 0 ∧
    (∀ r < 16, ∀ j < 16,
      let a := taskS.getS 1 + BitVec.ofNat 64 (r * (2 * fmtBits .f32)) + BitVec.ofNat 64 (j * fmtAlign .f32)
      Lands mS taskS 0 (fmtAlign .f32) a (spadAt (64 * r + 4 * j)) ∧ a.toNat % fmtAlign .f32 = 0 ∧ a.toNat < 2 ^ 56) ∧
    ∀ r < 16, ∀ j < 16,
      let a := taskS.getS 1 + BitVec.ofNat 64 r * taskS.getS 2 + BitVec.ofNat 64 (j * fmtAlign .f32)
      Lands mS taskS 0 (fmtAlign .f32) a (spadAt (64 * r + 4 * j)) ∧ a.toNat % fmtAlign .f32 = 0 ∧ a.toNat < 2 ^ 56 :=
  ⟨armedS, quietS, by decide, by decide, rfl, by decide,
    fun r hr j hj => have h := lands_of (by revert r j; decide +kernel); ⟨h, h.aligned, h.range⟩,
    fun r hr j hj => have h := lands_of (by revert r j; decide +kernel); ⟨h, h.aligned, h.range⟩⟩
theorem sound_m0 : m0.sound := ⟨rfl, fun _ => rfl, fun _ => rfl, rfl, nofun⟩
/-- Descriptors and rings in a retired channel: writes there are dropped. -/
def mRetired : State :=
  m0.setChannel (channelOf 0x40) { Channel.reset with retired := true }
/-- A queue whose descriptor and whose ring are both in retired channels. -/
theorem witness_Upcalls_more : m0.sound ∧ m0.localPa (m0.cfg.qtab + 64) = 0x40 ∧
    (let s := (mRetired.setChannel (channelOf 0) { Channel.reset with retired := true })
     s.mem.readNat (0x40 + 48) 8 = 0 ∧ s.dropsWrite (0 + 64 * (s.mem.readNat (0x40 + 40) 4 % 2 ^ 0)) true = true ∧
       s.dropsWrite (0x40 + 40) false = true) := ⟨sound_m0, by decide, by decide⟩
theorem witness_DeviceWrites_dropped : 0x200008 / 64 ∈ ({ m0 with poison := [0x200008 / 64] } : State).poison ∧ 0x200008 / 64 ∉ m0.poison ∧
    isLocal 0x44 = true ∧ (mRetired.channel (channelOf 0x44)).retired = true ∧ (m0.channel (channelOf 0x44)).retired = false ∧ m0.sound :=
  ⟨by decide, by decide, by decide, by decide, by decide, sound_m0⟩
/-- A line that a copy owns, one that a write of the device already waits for, one of an image; a whole line; a watched signal. -/
theorem witness_DeviceWrites_held :
    let own := m0.setCluster 1 { Cluster.reset with engine := { Cluster.reset.engine with active := [{ copy0 0 with own := [0x2010 / 64] }] } }
    let late : State := { m0 with owed := [.bytes 0x2000 [7]] }
    own.owned (outsideWho 0 6001) (0x2010 / 64) = true ∧ own.heldBack 0x2010 = true ∧ own.heldBack 0x2040 = false ∧
    (∃ p bs, Owed.bytes p bs ∈ late.owed ∧ p / 64 = 0x2010 / 64) ∧ m0.poisonedAt 0x2010 = false ∧
    (∃ im, ({ m0 with wsImage := some { asid := 1, banks := 1, lines := [(0x2010 / 64, 0x500000 / 64)] } } : State).wsImage = some im ∧
      (im.lines.get? (0x2010 / 64)).isSome = true) ∧ m0.wsImage = none ∧ (0x2000 % 64 = 0 ∧ (64 : Nat) = 64) ∧
    (((m0.setCluster 3 { Cluster.reset with signals := [(2, { pa := 0x2010, cc := .eq, comparand := 5, met := false })] }).cluster 3).signals.get? 2).isSome = true :=
  ⟨by decide, by decide, by decide, ⟨_, _, List.mem_singleton_self _, by decide⟩, by decide, ⟨_, rfl, by decide⟩, rfl, ⟨by decide, rfl⟩, by decide⟩
/-- A queue's ring or descriptor that a copy owns holds its message back, as does the table of a region its handover. -/
theorem witness_Messages_held :
    let own := (mQ []).setCluster 1 { Cluster.reset with engine := { Cluster.reset.engine with active := [{ copy0 0 with own := [0x4000 / 64] }] } }
    own.heldBack 0x4000 = true ∧ own.heldBack 0x2040 = false ∧ own.poisonedAt 0x2040 = false ∧ own.mem.readNat 0x2049 1 % 2 = 1 ∧
    (let entry := m0.localPa (m0.readPa (m0.localPa (m0.cfg.astab + 32 * 1) + 8) 8 + 32 * 3)
     m0.heldBack entry = false ∧
     (m0.setCluster 1 { Cluster.reset with engine := { Cluster.reset.engine with active := [{ copy0 0 with own := [entry / 64] }] } }).heldBack entry = true) := by
  decide
theorem witness_Sends_handler : m0.inMergeHandler task = false ∧ m0.unkillable task = false := by decide
/-- A combination the task owes, and a fault that has suspended its halt. -/
def mOwed (fault : Option Trap) : State :=
  { m0 with chains := [(40, { chain0 with work := [{ cluster := 1, seg := 41, tid := 8, right := false }], fault := fault, told := true })] }
theorem witness_TaskEnds_owed : Running (mOwed none) task ∧ (mOwed none).mergeFault 8 = none ∧ (mOwed none).inMergeHandler task = false ∧
    (mOwed none).worksDone 8 = false := ⟨⟨rfl, by decide, rfl, settled_nil rfl, rfl, rfl, rfl⟩, by decide, by decide, by decide⟩
theorem witness_TaskEnds_unkillable :
    (mChild (task1 0x10009) none true).unkillable (child none true) = true ∧
    (mChild (task1 0x10009) none false).unkillable (child none false) = false := by decide
theorem witness_Hoists_quiet :
    let t : Task := { hoisted 0 with purse := { (hoisted 0).purse with quiet := true } }
    let s : State := { machine t with mem := Mem.writeNat m0.mem 0x500014 4 2 }
    Running s t ∧ t.purse.outer = some (0x400040, 7) ∧ t.purse.quiet = true ∧
    s.locate { s.who t with views := [] } 2 0x500000 64 false false = .ok (.mem 0x500000 581) :=
  ⟨⟨rfl, by rfl, rfl, settled_nil rfl, rfl, rfl, rfl⟩, rfl, rfl, by rfl⟩
theorem witness_Regions_pinned :
    let s := m0.setQueue 1 { Queue.reset with pinned := [5] }
    (∃ e ∈ s.queues, 5 ∈ e.2.pinned) ∧ ∀ e ∈ m0.queues, 5 ∉ e.2.pinned := by decide
/-- A core of which no save has freed a place; context 1 is the lowest that is offered, and bank 1 the lowest that is free. -/
theorem witness_TaskScheduling_place : (mMail.core 8).due = [] ∧ mMail.task? (16 * 8 + 1) = none ∧ (mMail.core 8).freed.get? 1 ≠ some 0 ∧
    mMail.task? (16 * 8 + 0) ≠ none ∧ (Waiting.msg 0 (msg0 (.core 8))).bank = true ∧ (∀ e ∈ mMail.ctxs, e.2.bank ≠ some 1) ∧
    (∃ e ∈ mMail.ctxs, e.2.bank = some 0) ∧ (mMail.core 8).health.retired = false ∧
    (Waiting.msg 0 { msg0 (.core 8) with hdr := 0x400000 }).bank = false := by decide
/-- The place is for the message, and for a saved task of the core; all four banks are held, and three contexts are not. -/
theorem witness_TaskScheduling_seat : ((mDue (dueSeat false 5)).core 8).due = [] ++ dueSeat false 5 :: [] ∧
    (dueSeat false 5).id = (msg0 (.core 8)).id ∧ (dueSeat false 5).ctx = 1 ∧ (mDue (dueSeat false 5)).task? (16 * 8 + 1) = none ∧
    (∃ b, (dueSeat false 5).bank = some b ∧ b < 4 ∧ ∀ e ∈ (mDue (dueSeat false 5)).ctxs, e.2.bank ≠ some b) ∧
    dueSeat true 4 ∈ ((mDue (dueSeat true 4)).core 8).due ∧
    (match State.savedHere { mDue (dueSeat true 4) with saved := [(4, saved0)] } 8 with | [.saved k _] => k == 4 | _ => false) = true ∧
    (let s := { mMail with ctxs := (List.range 13).map fun n => (128 + n, { task with bank := some (n % 4) }) }
     s.task? (16 * 8 + 13) = none ∧ ∀ b < 4, ∃ e ∈ s.ctxs, e.2.bank = some b) := by decide
/-- Two messages of one sender to one core: the later waits for the earlier. -/
def msgFrom (id : Nat) : Msg := { msg0 (.core 9) with id := id, sender := some 128 }
theorem witness_Messages_behind :
    let s : State := { m0 with fabric := [(5, msgFrom 5), (7, msgFrom 7)] }
    s.fabric.get? 7 = some (msgFrom 7) ∧ (msgFrom 7).sender ≠ none ∧
    (∃ x ∈ (s.fabric.map fun e => e.2) ++ s.stops, x.id < (msgFrom 7).id ∧ x.sender = (msgFrom 7).sender ∧ x.dst = (msgFrom 7).dst) ∧
    (∀ x ∈ (s.fabric.map fun e => e.2) ++ s.stops, x.sender = (msgFrom 5).sender → x.dst = (msgFrom 5).dst → (msgFrom 5).id ≤ x.id) ∧
    (msg0 (.core 9)).sender = none := by decide
theorem witness_Messages_sound : (mQ []).sound ∧ (mRec 3 9 1 0).borrows.get? 6 =
    some { src := coreOrigin 8 8, tid := 8, asid := 1, hoist := 0x500000, answer := none, since := none } := ⟨⟨rfl, fun _ => rfl, fun _ => rfl, rfl, nofun⟩, by decide⟩
/-- A slice that holds the page of the source. -/
def mHeld : State :=
  match (mEng (copy0 0)).walk ((mEng (copy0 0)).descAt (nearSlice 0 0x500000) 1) 0x500000 with
  | .ok l => (mEng (copy0 0)).setCluster (nearSlice 0 0x500000) { (mEng (copy0 0)).cluster (nearSlice 0 0x500000) with cache := [(1, l)] }
  | .error _ => mEng (copy0 0)
theorem witness_Engine_cached : (mHeld.cached (nearSlice ((copy0 0).who 1).die 0x500000) 1 0x500000).isSome = true ∧
    mHeld.locate ((copy0 0).who 1) 4 0x500000 64 false false = .ok (.mem 0x500000 581) ∧
    (mHeld.cluster 1).engine.request 77 = some (copy0 0) ∧ (mHeld.cluster 1).engine.mergeTurn = false :=
  ⟨by decide, by rfl, by decide, by decide⟩
/-- A joining chain whose next line is poisoned. -/
theorem witness_Engine_poisoned :
    let j : Chain := { chain0 with
      joining := true, bad := [(41, 0x500000 / 64)], segs := [{ id := 41, owner := 8, complete := true, lines := [(0x500000 / 64, 7)] }] }
    (mMerge j).chains.get? 40 = some j ∧ (mMerge j).joinCluster j = some 1 ∧ (41, 0x500000 / 64) ∈ j.bad ∧ (41, 0x500040 / 64) ∉ j.bad ∧ (42, 0x500000 / 64) ∉ j.bad := by
  decide +kernel
/-- A retired core, and a load whose latency is not over. -/
theorem witness_ContextEvents_more :
    ((mHealth { Health.reset with retired := true } 0).core 9).health.retired = true ∧
    (let o := { flight with ready := 5 }
     let t := flowing { Flow.reset with seq := 1, inflight := [o] }
     (machine t).task? (16 * 8 + 0) = some t ∧ t.flow.inflight = [o] ∧ ((machine t).core 8).cycle < o.ready) := by decide
theorem witness_ContextEvents_saving : task.flow.saving = false ∧ task.flow.trap = none ∧ ((m0.core 8).halted = false) := by decide
theorem sound_mQueue (rd wr w0 : Nat) (x : Queue) : (mQueue rd wr w0 x).sound := ⟨rfl, fun _ => rfl, fun _ => rfl, rfl, nofun⟩
/-- A disabled queue, and one with nothing to do; the parked ones have no slot. -/
theorem witness_QueueFetch_more : (mQueue 2 2 0 slotted).sound ∧ ((mQueue 2 2 0 slotted).queue 1).stuck = none ∧
    (mQ [(9, 1, 0)]).mem.readNat 0x2049 1 % 2 = 0 ∧ (mPark true [] 1).sound ∧ (mPark true [] 1).control.bootStage = 7 ∧
    ((mPark true [] 1).queue 1).slot = none ∧ ((mPark true [] 1).queue 1).waiting = none ∧ (mPark true [] 1).mem.readNat 0x2049 1 % 2 = 1 ∧
    (mPark true [] 1).mem.readNat 0x2050 4 ≠ (mPark true [] 1).mem.readNat 0x2054 4 ∧ (∀ e ∈ (mPark true [] 1).queues, e.2.slot ≠ some 0) :=
  ⟨sound_mQueue .., by decide, by decide,
    ⟨rfl, fun _ => rfl, fun _ => rfl, rfl, fun e h q hq => by cases List.mem_singleton.mp h; cases hq⟩,
    by decide, by decide, by decide, by decide, by decide, by decide⟩
/-- Queue 1 in address space 0. -/
def mCmd0 (c : List Word) : State := { mCmd c with mem := Mem.writeNat (mCmd c).mem 0x204A 2 0 }
theorem witness_QueueCommands_asid : (mCmd0 (cmdWords 2 0x500000 0 0)).queueAsid 1 = 0 ∧
    ((mCmd0 (cmdWords 2 0x500000 0 0)).queue 1).stuck = none ∧ (mCmd (cmdWords 2 0x500000 0 0)).queueAsid 1 ≠ 0 ∧
    ((mCmd (cmdWords 2 0x500000 1 0)).queue 1).parked = [] ∧ ((mCmd0 (cmdWords 2 0x500000 0 0)).queue 1).command = some (cmdWords 2 0x500000 0 0) ∧
    ((cmdWords 10 0x500000 0 0).getD 0 0).toNat % 256 = 10 := by decide
theorem witness_QueueCommands_more : (mMsg 0 1).sound ∧ (mMsg 0 1).queueAsid 1 ≠ 0 ∧
    (machine { task with ident := { task.ident with queue := 1 } }).unkillable { task with ident := { task.ident with queue := 1 } } = false ∧
    (machine { task with ident := { task.ident with queue := 1 } }).unkillable (flowing { Flow.reset with halting := true }) = true :=
  ⟨⟨rfl, fun _ => rfl, fun _ => rfl, rfl, nofun⟩, by decide, by decide, by decide⟩
/-- A signal that no slice has to walk to: parking its queue leaves a watch at its home. -/
theorem witness_QueueCommands_watch : (mCmd (cmdWords 2 0x500000 1 0)).poison = [] ∧ (mCmd (cmdWords 2 0x500000 1 0)).clusters = [] ∧
    (let s := mCmd (cmdWords 2 0x500000 1 0)
     match s.walk (s.descAt (nearSlice 0 0x500000) 1) 0x500000 with
     | .ok l => ((s.setCluster (nearSlice 0 0x500000) { s.cluster (nearSlice 0 0x500000) with cache := [(1, l)] }).cached
        (nearSlice (frontWho 1).die 0x500000) 1 0x500000).isSome
     | .error _ => false) = true := ⟨rfl, rfl, by decide⟩
/-- An image whose line has a directory entry, and a pinned line. -/
theorem witness_QueueCommands_image :
    let s : State := { mCmd (cmdWords 5 0x500000 64 1) with
      wsImage := some { asid := 1, banks := 1, lines := [(5, 0x500000 / 64)] }, directory := [(5, { slice := 3, asid := 1, vline := 5 })] }
    (∃ im, s.wsImage = some im ∧ (im.lines.get? 5).isSome = true) ∧ (∀ im, s.wsImage = some im → im.lines.get? 6 = none) ∧
    (s.directory.get? 5).isSome = true ∧ (∃ e ∈ (s.setQueue 1 { Queue.reset with pinned := [5] }).queues, 5 ∈ e.2.pinned) :=
  ⟨⟨_, rfl, by decide⟩, fun im h => by cases h; decide, by decide, by decide⟩
/-- A line of the image that an active copy owns: the load only waits. -/
theorem witness_QueueCommands_hold :
    let s := (mCmd (cmdWords 5 0x500000 64 1)).setCluster 1
      { Cluster.reset with engine := { Cluster.reset.engine with active := [{ copy0 0 with own := [0x500000 / 64] }] } }
    (match (s.takeBanks 1 1).imageLines (frontWho 1) 1 false (linesOf 0x500000 64) [] with | .waits .hold => true | _ => false) = true := by decide +kernel
theorem witness_Launches_enabled : (mLaunch 0x400000 0x2060).queueEn 1 = true ∧ m0.queueEn 1 = false ∧ (mLaunch 0x400000 0x2060).sound :=
  ⟨by decide +kernel, by decide, ⟨rfl, fun _ => rfl, fun _ => rfl, rfl, nofun⟩⟩
/-- Core 9 keeps nineteen granules for another name, so one of a launch that waits does not fit. -/
theorem witness_Launches_starving :
    let s : State := { ((mLaunch 0x400000 0x2060).setCore 9 { Core.reset with
      granules := (List.range 20).map fun g => if g = 0 then .l1 else .retained 5 1 19 0 }) with
      launches := [(3, accepting 0x2060)], stime := 1000000 }
    (3, accepting 0x2060) ∈ s.launches ∧ (accepting 0x2060).waitingSince + 1000000 ≤ s.stime ∧
    s.launchSet (frontWho 1) (accepting 0x2060).record = some [9] ∧ (s.grant 9 3 1 0 1).isNone = true := by decide +kernel
/-- A closed window, and a line of an open one that an active copy owns. -/
theorem witness_HostAccesses_more : (mWin 0x8000000000000001).inbound = [] ∧ 64 + 512 ≤ 2 ^ 36 ∧ (mWin 1).control.mwin.getLsbD 63 = false ∧
    (let s := (mWin 0x8000000000000001).setCluster 1
      { Cluster.reset with engine := { Cluster.reset.engine with active := [{ copy0 0 with own := [0x500000 / 64] }] } }
     (match s.locate (outsideWho 1 6004) 5 0x500000 64 false true with | .error .hold => true | _ => false) = true) := by decide
theorem witness_HostAccesses_read :
    let s : State := { m0 with control := { m0.control with xasid := 0x8000000000000001 } }
    s.locate (outsideWho 1 (2 ^ 20 + 7)) 4 0x500000 64 false false = .ok (.mem 0x500000 581) ∧
    s.locate (outsideWho 1 (2 ^ 20 + 7)) 5 0x500000 64 false true = .ok (.mem 0x500000 581) ∧
    (match s.locate (outsideWho 1 (2 ^ 20 + 7)) 4 0x40000000 64 false false with | .error (.refuse ..) => true | _ => false) = true ∧
    m0.control.xasid.getLsbD 63 = false := ⟨by rfl, by rfl, by decide, by decide⟩
theorem witness_HostRegisters_more :
    let s : State := { machine task with stime := 2000000 }
    (s.core 8).halted = false ∧ (s.core 8).health.retired = false ∧ (1000001 : Nat) % 1000000 ≠ 0 ∧
    ((m0.setCluster 3 { Cluster.reset with fwall := 0x100 }).cluster 3).fwall.getLsbD 8 = true := by decide
theorem witness_Health_more : (mHealth Health.reset 1000000).stime % 10 ^ 6 = 0 ∧ (mHealth Health.reset 999999).stime % 10 ^ 6 ≠ 0 ∧
    1450 ≤ min 2400 (curve0.fmax.getD 7 0 * 98 / 100) ∧ curve0.fmax.length = 8 ∧ Health.reset.fnow = 0 ∧
    (let h : Machine.Health := { Health.reset with retiring := true, pending := some (curve0, 5) }
     ((mHealth h 1000000).core 9).health.pending = some (curve0, 5)) ∧
    (mHealth Health.reset 0).stime < (m0.channel 511).scrubbed + 24 * (3600 * 10 ^ 9) ∧
    ¬ 24 * (3600 * 10 ^ 9) < (m0.channel 511).scrubbed + 24 * (3600 * 10 ^ 9) := by decide
/-- A context that waits has its pc and code for a sample, and none of its core issues. -/
theorem witness_Trace_waiting :
    let t : Task := { task with rank := { task.rank with block := some (1, 0x400000) } }
    let s := (machine t).setCore 8 { logging with cycle := 512 }
    (∀ e ∈ s.ctxs, ctxCore e.1 = 8 → e.2.rank.block ≠ none) ∧ s.blocking 8 = some (128, t) ∧ (s.core 8).samples = true :=
  ⟨by decide, rfl, by decide⟩
theorem witness_Debug_matches :
    let s := m0.setCluster 1 { Cluster.reset with dbg := { Cluster.reset.dbg with bp := Cluster.reset.dbg.bp.set 15 (0x8000000000400000, 0x00000000000100FF) } }
    s.bpMatch 8 task = some 15 ∧ (s.core 8).dip = false := by decide

/-! Witnesses of clauses that the statements took on later. -/

/-- Under NOPM every number from 0x30 to 0x3F is locked, as is 0x28. -/
theorem witness_ControlRegisterWrites_locked : ¬ (taskL.ident.launch = none ∨ (mNopm.cluster (coreCluster mNopm.here)).dbg.ctl.getLsbD 10 = false) ∧
    (0x30 ≤ (0x31 : BitVec 8).toNat ∧ (0x3F : BitVec 8).toNat ≤ 0x3F) := by decide
/-- A handler outside the address range, and a data address of callat beyond it. -/
theorem witness_Sends_range :
    let t := task1 (BitVec.twoPow 64 56)
    Running (machine t) t ∧ (machine t).inMergeHandler t = false ∧ (t.getS 1).toNat % 4 = 0 ∧ 2 ^ 56 ≤ (t.getS 1).toNat ∧
    (t.getS 2).toNat % 4 = 0 ∧ (t.getS 2).toNat < 2 ^ 56 := ⟨running_machine _ rfl, by decide, by decide, by decide, by decide, by decide⟩
/-- A task with its own id in s1 and an inherited view, whose segment stands alone or beside a complete one. -/
def heir : Task := { viewing false with regs := { task.regs with s := task.regs.s.set 1 8 } }
def alone : Chain := { chain0 with segs := [{ id := 41, owner := 8, complete := false, lines := [] }] }
def beside : Chain := { alone with segs := alone.segs ++ [{ id := 42, owner := 9, complete := true, lines := [] }] }
def mHeir (c : Chain) : State := { machine heir with chains := [(40, c)] }
theorem witness_TaskEnds_inherited : ∀ c ∈ [alone, beside], Running (mHeir c) heir ∧ heir.views = [(2, { view0 with declared := false })] ∧
    (mHeir c).chains.get? 40 = some c ∧ c.discard = false ∧ (c.segment? 41).any (fun g => !g.complete) = true ∧
    (mHeir c).mergeFault 8 = none ∧ (mHeir c).inMergeHandler heir = false ∧ heir.flow.soft = [] ∧ heir.flow.wait = .run ∧
    (c.mapSeg 41 fun g => { g with complete := true }).pairs 41 = decide (c.segs.length = 2) ∧ (mHeir c).worksDone 8 = true ∧
    heir.getS 1 = heir.ident.tid ∧ (heir.getS 1).toNat < 2 ^ 48 ∧ (mHeir c).ctxOf 8 = some 128 ∧ (mHeir c).unkillable heir = false ∧
    heir.flow.merging = false ∧ heir.flow.halting = false := by
  intro c h
  simp only [List.mem_cons, List.not_mem_nil, or_false] at h
  rcases h with rfl | rfl <;> exact ⟨⟨rfl, by decide, rfl, settled_nil rfl, rfl, rfl, rfl⟩, by decide⟩
/-- A halt inside a hoist returns the purse and the outer weight; the record names the task as its waiter, or does not. -/
theorem witness_TaskEnds_outer : Running (mH 3 3 1) (hoisted 3) ∧ (hoisted 3).purse.outer = some (0x400040, 7) ∧ (hoisted 3).views = [] ∧
    (hoisted 3).flow.soft = [] ∧ (hoisted 3).flow.wait = .run ∧ (mH 3 3 1).worksDone 8 = true ∧ (mH 3 3 1).sound ∧
    (mH 3 3 1).recordPa (coreOrigin 8 8).die 1 0x500000 = some 0x500000 ∧ (mH 3 3 1).mem.readNat 0x500018 8 ≠ 8 ∧
    (Mem.writeNat (mH 3 3 1).mem 0x500018 8 8).readNat 0x500018 8 = 8 :=
  ⟨runningH .., rfl, rfl, rfl, rfl, by decide, ⟨rfl, fun _ => rfl, fun _ => rfl, rfl, nofun⟩, by decide, by decide, by decide⟩
/-- A join whose declared chain has yet to close its segment, and one that has merged it. -/
def joiner (merging : Bool) : Task := { viewing true with flow := { Flow.reset with merging := merging } }
def mJoin (merging : Bool) : State :=
  { machine (joiner merging) with
    chains := [(40, { chain0 with joining := merging, segs := [{ id := 41, owner := 8, complete := merging, lines := [] }] })] }
theorem witness_TaskEnds_join : ∀ b ∈ [false, true], Running (mJoin b) (joiner b) ∧ (joiner b).views = [(2, view0)] ∧ view0.declared = true ∧
    ((mJoin b).chains.get? 40).any (fun c => (c.segs.map fun g => (g.id, g.complete, g.lines.length)) == [(view0.seg, b, 0)] &&
      c.work.isEmpty && !c.discard && c.joining == b) = true ∧
    (mJoin b).mergeFault 8 = none ∧ (mJoin b).inMergeHandler (joiner b) = false ∧ (∀ h ∈ (mJoin b).holders, h.1.parent ≠ some 8) ∧
    (mJoin b).worksDone 8 = true ∧ (joiner b).flow.merging = b := by
  intro b h
  cases b <;> exact ⟨⟨rfl, by decide, rfl, settled_nil rfl, rfl, rfl, rfl⟩, by decide⟩
/-- A mint, a handover, a command and an incoming transfer meet a descriptor whose line is poisoned. -/
theorem witness_Descriptors :
    let s : State := { m0 with poison := [m0.descPa 1 / 64] }
    s.poisonedAt (s.descPa 1) = true ∧ s.poisonedAt (s.localPa (s.cfg.astab + 32 * 1)) = true ∧ m0.poisonedAt (m0.descPa 1) = false ∧
    (let q : State := { mCmd signalCmd with poison := [(mCmd signalCmd).localPa ((mCmd signalCmd).cfg.qtab + 64 * 1) / 64] }
     q.poisonedAt (q.localPa (q.cfg.qtab + 64 * 1)) = true ∧ (q.queue 1).command = some signalCmd ∧ (signalCmd.getD 0 0).toNat % 256 = 3) := by
  decide +kernel
/-- A launch that ends with a signal of sum 5, with a counter of 4, and with both. -/
def launchS (sig dep : Word) : Launch :=
  { launch0 with record := (((record0 0x400000 0x2060).set 12 sig).set 13 5).set 11 dep }
def mSigDep (l : Launch) : State :=
  { mLaunch 0x400000 0x2060 with launches := [(3, l)], mem := Mem.writeNat (mLaunch 0x400000 0x2060).mem 0x750000 8 4 }
def closedOf (s : State) (l : Launch) : State :=
  (((s.noteRecord frontOrigin l.asid (l.record.getD 5 0)).deviceWrite (0x710000 + 24) 8 0).freeUnclaimed l.queue l.order).keepPartitions 3 l
theorem witness_Launches_signals :
    let l := launchS 0x740000 0x750000
    let s := mSigDep l
    s.launches.get? 3 = some l ∧ l.phase = .running ∧ l.starts = [] ∧ l.armed = true ∧ l.asid ≠ 0 ∧
    s.recordPa 0 1 0x710000 = some 0x710000 ∧ s.mem.readNat 0x710014 1 % 2 = 0 ∧
    (match (closedOf s l).locate (frontWho 1) 5 0x740000 8 false false with
      | .ok (.mem pa _) => decide (pa = 0x740000 ∧ (BitVec.ofNat 64 ((closedOf s l).mem.readNat pa 8)).toInt + 5 < 2 ^ 63)
      | _ => false) = true ∧
    (match (closedOf s l).frontSigAdd 1 1 0x740000 5 with
      | .ok b => (match b.locate (frontWho 1) 5 0x750000 8 false false with | .ok p => decide (b.readAt p 0x750000 8 ≠ 0) | .error _ => false)
      | .error _ => false) = true ∧
    (launchS 0 0x750000).record.getD 12 0 = 0 ∧ (launchS 0 0x750000).record.getD 11 0 ≠ 0 ∧ (launchS 0x740000 0).record.getD 11 0 = 0 := by
  decide +kernel
theorem witness_Launches_sound (l : Launch) : (mSigDep l).sound := ⟨rfl, fun _ => rfl, fun _ => rfl, rfl, nofun⟩
/-- A load in flight that UALink 4 has held for 2 ms. -/
def flightU : LLOp := { flight with work := .load 4 8 false false 0x40000000, since := some 0 }
def flyingU : Task := flowing { Flow.reset with seq := 3, inflight := [flightU] }
def mUalink : State :=
  { machine flyingU with
    stime := 2000000, noCredit := [.ualink 4], mem := Mem.writeNat m0.mem 0x200008 8 (0x1F + 2 ^ 50 + 4 * 2 ^ 40) }
theorem witness_HostRegisters_flight : mUalink.task? (16 * 8 + 0) = some flyingU ∧ flyingU.flow.wait = .run ∧
    flyingU.flow.inflight = [flightU] ∧ flightU.done = false ∧ flightU.failed = none ∧ flightU.since = some 0 ∧ 0 + 2000000 ≤ mUalink.stime ∧
    (match mUalink.perform (16 * 8 + 0) flyingU flightU.pc flightU.work with
      | .wait (.link (.ualink m) va) => decide (m = 4 ∧ va = 0x40000000) | _ => false) = true := by decide +kernel
/-- A cluster in a DIP, with the quanta of its tasks under GANG. -/
def mDip : State :=
  { m0.setCore 8 { Core.reset with dip := true, halted := true } with control := { m0.control with gang := true }, stime := 77 }
theorem witness_Debug_gang : (mDip.core (ctxCore 128)).dip = true ∧ mDip.control.gang = true ∧ mDip.task? 128 = some task ∧
    (m0.core (ctxCore 128)).dip = false ∧ coreCluster (ctxCore 128) = 1 := by decide
/-- A fault ring whose slot and descriptor lie in an image; a record that waits for an earlier one of its queue. -/
theorem witness_Records :
    let im : State := { m0 with wsImage := some { asid := 1, banks := 1, lines := [(0, 8), (1, 9)] } }
    (im.imageLine 0).isSome = true ∧ (im.imageLine (0x40 + 40)).isSome = true ∧
    (∃ bs, Owed.record 1 bs ∈ ({ m0 with owed := [.record 1 [7]] } : State).owed) ∧ (∀ bs, Owed.record 1 bs ∉ m0.owed) :=
  ⟨by decide, by decide, ⟨_, List.mem_singleton_self _⟩, nofun⟩
/-- A place that a save has freed for a message of the spill ring, on a core not all of whose tasks are suspended. -/
theorem witness_TaskScheduling_spill :
    let s := m0.setCore 8 { Core.reset with spill := [msg0 (.core 8)], due := [dueSeat false 5] }
    ((placed (s.core 8).spill).any fun w => match w with | .msg _ m => m.id == (dueSeat false 5).id | .saved .. => false) = true ∧
    s.allSuspended 8 = false ∧ dueSeat false 5 ∈ (s.core 8).due ∧ (dueSeat false 5).saved = false ∧ s.task? (16 * 8 + 1) = none ∧
    (∃ u, (mDue (dueSeat false 5)).task? 128 = some u ∧ u.flow.saving = false) :=
  ⟨by decide, by decide, by decide, rfl, rfl, ⟨_, rfl, rfl⟩⟩
/-- An image whose line UALink 4 holds: the load waits, and its time runs. -/
theorem witness_QueueCommands_link :
    let s : State := { mCmd (cmdWords 5 0x40000000 64 1) with
      noCredit := [.ualink 4], mem := Mem.writeNat (mCmd (cmdWords 5 0x40000000 64 1)).mem 0x200008 8 (0x1F + 2 ^ 50 + 4 * 2 ^ 40) }
    (match (s.takeBanks 1 1).imageLines (frontWho 1) 1 (overdue (s.queue 1).since s.stime) (linesOf 0x40000000 64) [] with
      | .waits (.link (.ualink k) va) => decide (k = 4 ∧ va = 0x40000000) | _ => false) = true ∧ (s.queue 1).since = none := by decide +kernel

/-! Witnesses of clauses on waits that the statements took on later still. -/

/-- A copy owns the line of 0x500000: an access of it is held. -/
def mOwned (t : Task) : State :=
  (machine t).setCluster 1 { Cluster.reset with engine := { Cluster.reset.engine with active := [{ copy0 0 with own := [0x500000 / 64] }] } }
theorem witness_AtomicsWithNotice_hold : (mOwned task).Inv ∧ Running (mOwned task) task ∧ 1 ≤ task.purse.weight ∧
    (task.getS 1).toNat % 4 = 0 ∧ viewAt ((mOwned task).who task) 0x500000 = none ∧
    (match (mOwned task).locate ((mOwned task).who task) 2 0x500000 4 false false with | .error .hold => true | _ => false) = true :=
  ⟨⟨by decide, by decide, by decide⟩, ⟨rfl, by decide, rfl, settled_nil rfl, rfl, rfl, rfl⟩, by decide, by decide, by decide, by decide⟩
/-- A task without weight whose borrow came to nothing. -/
def lateTask (w : Woken) : Task :=
  { task with purse := { task.purse with weight := 0 }, flow := { Flow.reset with woken := w } }
theorem witness_Sends_late : ∀ w ∈ [Woken.refused, .late], Running (machine (lateTask w)) (lateTask w) ∧
    (machine (lateTask w)).inMergeHandler (lateTask w) = false ∧ (lateTask w).purse.weight < 1 ∧ (lateTask w).flow.woken = w := by
  intro w h
  simp only [List.mem_cons, List.not_mem_nil, or_false] at h
  rcases h with rfl | rfl <;> exact ⟨⟨rfl, by decide, rfl, settled_nil rfl, rfl, rfl, rfl⟩, by decide⟩
/-- A task that declares one view and inherits another, with a child that lives. -/
def mixed : Task := { task with views := [(2, view0), (3, { view0 with chain := 50, declared := false })] }
def mMixed : State :=
  { machine mixed with
    ctxs := [(128, mixed), (145, { child none false with ident := { task.ident with tid := 77, parent := some 8 } })]
    chains := [(40, chain0), (50, { alone with declarer := 4 })] }
theorem witness_TaskEnds_mixed : Running mMixed mixed ∧ mixed.views = [(2, view0), (3, { view0 with chain := 50, declared := false })] ∧
    view0.declared = true ∧ view0.chain ≠ 50 ∧ mMixed.mergeFault 8 = none ∧ mMixed.inMergeHandler mixed = false ∧
    (mMixed.holders.any fun h => h.1.parent == some 8) = true ∧
    (after (exec .halt mMixed)).map (fun u => (u.views.length, u.flow.wait, u.flow.halting)) = some (2, .halting, true) :=
  ⟨⟨rfl, by decide, rfl, settled_nil rfl, rfl, rfl, rfl⟩, rfl, rfl, by decide, by decide, by decide, by decide, by decide⟩
/-- A descriptor that no slice has and whose line is poisoned, and a walk that a UALink holds. -/
theorem witness_TranslationWalk_stops :
    let s : State := { m0 with poison := [m0.descPa 1 / 64] }
    let z : State := { m0 with noCredit := [.ualink 4], mem := Mem.writeNat m0.mem 0x200010 8 (0x01 + 2 ^ 50 + 4 * 2 ^ 40) }
    (match s.translate (nearSlice 0 0x500000) 1 0x500000 with
      | .error (.poisoned e lo) => decide (e = s.descPa 1 ∧ lo = 0) | _ => false) = true ∧
    s.cached (nearSlice 0 0x500000) 1 0x500000 = none ∧
    (match z.translate (nearSlice 0 0x80000000) 1 0x80000000 with
      | .error (.stalled l) => decide (l = .ualink 4) | _ => false) = true := by decide
theorem witness_ContextEvents_told : (machine flying).asking flying 0 = false ∧
    (let put : Put := { reg := 7, pos := 0, width := 32, shift := 0, conv := .raw }
     LLWork.writeBack (.elems false 0 [{ grp := 0, addr := 0x500000, len := 4, data := 0, flags := 0, puts := [put] }] none none) = 1) ∧
    (m0.core 8).halted = false ∧ ((withCore fun c => { c with arrayUntil := 9 }).core 8).cycle < 9 ∧
    ((withCore fun c => { c with reserved := some 3 }).core 8).reserved = some 3 := by decide
/-- The record of a hoist in a page behind UALink 4, which has no credit, at a time. -/
def mFar (w : Nat) (now : Nat) (since : Option Nat) : State :=
  let t : Task := flowing { Flow.reset with wait := .borrow 6 }
  { machine t with
    stime := now, noCredit := [.ualink 4], mem := Mem.writeNat m0.mem 0x200008 8 (w + 2 ^ 50 + 4 * 2 ^ 40)
    borrows := [(6, { src := coreOrigin 8 8, tid := 8, asid := 1, hoist := 0x40000000, answer := none, since := since })] }
theorem witness_Weight_linked : ∀ e ∈ [(0, none), (1999999, some 0), (2000000, some 0)],
    let s := mFar 0x1F e.1 e.2
    ((s.borrows.get? 6).map fun b => (b.answer, b.since)) = some (none, e.2) ∧ s.recordPa (coreOrigin 8 8).die 1 0x40000000 = none ∧
    s.recordLinked (coreOrigin 8 8).die 1 0x40000000 = true ∧ s.ctxOf 8 = some 128 ∧
    (s.task? 128).map (fun u => (u.ident.tid, u.flow.wait)) = some (8, .borrow 6) ∧
    (match exec (.borrowStep 6) s with | .next s' => (s'.task? 128).map fun u => u.flow.woken | _ => none) =
      some (if e.1 = 2000000 then .late else .no) := by decide
theorem witness_Weight_unmapped :
    (mFar 0 0 none).recordPa (coreOrigin 8 8).die 1 0x40000000 = none ∧ (mFar 0 0 none).recordLinked (coreOrigin 8 8).die 1 0x40000000 = false := by
  decide
/-- A message to a queue that does not exist: its record is written at once, and waits behind one of its queue. -/
theorem witness_Messages_told : ∀ b ∈ [false, true],
    let m := { msg0 (.queue 9) with ident := { (msg0 (.queue 9)).ident with queue := 1 } }
    let s : State := { mQ [] with fabric := [(5, m)], owed := if b then [.record 1 [7]] else [] }
    let told := (({ s with fabric := s.fabric.erase 5 } : State).accepted m).postRecord 1
      { tid := 8, path := 0, pc := 0, cause := 0, addr := BitVec.ofNat 64 (2 ^ 63 + 9), asid := 1, kind := 8 }
    s.fabric.get? 5 = some m ∧ m.dst = .queue 9 ∧ s.queueExists 9 = false ∧ (told.owed.any fun o => match o with | .record q _ => q == 1 | _ => false) = b := by decide
/-- MSG commands whose record a poisoned line or UALink 4 keeps, that no page maps, and of address space 0. -/
def mMsgAt (w now : Nat) (x : Queue) : State :=
  let c : List Word := [4, 0x500000, 0x400000, 1, 2, 3, 4, 0x40000000]
  let s := mQueue 1 1 0 { x with command := some c }
  { s with stime := now, noCredit := [.ualink 4], mem := Mem.writeNat s.mem 0x200008 8 (w + 2 ^ 50 + 4 * 2 ^ 40) }
theorem witness_QueueCommands_msgWaits :
    let far := mMsgAt 0x1F 0 slotted
    let none_ := mMsgAt 0 0 slotted
    far.recordBusy 0 1 0x40000000 = true ∧ far.recordLinked 0 1 0x40000000 = true ∧ far.queueAsid 1 = 1 ∧
    (far.msgCore 0x500000).isSome = true ∧ (far.queue 1).stuck = none ∧ (far.queue 1).since = none ∧
    ((mMsgAt 0x1F 2000000 { slotted with since := some 0 }).queue 1).since = some 0 ∧
    ((mMsgAt 0x1F 0 { slotted with stuck := some stuck0 }).queue 1).stuck ≠ none ∧
    none_.recordBusy 0 1 0x40000000 = false ∧ none_.recordPa 0 1 0x40000000 = none ∧
    ({ none_ with cfg := { none_.cfg with astab := 0x9000 } } : State).recordBusy 0 0 0x40000000 = false ∧
    ({ none_ with poison := [none_.descPa 1 / 64] } : State).recordBusy 0 1 0x40000000 = true ∧
    ({ none_ with poison := [none_.descPa 1 / 64] } : State).recordLinked 0 1 0x40000000 = false := by decide +kernel
/-- A seat whose bank a task of another context has taken does not open. -/
theorem witness_TaskScheduling_seats :
    let s := { mDue { dueSeat true 5 with bank := some 0 } with ctxs := [(128, task)] }
    s.task? (16 * 8 + 1) = none ∧ task.bank = some 0 ∧ task.flow.saving = false ∧
    (machine savingTask).asking savingTask savingTask.flow.seq = false := by decide
/-- A write of QUANTUM that sets GANG: a quantum that runs begins at the write. -/
theorem witness_HostRegisters_quantum :
    (0x100000064 : Word).getLsbD 32 = true ∧ m0.control.gang = false ∧ task.rank.quantum = 0 ∧
    (match exec (.registerWrite .quantum 0x100000064) { m0 with stime := 4000 } with
      | .next s' => ((s'.task? 128).map fun t => t.rank.quantum, s'.control.gang, s'.control.quantumLen) | _ => (none, false, 0)) =
      (some 4000, true, 100) := by decide
theorem witness_Launches_notes :
    let m : Msg := { msg0 (.core 8) with ident := { (msg0 (.core 8)).ident with launch := some 3 } }
    let s : State := { mLaunch 0x400000 0x2060 with launches := [(3, aborting)], notes := [(5, m)] }
    s.launches.get? 3 = some aborting ∧ s.notes.length = 1 ∧
    (match exec (.launchAbort 3) s with | .next s' => s'.notes.length | _ => 9) = 0 := by decide +kernel
/-- A core with a result still to come. -/
theorem witness_Debug_coming :
    let e : Await := { ctx := 0, reg := some (.s 4), until_ := 9, pc := 0x400000, memory := false }
    let s := withCore fun c => { c with results := [e] }
    s.task? 128 = some task ∧ ctxCore 128 = 8 ∧ e ∈ (s.core 8).results ∧ e.ctx = ctxNum 128 ∧ (s.core 8).cycle < e.until_ ∧
    s.coreDrained 8 = false := ⟨rfl, rfl, by decide, rfl, by decide, by decide⟩
/-- Shares of 10 by 1, 1 and 2: two over, to the two largest fractions. -/
theorem witness_Launches_shares : apportion 10 [1, 1, 2] = [3, 2, 5] := by decide +kernel

end Sys2Proof.Tests
end

section
/-! Issue of the instructions that need no bank, no array and no stream: what runs of them, and what each shape of
them leaves. -/

namespace Sys2Proof.Machine

/-! ### Plain instructions -/

/-- An instruction that names no bank register and no stream, takes no cycle of the array and has no mode test (R38, R48, R57). -/
structure Traits.plain (tr : Traits) (t : Task) : Prop where
  bank : tr.bank t = false
  array : tr.array = 0
  streams : tr.streams t = []
  mode : tr.modeFault t = false

/-- A running context issues the body of a plain instruction whose guard is true, once the divider is free where it divides. -/
theorem issue_plain {s : State} {t : Task} {tr : Traits} (body : State → Task → Out) (h : Running s t)
    (hg : t.getP tr.guard = true) (hp : tr.plain t) (hd : tr.divides = false ∨ s.dividerFree) :
    issue tr body s = body s t :=
  issue_running body h hg (Task.waits_idle _ _ _ h.idle h.settled (.inl hp.array) hd)
    (State.issueCause_plain _ _ h.idle hp.bank hp.streams hp.mode)

/-! ### Writes of a register -/

/-- An instruction that writes the value v of the context to s[d], in the words of a statement. -/
theorem setS_leads {s : State} {t : Task} {i : Instr} {tr : Traits} {d : SReg} {v : Task → Word} {r n : Word}
    (h : Running s t) (hg : t.getP tr.guard = true) (hi : exec i s = scalarOp tr (fun t => t.setS d (v t)) s)
    (hv : v t = r := by rfl) (hn : BitVec.ofNat 64 tr.bytes = n := by rfl)
    (hp : tr.plain t := by exact ⟨rfl, rfl, rfl, rfl⟩) (hd : tr.divides = false := by rfl) :
    Leads (exec i s) (Only s · ((t.setS d r).setPc (t.regs.pc + n))) := by
  subst hv
  exact scalar_leads tr _ h hi hg rfl hn hp.bank hp.array (.inl hd) hp.streams hp.mode

/-- An instruction that writes the value v of the context to p[pd], and under a false guard nothing. -/
theorem setP_leads {s : State} {t : Task} {i : Instr} {tr : Traits} {pd g : Nat} {v : Task → Bool} {b : Bool} {n : Word}
    (h : Running s t) (hi : exec i s = scalarOp tr (fun t => t.setP pd (v t)) s)
    (hv : v t = b) (hn : BitVec.ofNat 64 tr.bytes = n := by rfl) (hg : tr.guard = g := by rfl)
    (hp : tr.plain t := by exact ⟨rfl, rfl, rfl, rfl⟩) (hd : tr.divides = false := by rfl) :
    Leads (exec i s) (Only s · ((if t.getP g = true then t.setP pd b else t).setPc (t.regs.pc + n))) := by
  subst hv hg
  cases hc : t.getP tr.guard with
  | true => exact scalar_leads tr _ h hi hc rfl hn hp.bank hp.array (.inl hd) hp.streams hp.mode
  | false => exact hi ▸ hn ▸ issue_suppressed_only _ h hc

/-! ### The divider -/

@[simp] theorem Core.count_dividerUntil (c : Core) (ctx code n : Nat) :
    (c.count ctx code n).dividerUntil = c.dividerUntil := by
  unfold Core.count; split <;> rfl

/-- Issue occupies the divider for 36 cycles where the instruction divides, and leaves it alone elsewhere. -/
theorem Core.issued_dividerUntil (c : Core) (ctx : Nat) (pc : Word) (tr : Traits) (before : Bool) :
    (c.issued ctx pc tr before).dividerUntil = if tr.divides then c.cycle + 36 else c.dividerUntil := by
  have counted : ∀ d : Core, (if before then d else
      if tr.event = 0 then d.count ctx 2 1 else (d.count ctx 2 1).count ctx tr.event 1).dividerUntil = d.dividerUntil := by
    intro d
    split
    · rfl
    · split <;> simp
  exact counted _

theorem State.retire_dividerUntil {s : State} {tr : Traits} (u : Task) (hd : tr.divides = true) :
    ((s.retire tr u).core s.here).dividerUntil = s.hereCore.cycle + 36 := by
  show ((s.setCore s.here _).core s.here).dividerUntil = _
  rw [State.core_setCore_same, Core.issued_dividerUntil, if_pos hd]
  rfl

/-- A division waits for the divider (R118): the machine stays as it is. -/
theorem division_waits {s : State} {t : Task} {i : Instr} {tr : Traits} {f : Task → Task} (h : Running s t)
    (hg : t.getP tr.guard = true) (hb : ¬ s.dividerFree) (hi : exec i s = scalarOp tr f s)
    (hd : tr.divides = true := by rfl) : exec i s = .next s := by
  have hbusy : (s.core (ctxCore s.focus)).cycle < (s.core (ctxCore s.focus)).dividerUntil := Nat.lt_of_not_le hb
  have hw : t.waits (s.core (ctxCore s.focus)) (ctxNum s.focus) tr = true := by
    simp [Task.waits, hd, hbusy]
  rw [hi]
  unfold scalarOp issue
  simp only [h.here, h.free, h.plan, hg, hw, Core.awaits_settled h.settled, Bool.true_or]
  rfl

/-- A division that finds the divider free writes its value and holds the divider for 36 cycles. -/
theorem division_leads {s : State} {t : Task} {i : Instr} {tr : Traits} {d : SReg} {v : Task → Word} {r : Word}
    (h : Running s t) (hg : t.getP tr.guard = true) (hf : s.dividerFree)
    (hi : exec i s = scalarOp tr (fun t => t.setS d (v t)) s) (hv : v t = r)
    (hn : tr.bytes = 4 := by rfl) (hp : tr.plain t := by exact ⟨rfl, rfl, rfl, rfl⟩) (hd : tr.divides = true := by rfl) :
    Leads (exec i s) fun s' =>
      Only s s' ((t.setS d r).setPc (t.regs.pc + 4)) ∧ (s'.core s.here).dividerUntil = s.hereCore.cycle + 36 := by
  subst hv
  have ho : Only s (s.retire tr (t.setS d (v t))) ((t.setS d (v t)).setPc (t.regs.pc + 4)) := by
    simpa [hn] using State.retire_only h tr (t.setS d (v t)) (by simp)
  exact ⟨_, hi.trans (issue_plain _ h hg hp (.inr hf)), ho, State.retire_dividerUntil _ hd⟩

end Sys2Proof.Machine
end

section
/-! Division (R118). -/

namespace Sys2Proof.Machine

/-- The signed corner, in the words of R118: the least integer by -1. -/
theorem signedCorner_iff (x y : Word) :
    (x = BitVec.ofInt 64 (-(2 ^ 63)) ∧ y = BitVec.allOnes 64) ↔ (x.toInt = -(2 ^ 63) ∧ y.toInt = -1) := by
  rw [← BitVec.toInt_inj (x := x), ← BitVec.toInt_inj (x := y)]
  exact Iff.rfl

theorem divSigned_quotient (x y : Word) : (divSigned x y).1 =
    if y = 0 then BitVec.allOnes 64 else if x.toInt = -(2 ^ 63) ∧ y.toInt = -1 then x
    else BitVec.ofInt 64 (x.toInt.tdiv y.toInt) := by
  unfold divSigned
  by_cases hy : y = 0
  · rw [if_pos hy, if_pos hy]
  · rw [if_neg hy, if_neg hy]
    by_cases hc : x.toInt = -(2 ^ 63) ∧ y.toInt = -1
    · rw [if_pos hc, if_pos ((signedCorner_iff x y).mpr hc)]
    · rw [if_neg hc, if_neg (mt (signedCorner_iff x y).mp hc)]

theorem divSigned_remainder (x y : Word) : (divSigned x y).2 =
    if y = 0 then x else if x.toInt = -(2 ^ 63) ∧ y.toInt = -1 then 0
    else BitVec.ofInt 64 (x.toInt - x.toInt.tdiv y.toInt * y.toInt) := by
  unfold divSigned
  by_cases hy : y = 0
  · rw [if_pos hy, if_pos hy]
  · rw [if_neg hy, if_neg hy]
    by_cases hc : x.toInt = -(2 ^ 63) ∧ y.toInt = -1
    · rw [if_pos hc, if_pos ((signedCorner_iff x y).mpr hc)]
    · rw [if_neg hc, if_neg (mt (signedCorner_iff x y).mp hc), Int.tmod_def, Int.mul_comm y.toInt]

theorem divUnsigned_quotient (x y : Word) : (divUnsigned x y).1 =
    if y = 0 then BitVec.allOnes 64 else BitVec.ofNat 64 (x.toNat / y.toNat) := by
  unfold divUnsigned
  by_cases hy : y = 0
  · rw [if_pos hy, if_pos hy]
  · rw [if_neg hy, if_neg hy]

theorem divUnsigned_remainder (x y : Word) : (divUnsigned x y).2 =
    if y = 0 then x else BitVec.ofNat 64 (x.toNat - x.toNat / y.toNat * y.toNat) := by
  unfold divUnsigned
  by_cases hy : y = 0
  · rw [if_pos hy, if_pos hy]
  · rw [if_neg hy, if_neg hy, Nat.mod_eq_sub_div_mul]

/-- Settles O2: a division that issues writes what R118 gives and takes the divider; one that finds it busy stays. -/
theorem division : Obligations.Division := by
  refine ⟨fun s t d a b g h hg hf => ⟨?_, ?_, ?_, ?_⟩, fun s t d a b g h hg hb i hi => ?_⟩
  · exact division_leads h hg hf (exec_div d a b g s) (divSigned_quotient _ _)
  · exact division_leads h hg hf (exec_rem d a b g s) (divSigned_remainder _ _)
  · exact division_leads h hg hf (exec_divn d a b g s) (divUnsigned_quotient _ _)
  · exact division_leads h hg hf (exec_remn d a b g s) (divUnsigned_remainder _ _)
  · simp only [List.mem_cons, List.not_mem_nil, or_false] at hi
    rcases hi with rfl | rfl | rfl | rfl
    · exact division_waits h hg hb (exec_div d a b g s)
    · exact division_waits h hg hb (exec_divn d a b g s)
    · exact division_waits h hg hb (exec_rem d a b g s)
    · exact division_waits h hg hb (exec_remn d a b g s)

end Sys2Proof.Machine
end

section
/-! Immediates and constants (R119, R122, R123). -/

namespace Sys2Proof.Machine

/-- Rotation by an amount below 64 is the two shifts of R117. -/
theorem rotateRight_shifts (x : Word) {n : Nat} (h : n < 64) : x.rotateRight n = (x >>> n) ||| (x <<< (64 - n)) := by
  rw [BitVec.rotateRight_def, Nat.mod_eq_of_lt h]

/-- Counted in instructions of four bytes: a shift by 2 is a product with 4. -/
theorem shiftLeft_two (x : Word) : x <<< 2 = x * 4 := (BitVec.mul_twoPow_eq_shiftLeft x 2).symm

/-- Settles O3: each form writes the value of R119, R122 or R123, four or eight bytes on. -/
theorem immediates : Obligations.Immediates := by
  refine ⟨fun s t d a imm n g h hg => ⟨?_, ?_, ?_, ?_, ?_, ?_, ?_, ?_⟩,
    fun s t d a imm g h hg => ⟨?_, ?_, ?_, ?_, ?_⟩, fun s t d imm g h hg => ⟨?_, ?_⟩⟩
  · exact setS_leads h hg (exec_addi d a imm g s)
  · exact setS_leads h hg (exec_andi d a imm g s)
  · exact setS_leads h hg (exec_ori d a imm g s)
  · exact setS_leads h hg (exec_xori d a imm g s)
  · exact setS_leads h hg (exec_shli d a n g s)
  · exact setS_leads h hg (exec_shri d a n g s)
  · exact setS_leads h hg (exec_shai d a n g s)
  · exact setS_leads h hg (exec_roti d a n g s) (rotateRight_shifts _ n.isLt)
  · exact setS_leads h hg (exec_addiLong d a imm g s)
  · exact setS_leads h hg (exec_andiLong d a imm g s)
  · exact setS_leads h hg (exec_oriLong d a imm g s)
  · exact setS_leads h hg (exec_xoriLong d a imm g s)
  · exact setS_leads h hg (exec_movi d imm g s)
  · exact setS_leads h hg (exec_lih d imm g s)
  · exact setS_leads h hg (exec_addpc d imm g s) (congrArg _ (shiftLeft_two _))

end Sys2Proof.Machine
end

section
/-! Bit operations (R120, R121). -/

namespace Sys2Proof.Machine

/-- A clause of a statement on an instruction that writes a value with a property: it follows from the property of the value the
model computes. -/
theorem setS_leads_of {s : State} {t : Task} {i : Instr} {tr : Traits} {d : SReg} {v : Task → Word} {P : Word → Prop}
    (h : Running s t) (hg : t.getP tr.guard = true) (hi : exec i s = scalarOp tr (fun t => t.setS d (v t)) s)
    (hv : P (v t)) (hn : BitVec.ofNat 64 tr.bytes = 4 := by rfl)
    (hp : tr.plain t := by exact ⟨rfl, rfl, rfl, rfl⟩) (hd : tr.divides = false := by rfl) :
    ∃ r, P r ∧ Leads (exec i s) (Only s · ((t.setS d r).setPc (t.regs.pc + 4))) :=
  ⟨v t, hv, setS_leads h hg hi rfl hn hp hd⟩

/-! ### The first set bit -/

/-- The first index below 64 at which f holds, 64 where there is none. -/
theorem firstIndex_spec (f : Nat → Bool) :
    let n := ((List.range 64).find? f).getD 64
    (n = 64 ∧ ∀ i < 64, f i = false) ∨ (n < 64 ∧ f n = true ∧ ∀ i < n, f i = false) := by
  cases hf : (List.range 64).find? f with
  | none => exact .inl ⟨rfl, by simpa using hf⟩
  | some n =>
    obtain ⟨hn, hr, hb⟩ := List.find?_range_eq_some.mp hf
    exact .inr ⟨by simpa using hr, hn, by simpa using hb⟩

/-- The count of zeros before the first set bit, as R120 words it, for any order pos of the bits. -/
theorem firstBit_spec (x : Word) (pos : Nat → Nat) (hpos : ∀ i < 64, pos (pos i) = i ∧ pos i < 64) :
    let r := BitVec.ofNat 64 (((List.range 64).find? fun i => x.getLsbD (pos i)).getD 64)
    if x = 0 then r = 64
    else r.toNat < 64 ∧ x.getLsbD (pos r.toNat) = true ∧ ∀ i < r.toNat, x.getLsbD (pos i) = false := by
  intro r
  rcases firstIndex_spec fun i => x.getLsbD (pos i) with ⟨hn, hz⟩ | ⟨hn, ht, hb⟩
  · have hx : x = 0 := BitVec.eq_of_getLsbD_eq fun i hi => by
      obtain ⟨hpp, hlt⟩ := hpos i hi
      have := hz (pos i) hlt
      simpa [hpp] using this
    rw [if_pos hx]
    exact congrArg (BitVec.ofNat 64) hn
  · have hx : x ≠ 0 := fun hx => by simp [hx] at ht
    have hr : r.toNat = ((List.range 64).find? fun i => x.getLsbD (pos i)).getD 64 := by
      rw [BitVec.toNat_ofNat]; omega
    rw [if_neg hx, hr]
    exact ⟨hn, ht, hb⟩

theorem leadingZeros_spec (x : Word) :
    let r := BitVec.ofNat 64 (leadingZeros x)
    if x = 0 then r = 64
    else r.toNat < 64 ∧ x.getLsbD (63 - r.toNat) = true ∧ ∀ i < r.toNat, x.getLsbD (63 - i) = false :=
  firstBit_spec x (63 - ·) fun i hi => by constructor <;> omega

theorem trailingZeros_spec (x : Word) :
    let r := BitVec.ofNat 64 (trailingZeros x)
    if x = 0 then r = 64 else r.toNat < 64 ∧ x.getLsbD r.toNat = true ∧ ∀ i < r.toNat, x.getLsbD i = false :=
  firstBit_spec x id fun _ hi => ⟨rfl, hi⟩

/-! ### Counting and reversing -/

/-- A fold that counts is the length of what it counts. -/
theorem foldl_count (p : Nat → Bool) (l : List Nat) (k : Nat) :
    l.foldl (fun n i => if p i then n + 1 else n) k = k + (l.filter p).length := by
  induction l generalizing k with
  | nil => rfl
  | cons a l ih =>
    rw [List.foldl_cons, ih]
    cases ha : p a
    · simp [ha]
    · simp [ha]; omega

theorem countBits_toNat (x : Word) :
    (BitVec.ofNat 64 (countBits x)).toNat = ((List.range 64).filter x.getLsbD).length := by
  have hc : countBits x = ((List.range 64).filter x.getLsbD).length := (foldl_count _ _ 0).trans (Nat.zero_add _)
  have hl : ((List.range 64).filter x.getLsbD).length ≤ 64 :=
    Nat.le_trans (List.length_filter_le _ _) (Nat.le_of_eq List.length_range)
  rw [hc, BitVec.toNat_ofNat, Nat.mod_eq_of_lt (by omega)]

/-- Appending the bits of f one after the other puts the last at the lowest place. -/
theorem testBit_foldl_append (f : Nat → Bool) (n j : Nat) :
    ((List.range n).foldl (fun a i => 2 * a + (f i).toNat) 0).testBit j = (decide (j < n) && f (n - 1 - j)) := by
  induction n generalizing j with
  | zero => simp
  | succ n ih =>
    rw [List.range_succ, List.foldl_append, List.foldl_cons, List.foldl_nil]
    have hlow := Bool.toNat_lt (f n)
    cases j with
    | zero =>
      rw [Nat.testBit_zero, Nat.mul_add_mod, Nat.mod_eq_of_lt hlow, decide_eq_true (Nat.succ_pos n), Bool.true_and,
        Nat.add_sub_cancel, Nat.sub_zero]
      cases f n <;> rfl
    | succ j =>
      rw [Nat.testBit_succ, Nat.mul_add_div (by decide), Nat.div_eq_of_lt hlow, Nat.add_zero, ih, Nat.add_sub_cancel,
        Nat.sub_sub, Nat.add_comm 1 j]
      simp only [Nat.add_lt_add_iff_right]

theorem getLsbD_reverseBits (x : Word) {i : Nat} (hi : i < 64) : (reverseBits x).getLsbD i = x.getLsbD (63 - i) := by
  rw [reverseBits, BitVec.getLsbD_ofNat, testBit_foldl_append]
  simp [hi]

/-! ### Fields -/

theorem getLsbD_fieldMask (len : Nat) {i : Nat} (hi : i < 64) : (fieldMask len).getLsbD i = decide (i < len) := by
  rw [fieldMask, BitVec.getLsbD_ofNat, Nat.testBit_two_pow_sub_one]
  simp [hi]

/-- bext: the field of x at pos, zero above its length. -/
theorem getLsbD_extractField (x : Word) (pos len : Nat) {i : Nat} (hi : i < 64) :
    ((x >>> pos) &&& fieldMask len).getLsbD i = (decide (i < len) && x.getLsbD (pos + i)) := by
  rw [BitVec.getLsbD_and, BitVec.getLsbD_ushiftRight, getLsbD_fieldMask len hi, Bool.and_comm]

/-- The mask of a field at pos. -/
theorem getLsbD_fieldMask_shift (pos len : Nat) {i : Nat} (hi : i < 64) :
    (fieldMask len <<< pos).getLsbD i = decide (pos ≤ i ∧ i < pos + len) := by
  rw [BitVec.getLsbD_shiftLeft, getLsbD_fieldMask len (by omega : i - pos < 64), Bool.eq_iff_iff]
  simp only [Bool.and_eq_true, Bool.not_eq_true', decide_eq_true_eq, decide_eq_false_iff_not]
  omega

/-- bins: the low bits of x in the field at pos, the bits of y elsewhere. -/
theorem getLsbD_insertField (x y : Word) (pos len : Nat) {i : Nat} (hi : i < 64) :
    ((y &&& ~~~(fieldMask len <<< pos)) ||| ((x <<< pos) &&& (fieldMask len <<< pos))).getLsbD i =
      if pos ≤ i ∧ i < pos + len then x.getLsbD (i - pos) else y.getLsbD i := by
  simp only [BitVec.getLsbD_or, BitVec.getLsbD_and, BitVec.getLsbD_not, getLsbD_fieldMask_shift pos len hi]
  by_cases hf : pos ≤ i ∧ i < pos + len
  · have hs : (x <<< pos).getLsbD i = x.getLsbD (i - pos) := by
      rw [BitVec.getLsbD_shiftLeft, decide_eq_true hi, decide_eq_false (Nat.not_lt.mpr hf.1)]
      rfl
    rw [if_pos hf, decide_eq_true hf, hs]
    simp
  · rw [if_neg hf, decide_eq_false hf]
    simp [hi]

/-- Settles O4: the words the model computes have the bits R120 and R121 give. -/
theorem bitOperations : Obligations.BitOperations := by
  refine ⟨fun s t d a g h hg => ⟨?_, ?_, ?_, ?_⟩, fun s t d a b g h hg => ⟨?_, ?_⟩⟩
  · exact setS_leads_of h hg (exec_clz d a g s) (leadingZeros_spec _)
  · exact setS_leads_of h hg (exec_ctz d a g s) (trailingZeros_spec _)
  · exact setS_leads_of h hg (exec_popc d a g s) (countBits_toNat _)
  · exact setS_leads_of h hg (exec_brev d a g s) fun i => getLsbD_reverseBits _
  · exact setS_leads_of h hg (exec_bext d a b g s) fun i => getLsbD_extractField _ _ _
  · exact setS_leads_of h hg (exec_bins d a b g s) fun i => getLsbD_insertField _ _ _ _

end Sys2Proof.Machine
end

section
/-! Compares, predicate logic and select (R97, R125 to R128). -/

namespace Sys2Proof.Machine

/-- Settles O5: each condition is the comparison of R97 on integers or naturals, and p[pd] takes it under a true guard. -/
theorem comparesAndPredicates : Obligations.ComparesAndPredicates := by
  intro s t cc pd pa pb pc g d a b imm long tt gl h holds sets
  have hcc : ∀ x y : Word, cc.holds x y = holds x y := fun x y => by
    cases cc with
    | eq => rfl
    | ne => exact (decide_not (p := x = y)).symm
    | lt | gt => exact BitVec.slt_eq_decide
    | ge | le => exact BitVec.sle_eq_decide
    | ltn | gtn => exact BitVec.ult_eq_decide
    | gen | len => exact BitVec.ule_eq_decide
  refine ⟨?_, ?_, ?_, ?_, ?_⟩
  · exact setP_leads h (exec_cmp cc pd a b g s) (hcc _ _)
  · exact setP_leads h (exec_cmpi cc pd a imm g s) (hcc _ _)
  · exact setP_leads h (exec_cmpiLong cc pd a long gl s) (hcc _ _)
  · exact setP_leads h (exec_plog pd pa pb tt g s) rfl
  · exact setS_leads h rfl (exec_sel d a b pc s)

end Sys2Proof.Machine
end

section
/-! Branches and jumps (R53, R145, R146). -/

namespace Sys2Proof.Machine

/-- A plain instruction whose body goes on at an address of its own. -/
theorem jump_leads {s : State} {t u : Task} {tr : Traits} {body : State → Task → Out} {pc : Word}
    (h : Running s t) (hb : body s t = .next (s.retireAt tr u pc))
    (hu : u.flow = t.flow := by simp) (hg : t.getP tr.guard = true := by rfl)
    (hp : tr.plain t := by exact ⟨rfl, rfl, rfl, rfl⟩) (hd : tr.divides = false := by rfl) :
    Leads (issue tr body s) (Only s · (u.setPc pc)) :=
  ⟨_, (issue_plain body h hg hp (.inl hd)).trans hb, State.retireAt_only h tr u pc hu⟩

/-- The target of R145, in bytes. -/
theorem branchTarget_eq (t : Task) (off : BitVec 22) : branchTarget t off = t.regs.pc + off.signExtend 64 * 4 :=
  congrArg _ (shiftLeft_two _)

/-- A jump to an aligned address retires there. -/
theorem jumpTo_aligned {s : State} {t : Task} {target : Word} (tr : Traits) (link : Task → Task)
    (ha : target.toNat % 4 = 0) : jumpTo tr t s target link = .next (s.retireAt tr (link t) target) := by
  simp [jumpTo, ha]

/-- Where br goes: to the target when the predicate differs from inv. -/
theorem branch_next (s : State) (t : Task) (tr : Traits) (g : PReg) (inv : Bool) (off : BitVec 22) (hn : tr.bytes = 4) :
    (if t.getP g != inv then s.retireAt tr t (branchTarget t off) else s.retire tr t) =
      s.retireAt tr t (if (t.getP g = true ↔ inv = false) then t.regs.pc + off.signExtend 64 * 4 else t.regs.pc + 4) := by
  rw [branchTarget_eq, State.retire, nextPc, hn]
  cases t.getP g <;> cases inv <;> rfl

/-- Settles O8: each branch and jump retires at the address R145 and R146 give, its link written after s[a] is read. -/
theorem branchesAndJumps : Obligations.BranchesAndJumps := by
  intro s t g inv off d a h
  refine ⟨?_, ?_, ?_, fun hg ha => ⟨?_, ?_⟩⟩
  · show Leads (execBr g inv off s) _
    unfold execBr
    exact jump_leads h (congrArg _ (branch_next s t _ g inv off rfl))
  · show Leads (execJ off s) _
    unfold execJ
    exact jump_leads h (by rw [branchTarget_eq])
  · show Leads (execJal off s) _
    unfold execJal
    exact jump_leads h (by rw [branchTarget_eq])
  · show Leads (execJr a g s) _
    unfold execJr
    exact jump_leads h (jumpTo_aligned _ _ ha) rfl hg
  · show Leads (execJalr d a g s) _
    unfold execJalr
    exact jump_leads h (jumpTo_aligned _ _ ha) (by simp) hg

end Sys2Proof.Machine
end

section
/-! trap, brk and eret, and words that name no instruction (R88, R100, R149 to R151, R301, R350). -/

namespace Sys2Proof.Machine

/-! ### Causes of a context with nothing in flight -/

/-- An idle context takes its cause at once. -/
theorem State.raise_idle {s : State} {t : Task} (i : Nat) (c : Trap) (h : t.flow.inflight = []) :
    s.raise i t c = s.enterUpcall i t c 0 := by
  simp [State.raise, Flow.busy_idle h]

/-- What State.illegal answers for an idle context. -/
theorem State.illegal_idle {s : State} {t : Task} (tr : Traits) (h : t.flow.inflight = []) :
    s.illegal tr t = .next (s.enterUpcall s.focus t (cause ILLEGAL (BitVec.ofNat 64 tr.word) t.regs.pc) 0) :=
  congrArg _ (State.raise_idle _ _ h)

/-! ### Before and after a retirement -/

/-- An instruction that ends windows and has neither guard nor operands issues in every running context. -/
theorem issue_ending {s : State} {t : Task} (i : Instr) (body : State → Task → Out) (h : Running s t) :
    issue { traits i with ends := true } body s = body s t :=
  issue_plain body h rfl ⟨rfl, rfl, rfl, rfl⟩ (.inl rfl)

theorem Only.focus_eq {s m : State} {u : Task} (ho : Only s m u) : m.focus = s.focus := by
  rw [← ho.rest]

/-- The task that the model reads back after a retirement. -/
theorem Only.getD_task {s m : State} {u v : Task} (ho : Only s m u) (hv : m.task? s.focus = some v) (t : Task) :
    (m.task? m.focus).getD t = v := by
  rw [ho.focus_eq, hv]; rfl

/-- Setting the context in focus once more after a retirement: that context holds w, and the rest is what the retirement left. -/
theorem Only.setTask {s m : State} {u : Task} (ho : Only s m u) (w : Task) :
    s.Apart (m.setTask s.focus w) ∧ s.sameBytes (m.setTask s.focus w) ∧ (m.setTask s.focus w).chains = s.chains ∧
      { m.setTask s.focus w with ctxs := s.ctxs, cores := s.cores } = s := by
  have hchains : m.chains = s.chains := by rw [← ho.rest]
  refine ⟨⟨fun i hi => ?_, ho.cores⟩, ho.bytes, hchains, ho.rest⟩
  rw [State.task?_setTask_other _ _ hi, ho.others i hi]

/-! ### trap and brk -/

/-- A break retires its instruction, and its context takes BREAK with the pc behind it (R149). -/
theorem breakWith_leads {s : State} {t : Task} {tr : Traits} (h : Running s t) (n : Nat) (hn : tr.bytes = 4) :
    Leads (breakWith tr n s t) fun s' => ∃ m v, Only s m (t.setPc (t.regs.pc + 4)) ∧ m.task? s.focus = some v ∧
      s' = m.enterUpcall s.focus v (cause BREAK (BitVec.ofNat 64 n) (t.regs.pc + 4)) 0 := by
  have ho := State.retire_only h tr t rfl
  rw [hn] at ho
  obtain ⟨v, hv, hag, hfl⟩ := ho.task
  have hpc : v.regs.pc = t.regs.pc + 4 := congrArg (fun u : Task => u.regs.pc) hag
  have hin : v.flow.inflight = [] := by rw [hfl]; rfl
  refine ⟨_, rfl, _, v, ho, hv, ?_⟩
  rw [ho.getD_task hv, State.raise_idle _ _ hin, hpc, ho.focus_eq]

/-! ### eret -/

/-- A task that agrees with another is that one but for its flow and rank. -/
theorem Task.agrees_eq {t u : Task} (h : t.agrees u) : t = { u with flow := t.flow, rank := t.rank } := by
  rw [← h]

theorem Task.agrees_ctl {t u : Task} (h : t.agrees u) : t.ctl = u.ctl := by
  rw [Task.agrees_eq h]

/-- The return from an upcall sets the pc alone, as far as the registers go. -/
theorem Task.resume_agrees {v t : Task} {pc : Word} (h : v.agrees (t.setPc pc)) :
    v.resume.agrees (t.setPc (addrField t.ctl.upcPc)) := by
  rw [Task.agrees_eq h]; rfl

theorem Task.leaveXfer_agrees {v u : Task} (h : v.agrees u) : v.leaveXfer.agrees u := by
  rw [Task.agrees_eq h]; rfl

/-- The return from an upcall ends the handler and any suspension, and skips what WDONE records behind UPC_PC (R55, R151). -/
theorem Task.resume_flow (v : Task) :
    v.resume.flow.inUpcall = false ∧ v.resume.flow.suspended = false ∧ v.resume.flow.resumed = true ∧
      v.resume.flow.skip.headD false = false ∧
      ∀ j < 15, v.resume.flow.skip.getD (j + 1) false = v.ctl.upcCause.getLsbD (16 + j) := by
  refine ⟨rfl, rfl, rfl, rfl, fun j hj => ?_⟩
  simp [Task.resume, hj]

/-- The return from a copy-completion handler brings back what it had interrupted (R301). -/
theorem Task.leaveXfer_flow (v : Task) :
    v.leaveXfer.flow.inXfer = false ∧
      ∀ r k, v.flow.held = some (r, k) → v.leaveXfer.flow.resumed = r ∧ v.leaveXfer.flow.skip = k := by
  refine ⟨rfl, fun r k hk => ?_⟩
  simp [Task.leaveXfer, hk]

/-- A chain after the return from an upcall of a task: a fault that the task has taken is over (R278). -/
def Chain.redo (tid : Word) (c : Chain) : Chain :=
  if (c.faultOf tid && c.told) = true then { c with fault := none, told := false } else c

theorem State.resumeMerge_chains (s : State) (tid : Word) (c : Nat) :
    (s.resumeMerge tid).chains.get? c = (s.chains.get? c).map (Chain.redo tid) :=
  Tab.get?_map (Chain.redo tid) s.chains c

/-- eret in an upcall handler (R151). -/
theorem execEret_upcall {s : State} {t : Task} (h : Running s t) (hu : t.flow.inUpcall = true) :
    ∃ (m : State) (v : Task), Only s m (t.setPc (t.regs.pc + 4)) ∧ v.agrees (t.setPc (t.regs.pc + 4)) ∧
      v.flow = t.flow.retired ∧ execEret s = .next ((m.setTask s.focus v.resume).resumeMerge t.ident.tid) := by
  have ho := State.retire_only h { traits .eret with ends := true } t rfl
  obtain ⟨v, hv, hag, hfl⟩ := ho.task
  refine ⟨_, v, ho, hag, hfl, ?_⟩
  unfold execEret
  rw [issue_ending _ _ h, if_pos hu]
  dsimp only
  rw [ho.getD_task hv, ho.focus_eq]

/-- eret in a copy-completion handler (R301). -/
theorem execEret_xfer {s : State} {t : Task} (h : Running s t) (hu : t.flow.inUpcall = false) (hx : t.flow.inXfer = true) :
    ∃ (m : State) (v : Task), Only s m (t.setPc (addrField t.ctl.xferPc)) ∧ v.agrees (t.setPc (addrField t.ctl.xferPc)) ∧
      v.flow = t.flow.retired ∧ execEret s = .next (m.setTask s.focus v.leaveXfer) := by
  have ho := State.retireAt_only h { traits .eret with ends := true } t (addrField t.ctl.xferPc) rfl
  obtain ⟨v, hv, hag, hfl⟩ := ho.task
  refine ⟨_, v, ho, hag, hfl, ?_⟩
  unfold execEret
  rw [issue_ending _ _ h, if_neg (by simp [hu]), if_pos hx]
  dsimp only
  rw [ho.getD_task hv, ho.focus_eq]

/-- eret outside both handlers is refused. -/
theorem execEret_outside {s : State} {t : Task} (h : Running s t) (hu : t.flow.inUpcall = false)
    (hx : t.flow.inXfer = false) :
    execEret s = .next (s.enterUpcall s.focus t (cause ILLEGAL (BitVec.ofNat 64 (word0 .eret)) t.regs.pc) 0) := by
  unfold execEret
  rw [issue_ending _ _ h, if_neg (by simp [hu]), if_neg (by simp [hx])]
  exact State.illegal_idle _ h.idle

/-! ### What each raises or does at issue -/

theorem execTrap_running {s : State} {t : Task} (n : BitVec 8) (h : Running s t) :
    execTrap n s = breakWith { traits (.trap n) with ends := true } n.toNat s t := by
  unfold execTrap
  exact issue_ending _ _ h

/-- brk: what the debug module says of the core decides (R150, R350). -/
theorem execBrk_running {s : State} {t : Task} (n : BitVec 8) (h : Running s t) :
    execBrk n s =
      if (s.cluster (coreCluster s.here)).dbg.ctl.getLsbD (s.here % 8) then
        .next (if (s.cluster (coreCluster s.here)).dbg.ctl.getLsbD 8 then s.dipNow (coreCluster s.here) 4 0 s.here
          else s.haltCore s.here)
      else breakWith { traits (.brk n) with ends := true } (0x100 + n.toNat) s t := by
  unfold execBrk
  exact issue_ending _ _ h

theorem execIllegalWord_running {s : State} {t : Task} (w : BitVec 32) (h : Running s t) :
    execIllegalWord w s = .next (s.enterUpcall s.focus t (cause ILLEGAL (w.zeroExtend 64) t.regs.pc) 0) := by
  unfold execIllegalWord
  rw [issue_plain _ h rfl ⟨rfl, rfl, rfl, rfl⟩ (.inl rfl), State.illegal_idle _ h.idle]
  exact congrArg (fun x => Host.Outcome.next (s.enterUpcall s.focus t (cause ILLEGAL x t.regs.pc) 0)) (BitVec.ofNat_toNat 64 w)

/-- Settles O18: breaks retire and raise BREAK or halt, eret returns from the handler the context is in, and what is left is
refused. -/
theorem trapsAndReturns : Obligations.TrapsAndReturns := by
  refine ⟨fun s t n h => ⟨?_, fun hc => ?_, fun hc h8 => ?_, fun hc h8 => ?_⟩,
    fun s t h => ⟨fun hu => ?_, fun hu hx => ?_, fun hu hx => ?_⟩, fun s t w h => ?_⟩
  · show Leads (execTrap n s) _
    rw [execTrap_running n h]
    exact breakWith_leads h _ rfl
  · show Leads (execBrk n s) _
    rw [execBrk_running n h, hc]
    exact breakWith_leads h _ rfl
  · exact (execBrk_running n h).trans (by rw [hc, h8]; rfl)
  · exact (execBrk_running n h).trans (by rw [hc, h8]; rfl)
  · obtain ⟨m, v, ho, hag, -, he⟩ := execEret_upcall h hu
    obtain ⟨hapart, hbytes, hchains, hrest⟩ := ho.setTask v.resume
    have hctl : v.ctl = t.ctl := (Task.agrees_ctl hag).trans (Task.setPc_ctl _ _)
    refine ⟨_, he, ⟨v.resume, State.task?_setTask_same _ _ _, Task.resume_agrees hag, hctl ▸ Task.resume_flow v⟩,
      ⟨hapart.others, hapart.cores⟩, hbytes, fun c => ?_, ?_⟩
    · rw [State.resumeMerge_chains, hchains]; rfl
    · exact congrArg (fun x : State => { x with chains := s.chains }) hrest
  · obtain ⟨m, v, ho, hag, hfl, he⟩ := execEret_xfer h hu hx
    obtain ⟨hapart, hbytes, hchains, hrest⟩ := ho.setTask v.leaveXfer
    have hheld : v.flow.held = t.flow.held := by rw [hfl]; rfl
    refine ⟨_, he, ⟨v.leaveXfer, State.task?_setTask_same _ _ _, Task.leaveXfer_agrees hag, hheld ▸ Task.leaveXfer_flow v⟩,
      hapart, hbytes, fun c => ?_, ?_⟩
    · rw [hchains, Option.map_id]; rfl
    · exact congrArg (fun x : State => { x with chains := s.chains }) hrest
  · exact execEret_outside h hu hx
  · exact execIllegalWord_running w h

end Sys2Proof.Machine
end

section
/-! The mask group (R163), and the instructions that read VL and masks (R164, R165). -/

namespace Sys2Proof.Machine

/-! ### The mask group -/

/-- What an operation of the mask group makes of the masks it reads; kmov gives the first. -/
def maskValue (op : VOp) (x y : KWord) : KWord :=
  match op with
  | .kand => x &&& y
  | .kor => x ||| y
  | .kxor => x ^^^ y
  | .kandn => x &&& ~~~y
  | _ => x

/-- An operation of the mask group writes its value of whole mask registers to k[d], and VL plays no part. -/
theorem maskOp_leads {s : State} {t : Task} {b : Nat} (h : Armed s t b) (i : Instr) (bytes : Nat) (op : VOp)
    (d ka kb : KReg) :
    Leads (maskOp i bytes op d ka kb s)
      (OnlyBank s · (t.setPc (t.regs.pc + BitVec.ofNat 64 bytes)) b
        ((s.bankHere b).setK d (maskValue op ((s.bankHere b).getK ka) ((s.bankHere b).getK kb)))) := by
  unfold maskOp
  rw [issue_armed _ h rfl rfl (fun _ hq => absurd hq List.not_mem_nil) rfl, h.bank]
  have hdone := fun tr => State.vecDone_only h.toRunning tr h.bank
    ((s.bankHere b).setK d (maskValue op ((s.bankHere b).getK ka) ((s.bankHere b).getK kb))) 0
  simp only [Task.raiseFlags_zero] at hdone
  exact hdone _

/-- The v field of a long form that names a mask register gives back that register (R116). -/
theorem ofNat_castLE_mask (r : KReg) : Fin.ofNat 8 (r.castLE (by decide) : VReg).val = r :=
  Fin.ext (Nat.mod_eq_of_lt r.isLt)

/-- The long form of an operation of the mask group is that operation, in eight bytes. -/
theorem execVectorOpLong_mask {op : VOp} (hop : op.isMask = true) (ty : Ty) (d ka kb : KReg) (k : KReg) (rc : Rc)
    (s : State) :
    let v := fun r : KReg => (r.castLE (by decide) : VReg)
    execVectorOpLong op ty (v d) (.v (v ka)) (.v (v kb)) k rc s =
      maskOp (.vectorOpLong op ty (v d) (.v (v ka)) (.v (v kb)) k rc) 8 op d ka kb s := by
  unfold execVectorOpLong
  simp only [hop, if_true, maskField, ofNat_castLE_mask]

/-- Both forms of an operation of the mask group write the same value, four or eight bytes on. -/
theorem mask_forms_lead {s : State} {t : Task} {b : Nat} (h : Armed s t b) {i : Instr} {op : VOp} {d ka kb : KReg}
    (hi : exec i s = maskOp i 4 op d ka kb s) (hop : op.isMask = true := by rfl) :
    let v := fun r : KReg => (r.castLE (by decide) : VReg)
    let bk := (s.bankHere b).setK d (maskValue op ((s.bankHere b).getK ka) ((s.bankHere b).getK kb))
    Leads (exec i s) (OnlyBank s · (t.setPc (t.regs.pc + 4)) b bk) ∧
      Leads (exec (.vectorOpLong op .i8 (v d) (.v (v ka)) (.v (v kb)) 0 (.fixed .rne)) s)
        (OnlyBank s · (t.setPc (t.regs.pc + 8)) b bk) := by
  refine ⟨?_, ?_⟩
  · rw [hi]
    exact maskOp_leads h i 4 op d ka kb
  · rw [exec_vectorOpLong, execVectorOpLong_mask hop]
    exact maskOp_leads h _ 8 op d ka kb

/-! ### VL -/

/-- vsetl sets VL and s[d] to the lesser of s[a] and VLMAX (R165). -/
theorem execVsetl_leads {s : State} {t : Task} (h : Running s t) (ty : Ty) (d a : SReg) :
    let len := BitVec.ofNat 64 (min (t.getS a).toNat ty.vlmax)
    Leads (execVsetl ty d a s)
      (Only s · (((t.setCtl { t.ctl with vl := len }).setS d len).setPc (t.regs.pc + 4))) :=
  scalar_leads { regTraits (.vsetl ty d a) 0 [d, a] with event := 9 }
    (fun t => (t.setCtl { t.ctl with vl := BitVec.ofNat 64 (min (t.getS a).toNat ty.vlmax) }).setS d _)
    h rfl rfl rfl rfl rfl rfl (.inl rfl) rfl rfl

/-! ### Reads of a mask -/

/-- An instruction that reads a mask writes to s[d] what f makes of the indices of the set bits it reads. -/
theorem maskRead_leads {s : State} {t : Task} {b : Nat} (h : Running s t) (hb : t.bank = some b) (i : Instr) (ty : Ty)
    (d : SReg) (k : KReg) (f : List Nat → Word) :
    Leads (maskRead i ty d k f s)
      (Only s · ((t.setS d (f ((maskBits ty (t.effLen ty)).filter ((s.bankHere b).getK k).getLsbD))).setPc
        (t.regs.pc + 4))) := by
  unfold maskRead
  rw [issue_running _ h rfl (Task.waits_idle _ _ _ h.idle h.settled (.inl rfl) (.inl rfl))
    (State.issueCause_bank _ _ h.idle hb (fun _ hq => absurd hq List.not_mem_nil) rfl), hb]
  have hdone := fun tr : Traits => State.retire_only h tr
    (t.setS d (f ((maskBits ty (t.effLen ty)).filter ((s.bankHere b).getK k).getLsbD))) (by simp)
  simp only [Task.setS_pc] at hdone
  exact ⟨_, rfl, hdone _⟩

/-- The mask bits of n elements: one for each, and one for every two of e2m1 (R35, R164). -/
theorem maskBits_eq (ty : Ty) (n : Nat) : maskBits ty n = List.range (if ty = .e2m1 then (n + 1) / 2 else n) := by
  simp [maskBits]

/-- Of the indices below n at which p holds, the first is the one that p holds at and at none before. -/
theorem head?_filter_range {p : Nat → Bool} {n e : Nat} (he : e < n) (hp : p e = true) (hb : ∀ j < e, p j = false) :
    ((List.range n).filter p).head? = some e := by
  rw [List.head?_filter, List.find?_range_eq_some]
  exact ⟨hp, List.mem_range.mpr he, fun j hj => by rw [hb j hj]; rfl⟩

theorem filter_range_eq_nil {p : Nat → Bool} {n : Nat} (hp : ∀ e < n, p e = false) : (List.range n).filter p = [] :=
  List.filter_eq_nil_iff.mpr fun e he => by simp [hp e (List.mem_range.mp he)]

/-- The word vfirstk makes of the indices of the set bits: the first element the first of them governs (R164). -/
def firstElement (ty : Ty) (es : List Nat) : Word :=
  match es.head? with
  | some e => BitVec.ofNat 64 (if ty == .e2m1 then 2 * e else e)
  | none => BitVec.allOnes 64

theorem execVfirstk_eq (ty : Ty) (d : SReg) (k : KReg) (s : State) :
    execVfirstk ty d k s = maskRead (.vfirstk ty d k) ty d k (firstElement ty) s := rfl

theorem firstElement_nil (ty : Ty) : firstElement ty [] = BitVec.allOnes 64 := rfl

theorem firstElement_of_head {ty : Ty} {es : List Nat} {e : Nat} (he : es.head? = some e) :
    firstElement ty es = BitVec.ofNat 64 ((if ty = .e2m1 then 2 else 1) * e) := by
  unfold firstElement
  rw [he]
  by_cases ht : ty = .e2m1 <;> simp [ht]

/-- vpopk counts the set bits of the effective length. -/
theorem execVpopk_leads {s : State} {t : Task} {b : Nat} (h : Running s t) (hb : t.bank = some b) (ty : Ty) (d : SReg)
    (k : KReg) :
    let bits := List.range (if ty = .e2m1 then (t.effLen ty + 1) / 2 else t.effLen ty)
    Leads (execVpopk ty d k s)
      (Only s · ((t.setS d (BitVec.ofNat 64 (bits.filter ((s.bankHere b).getK k).getLsbD).length)).setPc
        (t.regs.pc + 4))) := by
  have hr := maskRead_leads h hb (.vpopk ty d k) ty d k fun es => BitVec.ofNat 64 es.length
  rwa [maskBits_eq] at hr

/-- vfirstk writes the first element that the set bits of the effective length govern. -/
theorem execVfirstk_leads {s : State} {t : Task} {b : Nat} (h : Running s t) (hb : t.bank = some b) (ty : Ty) (d : SReg)
    (k : KReg) {r : Word}
    (hr : firstElement ty ((List.range (if ty = .e2m1 then (t.effLen ty + 1) / 2 else t.effLen ty)).filter
      ((s.bankHere b).getK k).getLsbD) = r) :
    Leads (execVfirstk ty d k s) (Only s · ((t.setS d r).setPc (t.regs.pc + 4))) := by
  have hread := maskRead_leads h hb (.vfirstk ty d k) ty d k (firstElement ty)
  rwa [maskBits_eq, hr, ← execVfirstk_eq] at hread

/-- Settles O24: each operation writes its value of whole masks, and each read of a mask takes the bits of the effective
length. -/
theorem masks : Obligations.Masks := by
  refine ⟨fun s t b d ka kb h => ⟨?_, ?_, ?_, ?_, ?_⟩,
    fun s t b ty d a k h hb => ⟨?_, ?_, fun hz => ?_, fun e he hs hf => ?_⟩⟩
  · exact mask_forms_lead h (exec_kand d ka kb s)
  · exact mask_forms_lead h (exec_kor d ka kb s)
  · exact mask_forms_lead h (exec_kxor d ka kb s)
  · exact mask_forms_lead h (exec_kandn d ka kb s)
  · exact mask_forms_lead h (exec_kmov d ka s)
  · exact execVsetl_leads h ty d a
  · exact execVpopk_leads h hb ty d k
  · exact execVfirstk_leads h hb ty d k ((congrArg _ (filter_range_eq_nil hz)).trans (firstElement_nil ty))
  · exact execVfirstk_leads h hb ty d k (firstElement_of_head (head?_filter_range he hs hf))

end Sys2Proof.Machine
end
